-- ==== Sys2Proof/Word.lean ====
section
/-! DEFINITION. The word types of the HX416: bytes and words of its links, time-base values, unit numbers and
counters. The arithmetic over them stands in Machine/Ops.lean and Machine/Operands.lean. -/
namespace Sys2Proof

/-- One byte of a link frame (R172). -/
abbrev Byte := BitVec 8

/-- A field of two bytes (R176). -/
abbrev Half := BitVec 16

/-- A field of four bytes (R176). -/
abbrev Word := BitVec 32

end Sys2Proof
end

