-- ==== Sys2Proof/Syntax.lean ====
section
/-! DEFINITION. The commands of the HX416: one constructor of `Instr` per row of spec/opcode_table.json, and the
request a frame of the cell link spells. Operands of a request are the fields of Table 11-6 at their widths, so that
every value a frame can carry is there, in range or not. -/
namespace Sys2Proof

/-- The two gantries; DL0 serves the load gantry and DL1 the unload gantry (R99). -/
inductive Gantry where
  | load
  | unload
deriving DecidableEq, Repr

/-- The three links the part receives frames on (R99, R172). -/
inductive Link where
  | cell
  | drive (g : Gantry)
deriving DecidableEq, Repr

/-- Origin and pitches of a grid as SETUP_SOAK and SETUP_STATION carry them (Table 11-6). -/
structure GridArg where
  originX : Word
  originY : Word
  columnPitch : Word
  rowPitch : Word
deriving DecidableEq, Repr

/-- The part of a SETUP_STATION: TRAY when the part byte is 0; any other part byte comes with the ten-byte form and
is NEST for 1 and out of range otherwise (R81, Table 11-6). -/
inductive StationPart where
  | tray (rows columns : Byte) (grid : GridArg)
  | other (part : Byte) (x y : Word)
deriving DecidableEq, Repr

/-- One entry of SET_BIN (Table 11-6). -/
structure BinArg where
  bin : Byte
  category : Byte
  alternate : Byte
  condition : Byte
  flags : Byte
deriving DecidableEq, Repr

/-- One entry of SET_LOT (Table 11-6). -/
structure ParamArg where
  number : Byte
  value : Word
deriving DecidableEq, Repr

/-- One entry of SET_CATEGORY (Table 11-6). -/
structure CategoryArg where
  category : Byte
  destination : Byte
deriving DecidableEq, Repr

/-- Trims nx and ny of one load nozzle, two's complement (Table 11-6). -/
structure TrimArg where
  x : Half
  y : Half
deriving DecidableEq, Repr

/-- Levels of BVh.k and BINh.k[4:0] at the EOT edge (Table 7-2). -/
structure BinLine where
  valid : Bool
  code : BitVec 5
deriving DecidableEq, Repr

/-- A request of the cell link with its fields (Tables 11-3 and 11-6). -/
inductive Request where
  | setupAxis (axis : Byte) (k : Half) (lmax park : Word)
  | setupCamera (scale : Half) (x y : Word) (trims : Vector TrimArg 4)
  | setupSocket (socket : Byte) (loadX loadY unloadX unloadY : Word) (tx ty window : Half) (policy : Byte)
  | setupSoak (load unload : GridArg)
  | setupStation (station : Byte) (part : StationPart)
  | setupChute (x y : Word)
  | lotOpen (lot : Half)
  | setLot (entries : List ParamArg)
  | setBin (entries : List BinArg)
  | setCategory (entries : List CategoryArg)
  | lotStart
  | lotPurge
  | lotClose
  | armInput (station mode : Byte) (first count : Half) (more : Byte)
  | armOutput (station : Byte) (first count : Half)
  | socketEnable (socket : Byte)
  | socketDisable (socket : Byte)
  | socketClear (socket : Byte)
  | soakClear (position : Byte)
  | unitClear (unit : Word)
  | hold
  | resume
  | holdNow
  | recover (mask loadPresence unloadPresence : Byte)
  | setMode (mode : Byte) (driveTimeout settleDelay : Half)
  | cycle (mask : Byte)
  | setHoldpoint (index kind : Byte) (value : Word) (enabled : Byte)
  | setProtect (value : Byte)
  | status (factor : Byte)
  | unitQuery (unit : Word) (place : Half)
  | socketQuery (socket : Byte)
  | headQuery (head : Byte)
  | stationQuery (station : Byte)
  | lotSummary
  | logRead (count : Byte)
  | noticeEnable (mask : Word)
  | noticeClear (mask : Word)
  | reset
deriving DecidableEq, Repr

/-- The commands: one constructor per row of spec/opcode_table.json. A request row is the arrival of a complete frame
with that request, its tag first (R175); log entry 2 says when it is taken. -/
inductive Instr where
  | cellFrameReceived (bytes : List Byte)
  | unknownKind (tag kind : Byte) (payload : List Byte)
  | setupAxis (tag axis : Byte) (k : Half) (lmax park : Word)
  | setupCamera (tag : Byte) (scale : Half) (x y : Word) (trims : Vector TrimArg 4)
  | setupSocket (tag socket : Byte) (loadX loadY unloadX unloadY : Word) (tx ty window : Half) (policy : Byte)
  | setupSoak (tag : Byte) (load unload : GridArg)
  | setupStation (tag station : Byte) (part : StationPart)
  | setupChute (tag : Byte) (x y : Word)
  | lotOpen (tag : Byte) (lot : Half)
  | setLot (tag : Byte) (entries : List ParamArg)
  | setBin (tag : Byte) (entries : List BinArg)
  | setCategory (tag : Byte) (entries : List CategoryArg)
  | lotStart (tag : Byte)
  | lotPurge (tag : Byte)
  | lotClose (tag : Byte)
  | armInput (tag station mode : Byte) (first count : Half) (more : Byte)
  | armOutput (tag station : Byte) (first count : Half)
  | socketEnable (tag socket : Byte)
  | socketDisable (tag socket : Byte)
  | socketClear (tag socket : Byte)
  | soakClear (tag position : Byte)
  | unitClear (tag : Byte) (unit : Word)
  | hold (tag : Byte)
  | resume (tag : Byte)
  | holdNow (tag : Byte)
  | recover (tag mask loadPresence unloadPresence : Byte)
  | setMode (tag mode : Byte) (driveTimeout settleDelay : Half)
  | cycle (tag mask : Byte)
  | setHoldpoint (tag index kind : Byte) (value : Word) (enabled : Byte)
  | setProtect (tag value : Byte)
  | status (tag factor : Byte)
  | unitQuery (tag : Byte) (unit : Word) (place : Half)
  | socketQuery (tag socket : Byte)
  | headQuery (tag head : Byte)
  | stationQuery (tag station : Byte)
  | lotSummary (tag : Byte)
  | logRead (tag count : Byte)
  | noticeEnable (tag : Byte) (mask : Word)
  | noticeClear (tag : Byte) (mask : Word)
  | reset (tag : Byte)
  | replySent
  | noticeSent
  | done (g : Gantry) (bytes : List Byte)
  | driveReplyTimerExpiry (g : Gantry)
  | settleTimerExpiry
  | fillTimerExpiry (head : Fin 4)
  | testTimerExpiry (head : Fin 4)
  | soakExpiry (unit : Word)
  | stagingTimerExpiry
  | eot (head : Fin 4) (lines : Vector BinLine 4)
  | doorActive
  | doorInactive
  | estopActive
  | estopInactive
  | resetNLow
  | resetNRelease (rate : Bool)
  | powerUp (rate : Bool)
  | byteGapTimeout (link : Link)
deriving DecidableEq, Repr

end Sys2Proof
end

