-- ==== Sys2Proof/Decode.lean ====
section
/-! DEFINITION. Bytes and requests: the big-endian fields of R172 and R176, the payload that carries a request
(Table 11-6), the reading of a request from a frame's kind and payload in the order of R175, and decodeTableWord. -/
namespace Sys2Proof

/-- A two-byte field, most significant byte first (R172). -/
def be16 (w : Half) : List Byte := [w.extractLsb' 8 8, w.extractLsb' 0 8]

/-- A four-byte field, most significant byte first (R172). -/
def be32 (w : Word) : List Byte :=
  [w.extractLsb' 24 8, w.extractLsb' 16 8, w.extractLsb' 8 8, w.extractLsb' 0 8]

/-- The byte at offset i of a payload. -/
def rd8 (p : List Byte) (i : Nat) : Byte := p.getD i 0

/-- The two-byte field at offset i of a payload. -/
def rd16 (p : List Byte) (i : Nat) : Half := rd8 p i ++ rd8 p (i + 1)

/-- The four-byte field at offset i of a payload. -/
def rd32 (p : List Byte) (i : Nat) : Word := rd16 p i ++ rd16 p (i + 2)

/-- Bytes of a grid, in the order of Table 11-6. -/
def GridArg.bytes (g : GridArg) : List Byte :=
  be32 g.originX ++ be32 g.originY ++ be32 g.columnPitch ++ be32 g.rowPitch

/-- The grid at offset i of a payload. -/
def rdGrid (p : List Byte) (i : Nat) : GridArg :=
  { originX := rd32 p i, originY := rd32 p (i + 4), columnPitch := rd32 p (i + 8), rowPitch := rd32 p (i + 12) }

/-- Bytes of the part field and what follows it in SETUP_STATION. -/
def StationPart.bytes : StationPart → List Byte
  | .tray rows columns grid => [0, rows, columns] ++ grid.bytes
  | .other part x y => part :: (be32 x ++ be32 y)

/-- Bytes of one SET_BIN entry. -/
def BinArg.bytes (e : BinArg) : List Byte := [e.bin, e.category, e.alternate, e.condition, e.flags]

/-- Bytes of one SET_LOT entry. -/
def ParamArg.bytes (e : ParamArg) : List Byte := e.number :: be32 e.value

/-- Bytes of one SET_CATEGORY entry. -/
def CategoryArg.bytes (e : CategoryArg) : List Byte := [e.category, e.destination]

/-- Bytes of one nozzle's trims. -/
def TrimArg.bytes (t : TrimArg) : List Byte := be16 t.x ++ be16 t.y

/-- The entries of SET_LOT after the count byte. -/
def rdParams : Nat → List Byte → List ParamArg
  | 0, _ => []
  | n + 1, p => { number := rd8 p 0, value := rd32 p 1 } :: rdParams n (p.drop 5)

/-- The entries of SET_BIN after the count byte. -/
def rdBins : Nat → List Byte → List BinArg
  | 0, _ => []
  | n + 1, p =>
    { bin := rd8 p 0, category := rd8 p 1, alternate := rd8 p 2, condition := rd8 p 3, flags := rd8 p 4 }
      :: rdBins n (p.drop 5)

/-- The entries of SET_CATEGORY after the count byte. -/
def rdCategories : Nat → List Byte → List CategoryArg
  | 0, _ => []
  | n + 1, p => { category := rd8 p 0, destination := rd8 p 1 } :: rdCategories n (p.drop 2)

/-- The trims of the four load nozzles at offset i. -/
def rdTrims (p : List Byte) (i : Nat) : Vector TrimArg 4 :=
  #v[{ x := rd16 p i, y := rd16 p (i + 2) }, { x := rd16 p (i + 4), y := rd16 p (i + 6) },
     { x := rd16 p (i + 8), y := rd16 p (i + 10) }, { x := rd16 p (i + 12), y := rd16 p (i + 14) }]

/-- The kind byte of each request (Table 11-3). -/
def Request.kind : Request → Byte
  | .setupAxis .. => 0x01
  | .setupCamera .. => 0x02
  | .setupSocket .. => 0x03
  | .setupSoak .. => 0x04
  | .setupStation .. => 0x05
  | .setupChute .. => 0x06
  | .lotOpen .. => 0x08
  | .setLot .. => 0x09
  | .setBin .. => 0x0A
  | .setCategory .. => 0x0B
  | .lotStart => 0x0C
  | .lotPurge => 0x0D
  | .lotClose => 0x0E
  | .armInput .. => 0x10
  | .armOutput .. => 0x11
  | .socketEnable .. => 0x12
  | .socketDisable .. => 0x13
  | .socketClear .. => 0x14
  | .soakClear .. => 0x15
  | .unitClear .. => 0x16
  | .hold => 0x18
  | .resume => 0x19
  | .holdNow => 0x1A
  | .recover .. => 0x1B
  | .setMode .. => 0x1C
  | .cycle .. => 0x1D
  | .setHoldpoint .. => 0x1E
  | .setProtect .. => 0x1F
  | .status .. => 0x20
  | .unitQuery .. => 0x21
  | .socketQuery .. => 0x22
  | .headQuery .. => 0x23
  | .stationQuery .. => 0x24
  | .lotSummary => 0x25
  | .logRead .. => 0x26
  | .noticeEnable .. => 0x28
  | .noticeClear .. => 0x29
  | .reset => 0x2F

/-- The payload that carries a request (Table 11-6). -/
def Request.payload : Request → List Byte
  | .setupAxis axis k lmax park => axis :: (be16 k ++ be32 lmax ++ be32 park)
  | .setupCamera scale x y trims =>
    be16 scale ++ be32 x ++ be32 y ++ (trims[0].bytes ++ trims[1].bytes ++ trims[2].bytes ++ trims[3].bytes)
  | .setupSocket socket lx ly ux uy tx ty w policy =>
    socket :: (be32 lx ++ be32 ly ++ be32 ux ++ be32 uy ++ be16 tx ++ be16 ty ++ be16 w ++ [policy])
  | .setupSoak load unload => load.bytes ++ unload.bytes
  | .setupStation station part => station :: part.bytes
  | .setupChute x y => be32 x ++ be32 y
  | .lotOpen lot => be16 lot
  | .setLot es => BitVec.ofNat 8 es.length :: es.flatMap ParamArg.bytes
  | .setBin es => BitVec.ofNat 8 es.length :: es.flatMap BinArg.bytes
  | .setCategory es => BitVec.ofNat 8 es.length :: es.flatMap CategoryArg.bytes
  | .lotStart => []
  | .lotPurge => []
  | .lotClose => []
  | .armInput station mode first count more => station :: mode :: (be16 first ++ be16 count ++ [more])
  | .armOutput station first count => station :: (be16 first ++ be16 count)
  | .socketEnable socket => [socket]
  | .socketDisable socket => [socket]
  | .socketClear socket => [socket]
  | .soakClear position => [position]
  | .unitClear unit => be32 unit
  | .hold => []
  | .resume => []
  | .holdNow => []
  | .recover mask lp up => [mask, lp, up]
  | .setMode mode timeout delay => mode :: (be16 timeout ++ be16 delay)
  | .cycle mask => [mask]
  | .setHoldpoint index kind value enabled => index :: kind :: (be32 value ++ [enabled])
  | .setProtect value => [value]
  | .status factor => [factor]
  | .unitQuery unit place => be32 unit ++ be16 place
  | .socketQuery socket => [socket]
  | .headQuery head => [head]
  | .stationQuery station => [station]
  | .lotSummary => []
  | .logRead count => [count]
  | .noticeEnable mask => be32 mask
  | .noticeClear mask => be32 mask
  | .reset => []

/-- What CLU finds when it judges a frame by kind and length (R175, steps 1 and 2). -/
inductive Judged where
  | unknownKind
  | badLength
  | request (r : Request)
deriving DecidableEq, Repr

/-- A request that admits one length only. -/
def ofLength (n : Nat) (p : List Byte) (r : Request) : Judged :=
  if p.length = n then .request r else .badLength

/-- A request that carries a list of n-byte entries: a list count of 0 is not admitted, and the length is the one the
count gives (R175). -/
def ofList (n : Nat) (p : List Byte) (r : Request) : Judged :=
  if rd8 p 0 ≠ 0 ∧ p.length = 1 + n * (rd8 p 0).toNat then .request r else .badLength

/-- The length a SETUP_STATION admits: 20 when the part byte is 0 and 10 otherwise (Table 11-6). -/
def judgeStation (p : List Byte) : Judged :=
  if p.length < 2 then .badLength
  else if rd8 p 1 = 0 then
    ofLength 20 p (.setupStation (rd8 p 0) (.tray (rd8 p 2) (rd8 p 3) (rdGrid p 4)))
  else ofLength 10 p (.setupStation (rd8 p 0) (.other (rd8 p 1) (rd32 p 2) (rd32 p 6)))

/-- The judgement of a frame by its kind and payload (R175, steps 1 and 2; Tables 11-3 and 11-6). -/
def judge (kind : Byte) (p : List Byte) : Judged :=
  match kind.toNat with
  | 0x01 => ofLength 11 p (.setupAxis (rd8 p 0) (rd16 p 1) (rd32 p 3) (rd32 p 7))
  | 0x02 => ofLength 26 p (.setupCamera (rd16 p 0) (rd32 p 2) (rd32 p 6) (rdTrims p 10))
  | 0x03 => ofLength 24 p (.setupSocket (rd8 p 0) (rd32 p 1) (rd32 p 5) (rd32 p 9) (rd32 p 13)
      (rd16 p 17) (rd16 p 19) (rd16 p 21) (rd8 p 23))
  | 0x04 => ofLength 32 p (.setupSoak (rdGrid p 0) (rdGrid p 16))
  | 0x05 => judgeStation p
  | 0x06 => ofLength 8 p (.setupChute (rd32 p 0) (rd32 p 4))
  | 0x08 => ofLength 2 p (.lotOpen (rd16 p 0))
  | 0x09 => ofList 5 p (.setLot (rdParams (rd8 p 0).toNat (p.drop 1)))
  | 0x0A => ofList 5 p (.setBin (rdBins (rd8 p 0).toNat (p.drop 1)))
  | 0x0B => ofList 2 p (.setCategory (rdCategories (rd8 p 0).toNat (p.drop 1)))
  | 0x0C => ofLength 0 p .lotStart
  | 0x0D => ofLength 0 p .lotPurge
  | 0x0E => ofLength 0 p .lotClose
  | 0x10 => ofLength 7 p (.armInput (rd8 p 0) (rd8 p 1) (rd16 p 2) (rd16 p 4) (rd8 p 6))
  | 0x11 => ofLength 5 p (.armOutput (rd8 p 0) (rd16 p 1) (rd16 p 3))
  | 0x12 => ofLength 1 p (.socketEnable (rd8 p 0))
  | 0x13 => ofLength 1 p (.socketDisable (rd8 p 0))
  | 0x14 => ofLength 1 p (.socketClear (rd8 p 0))
  | 0x15 => ofLength 1 p (.soakClear (rd8 p 0))
  | 0x16 => ofLength 4 p (.unitClear (rd32 p 0))
  | 0x18 => ofLength 0 p .hold
  | 0x19 => ofLength 0 p .resume
  | 0x1A => ofLength 0 p .holdNow
  | 0x1B => ofLength 3 p (.recover (rd8 p 0) (rd8 p 1) (rd8 p 2))
  | 0x1C => ofLength 5 p (.setMode (rd8 p 0) (rd16 p 1) (rd16 p 3))
  | 0x1D => ofLength 1 p (.cycle (rd8 p 0))
  | 0x1E => ofLength 7 p (.setHoldpoint (rd8 p 0) (rd8 p 1) (rd32 p 2) (rd8 p 6))
  | 0x1F => ofLength 1 p (.setProtect (rd8 p 0))
  | 0x20 => ofLength 1 p (.status (rd8 p 0))
  | 0x21 => ofLength 6 p (.unitQuery (rd32 p 0) (rd16 p 4))
  | 0x22 => ofLength 1 p (.socketQuery (rd8 p 0))
  | 0x23 => ofLength 1 p (.headQuery (rd8 p 0))
  | 0x24 => ofLength 1 p (.stationQuery (rd8 p 0))
  | 0x25 => ofLength 0 p .lotSummary
  | 0x26 => ofLength 1 p (.logRead (rd8 p 0))
  | 0x28 => ofLength 4 p (.noticeEnable (rd32 p 0))
  | 0x29 => ofLength 4 p (.noticeClear (rd32 p 0))
  | 0x2F => ofLength 0 p .reset
  | _ => .unknownKind

/-- The command that a word spells by the table's bits. No row of spec/opcode_table.json has bits, so no word spells
one. -/
def decodeTableWord (_nbits _w : Nat) : Option Instr := none

end Sys2Proof
end

