-- ==== Sys2Proof/Config.lean ====
section
/-! DEFINITION. What the manual leaves to the part: the free choices. A constant here has no body, so nothing can be
proved about its values and every claim holds for all of them. -/
namespace Sys2Proof

/-- The outcome of the n-th free choice. Where R57, R142 and R164 leave the order of two blocks open ("Either may be
made first"), and where timer expiries fall in one millisecond, the model draws from here (log entry 5); so it does for the level of
RATE that the end of a RESET reply samples (log entry 4). -/
opaque Config.freeChoice : Nat → Nat

end Sys2Proof
end

