-- ==== Sys2Proof/Machine/State.lean ====
section
/-! DEFINITION. The state of the HX416, block by block (00_scope.md Table 1), and its value after reset. INVENTORY.md
lists every field with the rule that names it. All of it is plain data. -/
namespace Sys2Proof.Machine

/-- A time-base value, ms (00_scope.md, Time). -/
abbrev Time := BitVec 32

/-- A unit number; 0 means "no unit" (00_scope.md, Units). -/
abbrev UnitNo := BitVec 32

/-- A 32-bit counter. -/
abbrev Counter := BitVec 32

abbrev HeadIx := Fin 4
abbrev SocketIx := Fin 16
abbrev SoakIx := Fin 64
abbrev NozzleIx := Fin 4
abbrev PairIx := Fin 4
abbrev Category := Fin 8
abbrev BinCode := Fin 34
abbrev Pocket := Fin 384

/-! ### Frames and links -/

/-- A complete frame of a link: start byte, length and check left out, since they follow from the rest (Table 11-1). -/
structure Frame where
  kind : Byte
  tag : Byte
  payload : List Byte
deriving DecidableEq, Repr

/-- The receiver of a link: hunting while `buf` is empty, otherwise the bytes of the frame received so far from its
start byte on, with the time of the latest byte (R173). -/
structure LinkRx where
  buf : List Byte
  last : Time
deriving DecidableEq, Repr

/-- A receiver that is hunting. -/
def LinkRx.hunting : LinkRx := { buf := [], last := 0 }

/-! ### Places -/

/-- Station A or B of the input stations or of an output pair. -/
inductive Side where
  | a
  | b
deriving DecidableEq, Repr

/-- A pocket of an input station's tray, or its nest (index 4095). -/
inductive InSlot where
  | pocket (p : Pocket)
  | nest
deriving DecidableEq, Repr

/-- One of the eight output stations 0A to 3B. -/
structure OutStation where
  pair : PairIx
  side : Side
deriving DecidableEq, Repr

/-- A place: one kind with one index in its range (R1, Table 1-1). -/
inductive Place where
  | input (st : Side) (slot : InSlot)
  | output (st : OutStation) (p : Pocket)
  | soak (p : SoakIx)
  | socket (k : SocketIx)
  | loadNozzle (n : NozzleIx)
  | unloadNozzle (n : NozzleIx)
  | chute
deriving DecidableEq, Repr

/-- One of the 88 places of the place map, which hold a unit (R2). -/
inductive Spot where
  | soak (p : SoakIx)
  | socket (k : SocketIx)
  | loadNozzle (n : NozzleIx)
  | unloadNozzle (n : NozzleIx)
deriving DecidableEq, Repr

/-! ### Units and places (UPT) -/

/-- The twelve unit states, in the order R10 lists them. -/
inductive UnitState where
  | onLoad
  | staged
  | returnWait
  | soaking
  | ready
  | rejectWait
  | loaded
  | testing
  | tested
  | evict
  | onUnload
  | lost
deriving DecidableEq, Repr

/-- Where a unit was picked: input station and pocket, or its nest (Table 1-3). -/
structure Origin where
  st : Side
  slot : InSlot
deriving DecidableEq, Repr

/-- The offset of a unit after stage 1: µm on both axes, or VOID (Table 1-3, R85). -/
inductive Offset where
  | void
  | um (x y : Int)
deriving DecidableEq, Repr

/-- A unit's route (Table 1-3, R147 to R149, R92). -/
inductive Route where
  | retest
  | final (c : Category) (purged : Bool)
  | realignReject
deriving DecidableEq, Repr

/-- What a unit's target field names (Table 1-3). -/
inductive Target where
  | socket (k : SocketIx)
  | soak (p : SoakIx)
  | head (h : HeadIx)
deriving DecidableEq, Repr

/-- One entry of a unit's attempts list (Table 1-3). -/
structure Attempt where
  socket : SocketIx
  cycle : BitVec 16
  bin : BinCode
  duration : BitVec 32
deriving DecidableEq, Repr

/-- A unit record (R6, Table 1-3). `excluded` is the set of sockets as a mask, bit n for socket n; `readySeq` is the
ready sequence number the planner gave the unit when it last became READY (R59, log entry 14). -/
structure UnitRec where
  no : UnitNo
  lot : BitVec 16
  origin : Origin
  state : UnitState
  place : Option Spot
  lastPlace : Option Spot
  created : Time
  soakStart : Option Time
  soakTarget : Nat
  offset : Option Offset
  clamped : Bool
  voided : Bool
  realigns : Nat
  attempts : List Attempt
  excluded : BitVec 16
  route : Option Route
  target : Option Target
  readySeq : BitVec 32
  /-- The model's own: the latest examination of the unit while STAGED found no active socket outside its excluded set,
  so that the next nozzle trip places it back on the soak plate (R70, log entry 18). -/
  noSocket : Bool := false
deriving DecidableEq, Repr

/-- The four states of a soak position (R3). -/
inductive SoakState where
  | free
  | reserved
  | occupied
  | blocked
deriving DecidableEq, Repr

/-- A soak position: its state, its place map entry, and the unit number its reservation names (0 while the unit is
not yet created, R3). -/
structure SoakPos where
  state : SoakState
  unit : UnitNo
  reservedFor : UnitNo
deriving DecidableEq, Repr

/-- The lot unit counters (R18). -/
structure UnitCounters where
  created : Counter
  binned : Vector Counter 8
  chute : Counter
  lost : Counter
  emptyPockets : Counter
  retests : Counter
  realigns : Counter
deriving DecidableEq, Repr

/-- The unit and place table (R2 to R8, R18). The socket entries of the place map are in the socket records. -/
structure Upt where
  units : List UnitRec
  loadNozzles : Vector UnitNo 4
  unloadNozzles : Vector UnitNo 4
  soak : Vector SoakPos 64
  pendingCreations : Nat
  nextUnit : UnitNo
  counters : UnitCounters
deriving DecidableEq, Repr

/-! ### Lots (LTC) -/

/-- The six lot states (Table 2-1). -/
inductive LotState where
  | idle
  | opened
  | running
  | draining
  | purging
  | drained
deriving DecidableEq, Repr

/-- The eleven lot parameters (Table 2-2). -/
structure LotParams where
  soakTime : Nat
  retestSoakTime : Nat
  nominalTestTime : Nat
  testTimeout : Nat
  fillTimeout : Nat
  maxAttempts : Nat
  quarantineThreshold : Nat
  retestReserve : Nat
  stageHorizon : Nat
  lotTrayCount : Nat
  purgeCategory : Category
deriving DecidableEq, Repr

/-- The defaults of Table 2-2. -/
def LotParams.defaults : LotParams :=
  { soakTime := 0, retestSoakTime := 0, nominalTestTime := 1000, testTimeout := 10000, fillTimeout := 0,
    maxAttempts := 2, quarantineThreshold := 3, retestReserve := 4, stageHorizon := 0, lotTrayCount := 0,
    purgeCategory := 7 }

/-- The six lot times (R22). -/
structure LotTimes where
  opened : Option Time
  started : Option Time
  inputDone : Option Time
  purge : Option Time
  drained : Option Time
  closed : Option Time
deriving DecidableEq, Repr

/-- The lot capture counters (R32). -/
structure CaptureCounters where
  captures : Vector Counter 4
  timeouts : Vector Counter 4
  voided : Counter
deriving DecidableEq, Repr

/-- The closed summary (R34): every value a CLOSED reply to LOT_SUMMARY carries, but for `now`. -/
structure ClosedSummary where
  lot : BitVec 16
  closedFrom : LotState
  purged : Bool
  times : LotTimes
  params : LotParams
  units : UnitCounters
  captures : CaptureCounters
  estimates : Vector Nat 4
deriving DecidableEq, Repr

/-- The lot controller (R22). -/
structure Ltc where
  state : LotState
  lot : Option (BitVec 16)
  params : LotParams
  times : LotTimes
  captures : CaptureCounters
  closed : Option ClosedSummary
deriving DecidableEq, Repr

/-! ### Feed stations (FSC) -/

/-- The states of an input or output station (Tables 3-1, R150). -/
inductive StationState where
  | empty
  | standby
  | active
  | finishing
deriving DecidableEq, Repr

/-- The modes of an input station (R36). -/
inductive FeedMode where
  | counted
  | opened
deriving DecidableEq, Repr

/-- How an input station leaves service (R36). -/
inductive EndCause where
  | spent
  | disarmed
deriving DecidableEq, Repr

/-- An input station record (R36). -/
structure InStation where
  state : StationState
  mode : Option FeedMode
  first : Nat
  armed : Nat
  next : Nat
  remaining : Nat
  more : Bool
  pending : Nat
  picked : Nat
  empties : Nat
  unused : Nat
  noPartRun : Nat
  endCause : Option EndCause
deriving DecidableEq, Repr

/-- An input station after reset (R36). -/
def InStation.reset : InStation :=
  { state := .empty, mode := none, first := 0, armed := 0, next := 0, remaining := 0, more := false, pending := 0,
    picked := 0, empties := 0, unused := 0, noPartRun := 0, endCause := none }

/-- The feed station controller (R36). -/
structure Fsc where
  stationA : InStation
  stationB : InStation
  current : Option Side
  starved : Bool
  trayCounter : BitVec 16
  counted : Bool
deriving DecidableEq, Repr

/-! ### Transfer planning (XPL) -/

/-- The four order kinds (R55). -/
inductive OrderKind where
  | pick
  | inspect
  | place
  | park
deriving DecidableEq, Repr

/-- The unit of an order: none, a unit number, or "the unit created on this nozzle" (R54). -/
inductive OrderUnit where
  | none
  | unit (u : UnitNo)
  | created
deriving DecidableEq, Repr

/-- What an order holds (R58); a pocket comes with a log entry. -/
inductive Reservation where
  | none
  | socket (k : SocketIx)
  | soak (p : SoakIx)
  | pocket (st : OutStation) (p : Pocket)
  | log
deriving DecidableEq, Repr

/-- The purpose of a placement onto the soak plate (R4). -/
inductive Purpose where
  | fresh
  | retest
  | giveBack
  | realign
deriving DecidableEq, Repr

/-- The status of an order (R54). -/
inductive OrderStatus where
  | queued
  | issued
  | uncertain
deriving DecidableEq, Repr

/-- An order of a queue (R54). `id` tells two orders apart (log entry 12). -/
structure Order where
  id : Nat
  kind : OrderKind
  unit : OrderUnit
  place : Option Place
  nozzle : NozzleIx
  mask : BitVec 4
  reservation : Reservation
  purpose : Option Purpose
  status : OrderStatus
deriving DecidableEq, Repr

/-- Which trip the load queue holds (R63); read at a purge (R74, log entry 19). -/
inductive TripKind where
  | none
  | nozzle
  | socket
  | input
  | bypass
  | staging
deriving DecidableEq, Repr

/-- The transfer planner (R53). `inspected` says that the INSPECT of the load trip has completed, `stageHead` is the
head kept with a load nozzle for a unit that becomes STAGED (R71). -/
structure Xpl where
  loadQueue : List Order
  unloadQueue : List Order
  nextOrderId : Nat
  tripKind : TripKind
  inspected : Bool
  stageHead : Vector (Option HeadIx) 4
  readyList : List UnitNo
  estimates : Vector Nat 4
  readySeq : BitVec 32
  staging : Option Time
  parkedLoad : Bool
  parkedUnload : Bool
deriving DecidableEq, Repr

/-! ### Placement arithmetic (PCU) -/

/-- An axis of a gantry. -/
inductive Axis where
  | x
  | y
deriving DecidableEq, Repr

/-- A taught axis: scale k, limit and park position (Table 5-1). -/
structure AxisTeach where
  k : Nat
  lmax : Nat
  park : Nat
deriving DecidableEq, Repr

/-- The taught camera (Table 5-1). -/
structure CameraTeach where
  scale : Nat
  x : Nat
  y : Nat
  trimX : Vector Int 4
  trimY : Vector Int 4
deriving DecidableEq, Repr

/-- A grid: origin and pitches in µm (Table 5-1). -/
structure Grid where
  originX : Nat
  originY : Nat
  columnPitch : Nat
  rowPitch : Nat
deriving DecidableEq, Repr

/-- The taught soak plate in both frames (Table 5-1). -/
structure SoakTeach where
  load : Grid
  unload : Grid
deriving DecidableEq, Repr

/-- A taught position (Table 5-1). -/
structure Point where
  x : Nat
  y : Nat
deriving DecidableEq, Repr

/-- A taught station tray (Table 5-1). -/
structure TrayTeach where
  rows : Nat
  columns : Nat
  grid : Grid
deriving DecidableEq, Repr

/-- The align policy of a socket (Table 5-1). -/
inductive Policy where
  | strict
  | lenient
deriving DecidableEq, Repr

/-- A taught socket (Table 5-1). -/
structure SocketTeach where
  load : Point
  unload : Point
  tx : Int
  ty : Int
  window : Nat
  policy : Policy
deriving DecidableEq, Repr

/-- The placement computation unit (R76): none stands for untaught. `trays` and `nests` are numbered as place kinds
(R174). The socket items are in the socket records. -/
structure Pcu where
  loadX : Option AxisTeach
  loadY : Option AxisTeach
  unloadX : Option AxisTeach
  unloadY : Option AxisTeach
  camera : Option CameraTeach
  soak : Option SoakTeach
  chute : Option Point
  trays : Vector (Option TrayTeach) 10
  nests : Vector (Option Point) 2
deriving DecidableEq, Repr

/-! ### Gantry sequencers (GSQ) -/

/-- The five gantry states (R94), in the order STATUS codes them. -/
inductive GantryState where
  | idle
  | held
  | zoneWait
  | inFlight
  | fault
deriving DecidableEq, Repr

/-- The fault causes (R93). -/
inductive FaultCause where
  | drive
  | noReply
  | badDone
  | presence
deriving DecidableEq, Repr

/-- A gantry sequencer with its drive link (R93, R99). `lastOrder` is the ORDER frame last sent (log entry 13). -/
structure Gsq where
  state : GantryState
  tag : Byte
  timer : Option Time
  cause : Option FaultCause
  rx : LinkRx
  lastOrder : Option Frame
deriving DecidableEq, Repr

/-- A sequencer after reset (R93). -/
def Gsq.reset : Gsq :=
  { state := .idle, tag := 0, timer := none, cause := none, rx := .hunting, lastOrder := none }

/-! ### Heads and sockets (HSC) -/

/-- The seven socket states (R114). -/
inductive SocketState where
  | off
  | empty
  | reserved
  | loaded
  | testing
  | done
  | jammed
deriving DecidableEq, Repr

/-- The reason of off-pending (R113). -/
inductive OffReason where
  | host
  | quarantine
deriving DecidableEq, Repr

/-- A socket record (R113). The reserving order is the order of the load queue that holds the reservation. -/
structure SocketRec where
  state : SocketState
  offPending : Option OffReason
  unit : UnitNo
  fails : Nat
  tests : Counter
  passes : Counter
  teach : Option SocketTeach
deriving DecidableEq, Repr

/-- A socket after reset (R113). -/
def SocketRec.reset : SocketRec :=
  { state := .off, offPending := none, unit := 0, fails := 0, tests := 0, passes := 0, teach := none }

/-- The four head states (R123). -/
inductive HeadState where
  | idle
  | fill
  | startWait
  | test
deriving DecidableEq, Repr

/-- A fill or test timer: stopped, running to an instant, or paused with a remaining time (R122, R133). -/
inductive HeadTimer where
  | stopped
  | running (expiry : Time)
  | paused (remaining : BitVec 32)
deriving DecidableEq, Repr

/-- A cycle summary (R134): `duration` is none for a timeout capture, a bin none for a socket not tested. -/
structure CycleSummary where
  cycle : BitVec 16
  sot : Time
  duration : Option (BitVec 32)
  bins : Vector (Option BinCode) 4
deriving DecidableEq, Repr

/-- A head record (R122); its zone request is ZAR's. -/
structure HeadRec where
  state : HeadState
  cycle : BitVec 16
  sot : Option Time
  capture : Option Time
  fill : HeadTimer
  fillExpired : Bool
  test : HeadTimer
  credit : Bool
  summary : Option CycleSummary
  fresh : Bool
deriving DecidableEq, Repr

/-- A head after reset (R122). -/
def HeadRec.reset : HeadRec :=
  { state := .idle, cycle := 0, sot := none, capture := none, fill := .stopped, fillExpired := false,
    test := .stopped, credit := false, summary := none, fresh := false }

/-- The head and socket controller (R113, R122). -/
structure Hsc where
  sockets : Vector SocketRec 16
  heads : Vector HeadRec 4
deriving DecidableEq, Repr

/-! ### Zones (ZAR) -/

/-- The holder of a zone (R136). -/
inductive Holder where
  | none
  | head
  | unload
  | load
deriving DecidableEq, Repr

/-- A zone: its holder and the standing requests (R136). -/
structure Zone where
  holder : Holder
  head : Bool
  unload : Bool
  load : Bool
deriving DecidableEq, Repr

/-- A zone after reset (R136). -/
def Zone.reset : Zone := { holder := .none, head := false, unload := false, load := false }

/-! ### Sorting and output (SRT) -/

/-- The condition of a bin map entry (R144). -/
inductive BinCondition where
  | none
  | alignClean
  | firstAttempt
deriving DecidableEq, Repr

/-- A set entry of the bin map (R144). -/
structure BinEntry where
  category : Category
  alternate : Category
  condition : BinCondition
  retest : Bool
  fail : Bool
  pass : Bool
deriving DecidableEq, Repr

/-- The destination of a category (R146). -/
inductive Destination where
  | pair (p : PairIx)
  | chute
  | unmapped
deriving DecidableEq, Repr

/-- An output station record (R150). -/
structure OutRec where
  state : StationState
  first : Nat
  armed : Nat
  next : Nat
  remaining : Nat
  pending : Nat
  filled : Nat
  skipped : Nat
deriving DecidableEq, Repr

/-- An output station after reset (R150). -/
def OutRec.reset : OutRec :=
  { state := .empty, first := 0, armed := 0, next := 0, remaining := 0, pending := 0, filled := 0, skipped := 0 }

/-- A pair record (R150). -/
structure PairRec where
  current : Option Side
  blocked : Bool
deriving DecidableEq, Repr

/-- A completion record (R156). -/
structure LogRec where
  no : UnitNo
  lot : BitVec 16
  origin : Origin
  attempts : List Attempt
  category : Option Category
  dest : Place
  clamped : Bool
  voided : Bool
  purged : Bool
  realignReject : Bool
  time : Time
deriving DecidableEq, Repr

/-- The sort unit (R144, R146, R150, R154, R155). Output stations are numbered 2 * pair + side. -/
structure Srt where
  binMap : Vector (Option BinEntry) 34
  categories : Vector Destination 8
  stations : Vector OutRec 8
  pairs : Vector PairRec 4
  chuteTotal : Counter
  log : List LogRec
  reservations : List UnitNo
deriving DecidableEq, Repr

/-! ### Run control (RCU) -/

/-- The run states (R160), in the order STATUS codes them. -/
inductive RunState where
  | run
  | hold
  | resuming
  | estop
deriving DecidableEq, Repr

/-- The set of hold causes (R160). -/
structure HoldCauses where
  host : Bool
  door : Bool
  holdPoint : Bool
deriving DecidableEq, Repr

/-- No hold cause. -/
def HoldCauses.none : HoldCauses := { host := false, door := false, holdPoint := false }

/-- The match of a hold point (R168); a place is kept as its place code. -/
inductive HoldMatch where
  | none
  | place (code : Half)
  | unit (u : UnitNo)
deriving DecidableEq, Repr

/-- A hold point entry (R168). -/
structure HoldPoint where
  what : HoldMatch
  enabled : Bool
deriving DecidableEq, Repr

/-- The run modes (R171). -/
inductive RunMode where
  | continuous
  | single
deriving DecidableEq, Repr

/-- The run control unit (R160). Held orders and pass grants name an order by its id (log entry 12). -/
structure Rcu where
  run : RunState
  causes : HoldCauses
  settle : Option Time
  holdPoints : Vector HoldPoint 4
  heldLoad : Option Nat
  heldUnload : Option Nat
  grantLoad : Option Nat
  grantUnload : Option Nat
  clearInHold : Bool
  mode : RunMode
  settleDelay : Nat
  driveTimeout : Nat
deriving DecidableEq, Repr

/-! ### Cell link (CLU), pins -/

/-- What CL_TXD is sending (R175). -/
inductive Transmitter where
  | idle
  | reply
  | notice
deriving DecidableEq, Repr

/-- The cell link unit (R173, R175, R178). `resetRequested` says that the reply in the slot is that of RESET (R182);
`rate` is the rate sampled at the end of reset (R172). -/
structure Clu where
  rx : LinkRx
  rxQueue : List Frame
  replySlot : Option Frame
  resetRequested : Bool
  tx : Transmitter
  notices : List Frame
  raised : BitVec 32
  enabled : BitVec 32
  args : Vector (List Byte) 26
  rate : Nat
deriving DecidableEq, Repr

/-- The lines of the part (00_scope.md Table 2, R128, R178). `rate` is the RATE strap as last sampled. -/
structure Pins where
  door : Bool
  estop : Bool
  rate : Bool
  resetLow : Bool
  sot : Vector Bool 4
  ld : Vector Bool 16
  attn : Bool
deriving DecidableEq, Repr

/-! ### The machine -/

/-- The whole state. `pending` is the queue of commands that wait, first in first out, and `free` counts the free
choices drawn so far (log entries 1 and 5); neither is a register of the part. -/
structure State where
  pending : List Instr
  free : Nat
  now : Time
  pins : Pins
  clu : Clu
  upt : Upt
  ltc : Ltc
  fsc : Fsc
  xpl : Xpl
  pcu : Pcu
  gsqL : Gsq
  gsqU : Gsq
  hsc : Hsc
  zar : Vector Zone 4
  srt : Srt
  rcu : Rcu
deriving DecidableEq, Repr

/-- Why a step stops with a fault. No meaning of the model answers a fault: the HX416 takes every command in every
state. -/
inductive Fault where
  /-- Raised by nothing: the type has a constructor so that it can be named. Safe. -/
  | never
deriving DecidableEq, Repr

/-- Why a step is refused by the model (a refused request of the cell link is no such thing: it is answered). -/
inductive Refusal where
  /-- Raised by an arm of `exec` for a command that has no meaning yet; there is none. Safe. -/
  | notModelled (mnemonic : String)
deriving DecidableEq, Repr

/-- The lot unit counters at 0 (R18, R20). -/
def UnitCounters.zero : UnitCounters :=
  { created := 0, binned := Vector.replicate 8 0, chute := 0, lost := 0, emptyPockets := 0, retests := 0,
    realigns := 0 }

/-- The lot capture counters at 0 (R32). -/
def CaptureCounters.zero : CaptureCounters :=
  { captures := Vector.replicate 4 0, timeouts := Vector.replicate 4 0, voided := 0 }

/-- All lot times absent (R22). -/
def LotTimes.absent : LotTimes :=
  { opened := none, started := none, inputDone := none, purge := none, drained := none, closed := none }

/-- A FREE soak position (R3). -/
def SoakPos.free : SoakPos := { state := .free, unit := 0, reservedFor := 0 }

/-- The unit and place table after reset (R20). -/
def Upt.reset : Upt :=
  { units := [], loadNozzles := Vector.replicate 4 0, unloadNozzles := Vector.replicate 4 0,
    soak := Vector.replicate 64 .free, pendingCreations := 0, nextUnit := 1, counters := .zero }

/-- The lot controller after reset (R35). -/
def Ltc.reset : Ltc :=
  { state := .idle, lot := none, params := .defaults, times := .absent, captures := .zero, closed := none }

/-- The feed station controller after reset (R36). -/
def Fsc.reset : Fsc :=
  { stationA := .reset, stationB := .reset, current := none, starved := false, trayCounter := 0, counted := false }

/-- The planner after reset (R53). -/
def Xpl.reset : Xpl :=
  { loadQueue := [], unloadQueue := [], nextOrderId := 0, tripKind := .none, inspected := false,
    stageHead := Vector.replicate 4 none, readyList := [], estimates := Vector.replicate 4 1000, readySeq := 0,
    staging := none, parkedLoad := false, parkedUnload := false }

/-- The placement computation unit after reset (R76). -/
def Pcu.reset : Pcu :=
  { loadX := none, loadY := none, unloadX := none, unloadY := none, camera := none, soak := none, chute := none,
    trays := Vector.replicate 10 none, nests := Vector.replicate 2 none }

/-- The heads and sockets after reset (R113, R122). -/
def Hsc.reset : Hsc :=
  { sockets := Vector.replicate 16 .reset, heads := Vector.replicate 4 .reset }

/-- The sort unit after reset (R144, R146, R150, R154, R155). -/
def Srt.reset : Srt :=
  { binMap := Vector.replicate 34 none, categories := Vector.replicate 8 .unmapped,
    stations := Vector.replicate 8 .reset, pairs := Vector.replicate 4 { current := none, blocked := false },
    chuteTotal := 0, log := [], reservations := [] }

/-- The run control unit after reset (R160). -/
def Rcu.reset : Rcu :=
  { run := .hold, causes := .none, settle := none,
    holdPoints := Vector.replicate 4 { what := .none, enabled := false },
    heldLoad := none, heldUnload := none, grantLoad := none, grantUnload := none, clearInHold := false,
    mode := .continuous, settleDelay := 500, driveTimeout := 5000 }

/-- The cell link unit after reset (R181), at the rate that RATE low gives (R172). -/
def Clu.reset : Clu :=
  { rx := .hunting, rxQueue := [], replySlot := none, resetRequested := false, tx := .idle, notices := [],
    raised := 0, enabled := 0, args := Vector.replicate 26 [], rate := 460800 }

/-- The lines after reset: outputs low (R128, R181); DOOR and ESTOP inactive and RATE low (log entry 4). -/
def Pins.reset : Pins :=
  { door := false, estop := false, rate := false, resetLow := false, sot := Vector.replicate 4 false,
    ld := Vector.replicate 16 false, attn := false }

/-- The machine right after reset (R181), with DOOR and ESTOP inactive and RATE low, and no command waiting. -/
def State.reset : State :=
  { pending := [], free := 0, now := 0, pins := .reset, clu := .reset, upt := .reset, ltc := .reset, fsc := .reset,
    xpl := .reset, pcu := .reset, gsqL := .reset, gsqU := .reset, hsc := .reset,
    zar := Vector.replicate 4 .reset, srt := .reset, rcu := .reset }

end Sys2Proof.Machine
end

