-- ==== Sys2Proof/Machine/Operands.lean ====
section
/-! DEFINITION. Operand forms: place codes (R1, R174), the fields of replies and arguments (R176), the frame with its
check (Table 11-1), the byte receiver of a link (R173, R99), and the checks of request operands. -/
namespace Sys2Proof.Machine

/-! ### Numbers -/

/-- The quotient a / b rounded up, for positive b (00_scope.md, Rounding). -/
def ceilDiv (a b : Int) : Int := -((-a) / b)

/-- A saturating 32-bit counter increased by 1 (00_scope.md, Numbers). -/
def satInc (c : Counter) : Counter := if c = BitVec.allOnes 32 then c else c + 1

/-- A count increased by 1 up to a limit. -/
def capInc (limit n : Nat) : Nat := if n < limit then n + 1 else limit

/-- The instant e has come: now lies less than 2^31 ms after it (00_scope.md, Time). -/
def reached (e now : Time) : Bool := (now - e).toNat < 2 ^ 31

/-- The argument as an index below n, or none. -/
def index (n : Nat) (a : Nat) : Option (Fin n) := if h : a < n then some ⟨a, h⟩ else none

/-! ### Fields (R176) -/

/-- A whole number in one byte. -/
def n8 (n : Nat) : List Byte := [BitVec.ofNat 8 n]

/-- A whole number in two bytes. -/
def n16 (n : Nat) : List Byte := be16 (BitVec.ofNat 16 n)

/-- A whole number in four bytes. -/
def n32 (n : Nat) : List Byte := be32 (BitVec.ofNat 32 n)

/-- A whole number in three bytes (Table 6-2). -/
def n24 (n : Nat) : List Byte := (be32 (BitVec.ofNat 32 n)).drop 1

/-- A flag or yes-or-no field. -/
def flag (b : Bool) : List Byte := [if b then 1 else 0]

/-- A field that may be absent: 1 and the field, or 0. -/
def optional {α : Type} (f : α → List Byte) : Option α → List Byte
  | some a => 1 :: f a
  | none => [0]

/-- A list: its entry count and its entries. -/
def listField {α : Type} (f : α → List Byte) (l : List α) : List Byte := n8 l.length ++ l.flatMap f

/-- Bit n of a mask byte as set by a predicate on n. -/
def maskOf (n : Nat) (f : Nat → Bool) : Nat :=
  (List.range n).foldl (fun m i => if f i then m + 2 ^ i else m) 0

/-! ### Replies (R175) -/

/-- The status codes (Table 11-2). -/
inductive Status where
  | ok
  | unknownKind
  | badLength
  | badArg
  | wrongState
  | noSuch
  | held
  | interlock
deriving DecidableEq, Repr

/-- The code of a status (Table 11-2). -/
def Status.code : Status → Byte
  | .ok => 0
  | .unknownKind => 1
  | .badLength => 2
  | .badArg => 3
  | .wrongState => 4
  | .noSuch => 5
  | .held => 6
  | .interlock => 7

/-- The payload of a reply: the status, then the fields the owning rule gives (R175). -/
def answer (st : Status) (fields : List Byte) : List Byte := st.code :: fields

/-! ### Places -/

/-- The kind value of an input station (R174). -/
def Side.inputKind : Side → Nat
  | .a => 0
  | .b => 1

/-- Side A is 0 and side B is 1 within a pair. -/
def Side.offset : Side → Nat
  | .a => 0
  | .b => 1

/-- The other side. -/
def Side.other : Side → Side
  | .a => .b
  | .b => .a

/-- The number of an output station among the eight, 2 * pair + side. -/
def OutStation.ix (st : OutStation) : Fin 8 :=
  match st.side with
  | .a => ⟨2 * st.pair.val, by omega⟩
  | .b => ⟨2 * st.pair.val + 1, by omega⟩

/-- The kind value of an output station (R174). -/
def OutStation.kind (st : OutStation) : Nat := 2 + st.ix.val

/-- The output station with number i. -/
def OutStation.ofIx (i : Fin 8) : OutStation :=
  { pair := ⟨i.val / 2, by omega⟩, side := if i.val % 2 = 0 then .a else .b }

/-- The index of an input slot: the pocket, or 4095 for the nest (Table 1-1). -/
def InSlot.index : InSlot → Nat
  | .pocket p => p.val
  | .nest => 4095

/-- Kind and index of a place (R174, Table 1-1). -/
def Place.kindIndex : Place → Nat × Nat
  | .input st slot => (st.inputKind, slot.index)
  | .output st p => (st.kind, p.val)
  | .soak p => (10, p.val)
  | .socket k => (11, k.val)
  | .loadNozzle n => (12, n.val)
  | .unloadNozzle n => (13, n.val)
  | .chute => (14, 0)

/-- The 16-bit place code: kind in the upper 4 bits, index in the lower 12 (R174). -/
def Place.code (p : Place) : Half := BitVec.ofNat 16 (p.kindIndex.1 * 4096 + p.kindIndex.2)

/-- "No place" as the part writes it (R174). -/
def noPlace : Half := 0xFFFF

/-- The input slot with an index, if it is one (Table 1-1). -/
def InSlot.ofIndex (i : Nat) : Option InSlot :=
  if i = 4095 then some .nest else (Machine.index 384 i).map .pocket

/-- The place of a kind and index, if they are valid (R1, Table 1-1). -/
def Place.ofKindIndex (kind i : Nat) : Option Place :=
  match kind with
  | 0 => (InSlot.ofIndex i).map (.input .a)
  | 1 => (InSlot.ofIndex i).map (.input .b)
  | 10 => (index 64 i).map .soak
  | 11 => (index 16 i).map .socket
  | 12 => (index 4 i).map .loadNozzle
  | 13 => (index 4 i).map .unloadNozzle
  | 14 => if i = 0 then some .chute else none
  | k =>
    match index 8 (k - 2) with
    | some st => (index 384 i).map (.output (.ofIx st))
    | none => none

/-- The place of a place code, none for an invalid code and for kind 15 (R1, R174). -/
def Place.ofCode (c : Half) : Option Place := Place.ofKindIndex (c.toNat / 4096) (c.toNat % 4096)

/-- A spot of the place map as a place. -/
def Spot.toPlace : Spot → Place
  | .soak p => .soak p
  | .socket k => .socket k
  | .loadNozzle n => .loadNozzle n
  | .unloadNozzle n => .unloadNozzle n

/-- Nozzle n of a gantry. -/
def nozzleSpot : Gantry → NozzleIx → Spot
  | .load, n => .loadNozzle n
  | .unload, n => .unloadNozzle n

/-- A place in a field that holds a place code, "no place" where there is none (R1). -/
def placeField (p : Option Place) : List Byte := be16 ((p.map Place.code).getD noPlace)

/-- A unit's origin as the place code of the pocket or nest (log entry 10). -/
def Origin.place (o : Origin) : Place := .input o.st o.slot

/-! ### Named values, coded from 0 in the order their rule lists them (R176) -/

/-- R94 order differs from Table 11-5; STATUS alone sends a gantry state, with the codes of Table 11-5. -/
def GantryState.code : GantryState → Nat
  | .idle => 0
  | .held => 1
  | .zoneWait => 2
  | .inFlight => 3
  | .fault => 4

/-- Load 0, unload 1 (R177). -/
def gantryCode : Gantry → Nat
  | .load => 0
  | .unload => 1

/-- The code of an order kind in an ORDER (Table 6-2) and in an argument (R177). -/
def OrderKind.code : OrderKind → Nat
  | .pick => 1
  | .inspect => 2
  | .place => 3
  | .park => 4

/-- R54 order of the status of an order. -/
def OrderStatus.code : OrderStatus → Nat
  | .queued => 0
  | .issued => 1
  | .uncertain => 2

/-- R93 order of the fault causes. -/
def FaultCause.code : FaultCause → Nat
  | .drive => 0
  | .noReply => 1
  | .badDone => 2
  | .presence => 3

/-- Byte 11 of Table 11-5. -/
def RunState.code : RunState → Nat
  | .run => 0
  | .hold => 1
  | .resuming => 2
  | .estop => 3

/-- Byte 12 of Table 11-5. -/
def HoldCauses.code (c : HoldCauses) : Nat :=
  c.host.toNat + 2 * c.door.toNat + 4 * c.holdPoint.toNat

/-- Byte 10 of Table 11-5. -/
def LotState.code : LotState → Nat
  | .idle => 0
  | .opened => 1
  | .running => 2
  | .draining => 3
  | .purging => 4
  | .drained => 5

/-- Byte 13 of Table 11-5. -/
def RunMode.code : RunMode → Nat
  | .continuous => 0
  | .single => 1

/-- R123 order of the head states. -/
def HeadState.code : HeadState → Nat
  | .idle => 0
  | .fill => 1
  | .startWait => 2
  | .test => 3

/-- R114 order of the socket states. -/
def SocketState.code : SocketState → Nat
  | .off => 0
  | .empty => 1
  | .reserved => 2
  | .loaded => 3
  | .testing => 4
  | .done => 5
  | .jammed => 6

/-- R113 order of the off-pending reasons. -/
def OffReason.code : OffReason → Nat
  | .host => 0
  | .quarantine => 1

/-- Table 3-1 order of the station states. -/
def StationState.code : StationState → Nat
  | .empty => 0
  | .standby => 1
  | .active => 2
  | .finishing => 3

/-- R36 order of the modes. -/
def FeedMode.code : FeedMode → Nat
  | .counted => 0
  | .opened => 1

/-- R36 order of the end causes. -/
def EndCause.code : EndCause → Nat
  | .spent => 0
  | .disarmed => 1

/-- R10 order of the unit states. -/
def UnitState.code : UnitState → Nat
  | .onLoad => 0
  | .staged => 1
  | .returnWait => 2
  | .soaking => 3
  | .ready => 4
  | .rejectWait => 5
  | .loaded => 6
  | .testing => 7
  | .tested => 8
  | .evict => 9
  | .onUnload => 10
  | .lost => 11

/-- R3 order of the soak position states. -/
def SoakState.code : SoakState → Nat
  | .free => 0
  | .reserved => 1
  | .occupied => 2
  | .blocked => 3

/-- Table 5-1 order of the policies. -/
def Policy.code : Policy → Nat
  | .strict => 0
  | .lenient => 1

/-- Bits 0-1 of a zone byte of Table 11-5. -/
def Holder.code : Holder → Nat
  | .none => 0
  | .head => 1
  | .unload => 2
  | .load => 3

/-- A route: the route byte and the route flags (R176). -/
def Route.bytes : Route → List Byte
  | .retest => [9, 0]
  | .final c purged => n8 c.val ++ n8 purged.toNat
  | .realignReject => [8, 2]

/-- An offset field: 0 absent, 2 VOID, 1 with x and y (R176). -/
def offsetBytes : Option Offset → List Byte
  | none => [0]
  | some .void => [2]
  | some (.um x y) => 1 :: (be32 (BitVec.ofInt 32 x) ++ be32 (BitVec.ofInt 32 y))

/-- Align flags: bit 0 CLAMPED, bit 1 VOIDED (R176). -/
def alignBytes (clamped voided : Bool) : List Byte := n8 (clamped.toNat + 2 * voided.toNat)

/-- A unit's target, after its presence byte: a place code for a socket or soak position (log entry 10), the head number
alone for a head. No byte says which of the two follows (DESIGN CHOICE, log entry 11). -/
def Target.bytes : Target → List Byte
  | .socket k => be16 (Place.socket k).code
  | .soak p => be16 (Place.soak p).code
  | .head h => n8 h.val

/-- An attempt entry (Table 1-3). -/
def Attempt.bytes (a : Attempt) : List Byte :=
  n8 a.socket.val ++ be16 a.cycle ++ n8 a.bin.val ++ be32 a.duration

/-- A timer field with its remaining time (R176). -/
def HeadTimer.bytes (now : Time) : HeadTimer → List Byte
  | .stopped => 0 :: be32 0
  | .running e => 1 :: be32 (e - now)
  | .paused r => 2 :: be32 r

/-! ### Frames -/

/-- One bit of the CRC-16 with polynomial 0x1021 (Table 11-1). -/
def crcBit (c : Half) : Half := if c.msb then (c <<< 1) ^^^ 0x1021 else c <<< 1

/-- One byte of the CRC-16. -/
def crcByte (c : Half) (b : Byte) : Half :=
  crcBit (crcBit (crcBit (crcBit (crcBit (crcBit (crcBit (crcBit (c ^^^ (b ++ (0 : Byte))))))))))

/-- The check over length, kind, tag and payload: CRC-16, initial value 0xFFFF, no final XOR (Table 11-1). -/
def crc16 (bytes : List Byte) : Half := bytes.foldl crcByte 0xFFFF

/-- Length, kind, tag and payload: what the check is taken over (Table 11-1). -/
def Frame.body (f : Frame) : List Byte := n16 f.payload.length ++ [f.kind, f.tag] ++ f.payload

/-- A frame on the line (Table 11-1). -/
def Frame.bytes (f : Frame) : List Byte := 0xA5 :: (f.body ++ be16 (crc16 f.body))

/-- The length field of a frame partly received, once its two bytes are there. -/
def statedLength (buf : List Byte) : Nat := (rd16 buf 1).toNat

/-- What the receiver does when a byte has joined a frame: a length above 240 discards it at once, the last byte of
the check completes it, and a wrong check discards it (R173). -/
def closeFrame (buf : List Byte) : List Byte × Option Frame :=
  if buf.length = 3 ∧ 240 < statedLength buf then ([], none)
  else if 3 ≤ buf.length ∧ buf.length = statedLength buf + 7 then
    let body := (buf.drop 1).take (statedLength buf + 4)
    if rd16 buf (statedLength buf + 5) = crc16 body then
      ([], some { kind := rd8 buf 3, tag := rd8 buf 4, payload := body.drop 4 })
    else ([], none)
  else (buf, none)

/-- One byte at the receiver: while hunting all but 0xA5 is discarded; inside a frame every byte is data (R173). -/
def rxByte (buf : List Byte) (b : Byte) : List Byte × Option Frame :=
  match buf with
  | [] => if b = 0xA5 then ([b], none) else ([], none)
  | _ :: _ => closeFrame (buf ++ [b])

/-- The bytes of one arrival, one after another; the complete frames in order (R173). -/
def rxBytes : List Byte → List Byte → List Byte × List Frame
  | buf, [] => (buf, [])
  | buf, b :: bs =>
    match rxByte buf b with
    | (buf', none) => rxBytes buf' bs
    | (buf', some f) => ((rxBytes buf' bs).1, f :: (rxBytes buf' bs).2)

/-- More than 10 ms have passed since the latest byte of a partly received frame (R173). -/
def LinkRx.gapPassed (now : Time) (rx : LinkRx) : Bool := rx.buf ≠ [] ∧ 10 < (now - rx.last).toNat

/-- Bytes arriving at a link at one instant: a frame whose byte gap has passed 10 ms is discarded first (R173, log
entry 23). -/
def LinkRx.take (now : Time) (bytes : List Byte) (rx : LinkRx) : LinkRx × List Frame :=
  let buf := if rx.gapPassed now then [] else rx.buf
  ({ buf := (rxBytes buf bytes).1, last := if bytes = [] then rx.last else now }, (rxBytes buf bytes).2)

end Sys2Proof.Machine
end

