-- ==== Sys2Proof/Machine/Flags.lean ====
section
/-! DEFINITION. The flag computations of the part: notice factors with their pending flags, enables and arguments,
the group summaries and ATTN (R177, R178), and the condition factors (R158). -/
namespace Sys2Proof.Machine

/-- The 26 notice factors (Table 11-4). -/
inductive Factor where
  | inputDone
  | drained
  | traycountWrap
  | stationSpent
  | feedStarved
  | nestDry
  | outSpent
  | categoryBlocked
  | logNotEmpty
  | logFull
  | socketQuarantine
  | socketJam
  | headTimeout
  | strayEot
  | binIgnored
  | noBin
  | gantryFault
  | unitLost
  | strayDone
  | holdEntered
  | resumed
  | estop
  | alignClamp
  | alignVoid
  | alignOut
  | realignReject
deriving DecidableEq, Repr

/-- The number of a factor (Table 11-4). -/
def Factor.number : Factor → Fin 26
  | .inputDone => 0
  | .drained => 1
  | .traycountWrap => 2
  | .stationSpent => 3
  | .feedStarved => 4
  | .nestDry => 5
  | .outSpent => 6
  | .categoryBlocked => 7
  | .logNotEmpty => 8
  | .logFull => 9
  | .socketQuarantine => 10
  | .socketJam => 11
  | .headTimeout => 12
  | .strayEot => 13
  | .binIgnored => 14
  | .noBin => 15
  | .gantryFault => 16
  | .unitLost => 17
  | .strayDone => 18
  | .holdEntered => 19
  | .resumed => 20
  | .estop => 21
  | .alignClamp => 22
  | .alignVoid => 23
  | .alignOut => 24
  | .realignReject => 25

/-- Bit n of a factor mask stands for factor n (R177). -/
def Factor.bit (f : Factor) : BitVec 32 := BitVec.twoPow 32 f.number.val

/-- The factors of a group as a mask; groups numbered LOT 0, FEED 1, SORT 2, SOCKET 3, MOTION 4, RUN 5, ALIGN 6
(R177, Table 11-4). -/
def groupMask : Nat → BitVec 32
  | 0 => 0x00000007
  | 1 => 0x00000038
  | 2 => 0x000003C0
  | 3 => 0x0000FC00
  | 4 => 0x00070000
  | 5 => 0x00380000
  | 6 => 0x03C00000
  | _ => 0

/-- A group summary: some factor of the group is both pending and enabled (R178). -/
def Clu.summary (c : Clu) (g : Nat) : Bool := c.raised &&& c.enabled &&& groupMask g ≠ 0

/-- Some group summary is set: the level ATTN has (R178). -/
def Clu.attention (c : Clu) : Bool := (List.range 7).any c.summary

/-- The notice frame of one occurrence: kind 0xC0, tag 0; factor number, time base, argument (R178). -/
def noticeFrame (f : Factor) (now : Time) (arg : List Byte) : Frame :=
  { kind := 0xC0, tag := 0, payload := n8 f.number.val ++ be32 now ++ arg }

/-- Raising in CLU: pending and argument, then a notice frame if the factor is enabled and fewer than 16 frames wait
(R178). -/
def Clu.raise (f : Factor) (now : Time) (arg : List Byte) (c : Clu) : Clu :=
  { c with
    raised := c.raised ||| f.bit
    args := c.args.set f.number.val arg
    notices :=
      if c.enabled &&& f.bit ≠ 0 ∧ c.notices.length < 16 then c.notices ++ [noticeFrame f now arg] else c.notices }

/-- ATTN follows the summaries in the step of every change (R178). -/
def setAttn (s : State) : State := { s with pins := { s.pins with attn := s.clu.attention } }

/-- A block raises a factor (R178). -/
def raise (f : Factor) (arg : List Byte) (s : State) : State :=
  setAttn { s with clu := s.clu.raise f s.now arg }

/-- The condition of a condition factor: LOG_NOT_EMPTY and LOG_FULL (R158). The others have none. -/
def logConditions (srt : Srt) : BitVec 32 :=
  (if srt.log ≠ [] then Factor.logNotEmpty.bit else 0) ||| (if srt.log.length = 64 then Factor.logFull.bit else 0)

/-- The lot number as an argument of a factor (Table 11-4); a lot has one whenever it is not absent. -/
def lotArg (s : State) : List Byte := be16 (s.ltc.lot.getD 0)

/-- Unit number and socket: the argument of the ALIGN factors (R89). -/
def alignArg (u : UnitNo) (k : SocketIx) : List Byte := be32 u ++ n8 k.val

end Sys2Proof.Machine
end

