-- ==== Sys2Proof/Machine/Ops.lean ====
section
/-! DEFINITION. The named operations over State that the blocks share: the unit table and the place map (R2, R6), the
order queues (R54), socket and head records, station records, free choices and timers. -/
namespace Sys2Proof.Machine

/-! ### Free choices (log entry 5) -/

/-- A free choice between two: its outcome, and the state with the draw counted. -/
def drawBool (s : State) : Bool × State :=
  (Config.freeChoice s.free % 2 = 1, { s with free := s.free + 1 })

/-- A free choice of one of n: its outcome, and the state with the draw counted. -/
def drawBelow (n : Nat) (s : State) : Nat × State :=
  (Config.freeChoice s.free % n, { s with free := s.free + 1 })

/-- Two operations in an order that is open: either may be made first. -/
def inEitherOrder (f g : State → State) (s : State) : State :=
  match drawBool s with
  | (true, s) => f (g s)
  | (false, s) => g (f s)

/-! ### Lot and run conditions -/

/-- The lot is RUNNING, DRAINING or PURGING. -/
def lotActive (s : State) : Bool :=
  s.ltc.state = .running || s.ltc.state = .draining || s.ltc.state = .purging

/-- The lot is RUNNING or DRAINING. -/
def lotTesting (s : State) : Bool := s.ltc.state = .running || s.ltc.state = .draining

/-! ### Unit table -/

/-- The record of a unit number (R6). -/
def findUnit (u : UnitNo) (s : State) : Option UnitRec := s.upt.units.find? (fun r => r.no = u)

/-- Changes the record of a unit number. -/
def modUnit (u : UnitNo) (f : UnitRec → UnitRec) (s : State) : State :=
  { s with upt := { s.upt with units := s.upt.units.map (fun r => if r.no = u then f r else r) } }

/-- Takes the record of a unit number out of the table. -/
def dropUnit (u : UnitNo) (s : State) : State :=
  { s with upt := { s.upt with units := s.upt.units.filter (fun r => r.no ≠ u) } }

/-- Changes the lot unit counters. -/
def modCounters (f : UnitCounters → UnitCounters) (s : State) : State :=
  { s with upt := { s.upt with counters := f s.upt.counters } }

/-- The route is final: a category or REALIGN_REJECT. -/
def Route.isFinal : Route → Bool
  | .retest => false
  | .final .. => true
  | .realignReject => true

/-- The unit has a final route. -/
def UnitRec.hasFinal (r : UnitRec) : Bool := (r.route.map Route.isFinal).getD false

/-- The socket lies in the unit's excluded set. -/
def UnitRec.excludes (r : UnitRec) (k : SocketIx) : Bool := r.excluded.getLsbD k.val

/-! ### Sockets and heads -/

/-- The head of a socket (R113). -/
def headOf (k : SocketIx) : HeadIx := ⟨k.val / 4, by omega⟩

/-- Socket j of head h (R113). -/
def headSocket (h j : Fin 4) : SocketIx := ⟨4 * h.val + j.val, by omega⟩

/-- The four sockets of a head in ascending order. -/
def socketsOf (h : HeadIx) : List SocketIx := [headSocket h 0, headSocket h 1, headSocket h 2, headSocket h 3]

/-- The four heads in ascending order. -/
def allHeads : List HeadIx := [0, 1, 2, 3]

/-- The four nozzles of a gantry in ascending order. -/
def allNozzles : List NozzleIx := [0, 1, 2, 3]

/-- The sixteen sockets in ascending order. -/
def allSockets : List SocketIx := List.finRange 16

/-- Changes a socket record. -/
def modSocket (k : SocketIx) (f : SocketRec → SocketRec) (s : State) : State :=
  { s with hsc := { s.hsc with sockets := s.hsc.sockets.set k.val (f s.hsc.sockets[k]) } }

/-- Changes a head record. -/
def modHead (h : HeadIx) (f : HeadRec → HeadRec) (s : State) : State :=
  { s with hsc := { s.hsc with heads := s.hsc.heads.set h.val (f s.hsc.heads[h]) } }

/-- A socket is active: not OFF, not JAMMED and not off-pending (R114). -/
def SocketRec.active (r : SocketRec) : Bool := r.state ≠ .off && r.state ≠ .jammed && r.offPending.isNone

/-- The active set, as one flag per socket (R114). -/
def activeSet (s : State) : List Bool := s.hsc.sockets.toList.map SocketRec.active

/-- Some socket of the head is in the state. -/
def anySocket (h : HeadIx) (st : SocketState) (s : State) : Bool :=
  (socketsOf h).any (fun k => s.hsc.sockets[k].state = st)

/-- How many sockets of the head are in the state. -/
def countSockets (h : HeadIx) (st : SocketState) (s : State) : Nat :=
  (socketsOf h).countP (fun k => s.hsc.sockets[k].state = st)

/-! ### Place map (R2) -/

/-- The unit at a spot, 0 for none. -/
def unitAt (sp : Spot) (s : State) : UnitNo :=
  match sp with
  | .soak p => s.upt.soak[p].unit
  | .socket k => s.hsc.sockets[k].unit
  | .loadNozzle n => s.upt.loadNozzles[n]
  | .unloadNozzle n => s.upt.unloadNozzles[n]

/-- Changes a soak position. -/
def modSoak (p : SoakIx) (f : SoakPos → SoakPos) (s : State) : State :=
  { s with upt := { s.upt with soak := s.upt.soak.set p.val (f s.upt.soak[p]) } }

/-- Writes a place map entry. -/
def setAt (sp : Spot) (u : UnitNo) (s : State) : State :=
  match sp with
  | .soak p => modSoak p (fun r => { r with unit := u }) s
  | .socket k => modSocket k (fun r => { r with unit := u }) s
  | .loadNozzle n => { s with upt := { s.upt with loadNozzles := s.upt.loadNozzles.set n.val u } }
  | .unloadNozzle n => { s with upt := { s.upt with unloadNozzles := s.upt.unloadNozzles.set n.val u } }

/-- The spot of a unit. -/
def spotOf (u : UnitNo) (s : State) : Option Spot := (findUnit u s).bind (fun r => r.place)

/-- Empties the place map entry of a unit, if it has one. -/
def leaveSpot (u : UnitNo) (s : State) : State :=
  match spotOf u s with
  | some sp => setAt sp 0 s
  | none => s

/-- Moves a unit whole: the entry it leaves, the entry it fills and its record together (R2). -/
def moveUnit (u : UnitNo) (sp : Spot) (s : State) : State :=
  s |> leaveSpot u |> setAt sp u |> modUnit u (fun r => { r with place := some sp })

/-- The unit on a nozzle of a gantry. -/
def nozzleUnit (g : Gantry) (n : NozzleIx) (s : State) : UnitNo := unitAt (nozzleSpot g n) s

/-! ### Gantries and queues -/

/-- The sequencer of a gantry. -/
def gsq (g : Gantry) (s : State) : Gsq :=
  match g with
  | .load => s.gsqL
  | .unload => s.gsqU

/-- Changes the sequencer of a gantry. -/
def modGsq (g : Gantry) (f : Gsq → Gsq) (s : State) : State :=
  match g with
  | .load => { s with gsqL := f s.gsqL }
  | .unload => { s with gsqU := f s.gsqU }

/-- Sets a gantry's state. -/
def setGantry (g : Gantry) (st : GantryState) (s : State) : State := modGsq g (fun q => { q with state := st }) s

/-- The order queue of a gantry (R54). -/
def queue (g : Gantry) (s : State) : List Order :=
  match g with
  | .load => s.xpl.loadQueue
  | .unload => s.xpl.unloadQueue

/-- Changes the order queue of a gantry. -/
def modQueue (g : Gantry) (f : List Order → List Order) (s : State) : State :=
  match g with
  | .load => { s with xpl := { s.xpl with loadQueue := f s.xpl.loadQueue } }
  | .unload => { s with xpl := { s.xpl with unloadQueue := f s.xpl.unloadQueue } }

/-- Takes an order out of a queue. -/
def removeOrder (g : Gantry) (id : Nat) (s : State) : State := modQueue g (List.filter (fun o => o.id ≠ id)) s

/-- Changes the status of an order of a queue. -/
def setStatus (g : Gantry) (id : Nat) (st : OrderStatus) (s : State) : State :=
  modQueue g (List.map (fun o => if o.id = id then { o with status := st } else o)) s

/-- The head order of a gantry's queue. -/
def headOrder (g : Gantry) (s : State) : Option Order := (queue g s).head?

/-- The gantry's parked flag (R55). -/
def parked (g : Gantry) (s : State) : Bool :=
  match g with
  | .load => s.xpl.parkedLoad
  | .unload => s.xpl.parkedUnload

/-- Sets the gantry's parked flag. -/
def setParked (g : Gantry) (b : Bool) (s : State) : State :=
  match g with
  | .load => { s with xpl := { s.xpl with parkedLoad := b } }
  | .unload => { s with xpl := { s.xpl with parkedUnload := b } }

/-- The order's unit number, if it names one. -/
def Order.unitNo? (o : Order) : Option UnitNo :=
  match o.unit with
  | .unit u => some u
  | _ => none

/-- The order's unit number, 0 if it names none. -/
def Order.unitNo (o : Order) : UnitNo := o.unitNo?.getD 0

/-- An input PICK: it picks from an input pocket or nest. -/
def Order.isInputPick (o : Order) : Bool :=
  match o.kind, o.place with
  | .pick, some (.input ..) => true
  | _, _ => false

/-- The socket of a load PLACE into a socket. -/
def Order.placeSocket (o : Order) : Option SocketIx :=
  match o.kind, o.place with
  | .place, some (.socket k) => some k
  | _, _ => none

/-- The zone a socket order needs: a load PLACE into a socket or an unload PICK from a socket (R97). -/
def Order.zone (o : Order) : Option HeadIx :=
  match o.place with
  | some (.socket k) => some (headOf k)
  | _ => none

/-- Some order of either queue is a PICK for the unit. -/
def pickPlanned (u : UnitNo) (s : State) : Bool :=
  (s.xpl.loadQueue ++ s.xpl.unloadQueue).any (fun o => o.kind = .pick && o.unit = .unit u)

/-! ### Stations -/

/-- The record of an input station. -/
def inStation (st : Side) (s : State) : InStation :=
  match st with
  | .a => s.fsc.stationA
  | .b => s.fsc.stationB

/-- Changes the record of an input station. -/
def modIn (st : Side) (f : InStation → InStation) (s : State) : State :=
  match st with
  | .a => { s with fsc := { s.fsc with stationA := f s.fsc.stationA } }
  | .b => { s with fsc := { s.fsc with stationB := f s.fsc.stationB } }

/-- The record of an output station. -/
def outStation (st : OutStation) (s : State) : OutRec := s.srt.stations[st.ix]

/-- Changes the record of an output station. -/
def modOut (st : OutStation) (f : OutRec → OutRec) (s : State) : State :=
  { s with srt := { s.srt with stations := s.srt.stations.set st.ix.val (f s.srt.stations[st.ix]) } }

/-! ### Timers -/

/-- A fill or test timer with its remaining time runs in RUN and is paused in any other run state (R124, R133). -/
def startTimer (remaining : Nat) (s : State) : HeadTimer :=
  if s.rcu.run = .run then .running (s.now + BitVec.ofNat 32 remaining) else .paused (BitVec.ofNat 32 remaining)

/-- A running timer pauses with its remaining time (R133). -/
def HeadTimer.pause (now : Time) : HeadTimer → HeadTimer
  | .running e => .paused (e - now)
  | t => t

/-- A paused timer runs on from its remaining time (R133). -/
def HeadTimer.resume (now : Time) : HeadTimer → HeadTimer
  | .paused r => .running (now + r)
  | t => t

/-- Changes every head record. -/
def modHeads (f : HeadRec → HeadRec) (s : State) : State :=
  { s with hsc := { s.hsc with heads := s.hsc.heads.map f } }

/-- At each change of run state away from RUN every running fill and test timer pauses (R133). -/
def pauseTimers (s : State) : State :=
  modHeads (fun h => { h with fill := h.fill.pause s.now, test := h.test.pause s.now }) s

/-- At each return to RUN every paused fill and test timer resumes (R133). -/
def resumeTimers (s : State) : State :=
  modHeads (fun h => { h with fill := h.fill.resume s.now, test := h.test.resume s.now }) s

end Sys2Proof.Machine
end

