-- ==== Sys2Proof/Machine/Placement.lean ====
section
/-! DEFINITION. The placement computation unit: conversion of places (R84), correction of socket placements (R85 to
R89), and the six teach requests with their checks (R77 to R82). -/
namespace Sys2Proof.Machine

/-! ### Conversion (R84) -/

/-- The taught axis of a gantry. -/
def Pcu.axis (p : Pcu) (g : Gantry) (a : Axis) : Option AxisTeach :=
  match g, a with
  | .load, .x => p.loadX
  | .load, .y => p.loadY
  | .unload, .x => p.unloadX
  | .unload, .y => p.unloadY

/-- Stage 4: the counts of a position on an axis, X * k / 1000 rounded up (R84). -/
def AxisTeach.count (a : AxisTeach) (x : Int) : Int := ceilDiv (x * a.k) 1000

/-- A position is in reach on an axis (R77). -/
def AxisTeach.inReach (a : AxisTeach) (x : Nat) : Bool := x ≤ 1200000 ∧ a.count x ≤ a.lmax

/-- The coordinate of a point on an axis. -/
def Point.coord (p : Point) : Axis → Nat
  | .x => p.x
  | .y => p.y

/-- The position in a row and column of a grid: columns run along x and rows along y (Table 5-1). -/
def Grid.cell (g : Grid) (row column : Nat) : Point :=
  { x := g.originX + column * g.columnPitch, y := g.originY + row * g.rowPitch }

/-- The position of pocket p of a tray (Table 5-2). -/
def TrayTeach.pocket (t : TrayTeach) (p : Nat) : Point := t.grid.cell (p / t.columns) (p % t.columns)

/-- The far corner of a tray: its last row and last column (R78). -/
def TrayTeach.far (t : TrayTeach) : Point := t.grid.cell (t.rows - 1) (t.columns - 1)

/-- The plate grid in the frame of a gantry. -/
def SoakTeach.frame (t : SoakTeach) : Gantry → Grid
  | .load => t.load
  | .unload => t.unload

/-- The nominal of a socket in the frame of a gantry. -/
def SocketTeach.nominal (t : SocketTeach) : Gantry → Point
  | .load => t.load
  | .unload => t.unload

/-- The number of an input station's tray among the ten station trays. -/
def Side.trayIx : Side → Fin 10
  | .a => 0
  | .b => 1

/-- The number of an output station's tray among the ten station trays. -/
def OutStation.trayIx (st : OutStation) : Fin 10 := ⟨2 + st.ix.val, by omega⟩

/-- The number of an input station's nest. -/
def Side.nestIx : Side → Fin 2
  | .a => 0
  | .b => 1

/-- The taught position that an order names, before any correction (Table 5-2); none where the item is untaught, which
no order finds (R83). -/
def taughtPosition (g : Gantry) (o : Order) (s : State) : Option Point :=
  match o.kind, o.place with
  | .inspect, _ => s.pcu.camera.map (fun c => { x := c.x, y := c.y })
  | .park, _ =>
    match s.pcu.axis g .x, s.pcu.axis g .y with
    | some ax, some ay => some { x := ax.park, y := ay.park }
    | _, _ => none
  | _, some (.input st (.pocket p)) => s.pcu.trays[st.trayIx].map (fun t => t.pocket p.val)
  | _, some (.input st .nest) => s.pcu.nests[st.nestIx]
  | _, some (.output st p) => s.pcu.trays[st.trayIx].map (fun t => t.pocket p.val)
  | _, some (.soak p) => s.pcu.soak.map (fun t => (t.frame g).cell (p.val / 8) (p.val % 8))
  | _, some (.socket k) => s.hsc.sockets[k].teach.map (fun t => t.nominal g)
  | _, some .chute => s.pcu.chute
  | _, _ => none

/-- The counts of a position on the two axes of a gantry (R84). -/
def countsAt (g : Gantry) (x y : Int) (s : State) : Int × Int :=
  (((s.pcu.axis g .x).map (fun a => a.count x)).getD 0, ((s.pcu.axis g .y).map (fun a => a.count y)).getD 0)

/-- The x and y counts of an order that is not corrected (R84, Table 5-2). -/
def orderCounts (g : Gantry) (o : Order) (s : State) : Int × Int :=
  match taughtPosition g o s with
  | some p => countsAt g p.x p.y s
  | none => (0, 0)

/-! ### Correction (R85 to R89) -/

/-- Stage 1: a camera value in 1/16 pixel times the scale, in µm rounded up (R85). -/
def stage1 (scale : Nat) (p : Int) : Int := ceilDiv (p * scale) 16000

/-- One axis of a correction set to the edge of the window where it lies outside (R87, LENIENT). -/
def clampTo (w : Nat) (c : Int) : Int := if c < -w then -w else if (w : Int) < c then w else c

/-- The correction lies outside the window on an axis (R87). -/
def outside (w : Nat) (cx cy : Int) : Bool := w < cx.natAbs || w < cy.natAbs

/-- The outcome of a correction (R89, Table 5-3): coordinates with the correction used and the flags it adds, or a
divert, for a VOID offset or for a correction outside the window. -/
inductive Correction where
  | coordinates (cx cy : Int) (clamped voided : Bool)
  | divert (voided : Bool)
deriving DecidableEq, Repr

/-- Stages 2 and 3 for an offset mx, my that is used (R86, R87). -/
def correctWith (t : SocketTeach) (nx ny mx my : Int) (voided : Bool) : Correction :=
  let cx := t.tx + nx - mx
  let cy := t.ty + ny - my
  if outside t.window cx cy then
    match t.policy with
    | .strict => .divert false
    | .lenient => .coordinates (clampTo t.window cx) (clampTo t.window cy) true voided
  else .coordinates cx cy false voided

/-- The correction of a socket placement from the socket's teach data, the nozzle's trims and the unit's offset, an
absent offset taken as VOID (R86 to R88). -/
def correct (t : SocketTeach) (nx ny : Int) (off : Option Offset) : Correction :=
  match off with
  | some (.um mx my) => correctWith t nx ny mx my false
  | _ =>
    match t.policy with
    | .strict => .divert true
    | .lenient => correctWith t nx ny 0 0 true

/-- The trims of a load nozzle. -/
def trims (n : NozzleIx) (s : State) : Int × Int :=
  match s.pcu.camera with
  | some c => (c.trimX[n], c.trimY[n])
  | none => (0, 0)

/-- The correction of a load PLACE of unit u into socket k with nozzle n (R86). A socket that an order can name is
taught (R83); an untaught one would be diverted. -/
def correction (u : UnitNo) (k : SocketIx) (n : NozzleIx) (s : State) : Correction :=
  match s.hsc.sockets[k].teach with
  | some t => correct t (trims n s).1 (trims n s).2 ((findUnit u s).bind UnitRec.offset)
  | none => .divert true

/-- What a correction with coordinates leaves behind: flags and factors (R87 to R89). -/
def applyFlags (u : UnitNo) (k : SocketIx) (clamped voided : Bool) (s : State) : State :=
  let s := modUnit u (fun r => { r with clamped := r.clamped || clamped, voided := r.voided || voided }) s
  let s := if voided then raise .alignVoid (alignArg u k) s else s
  if clamped then raise .alignClamp (alignArg u k) s else s

/-- The counts of a corrected socket placement: Xs + cx and Ys + cy (R86). -/
def correctedCounts (k : SocketIx) (cx cy : Int) (s : State) : Int × Int :=
  match s.hsc.sockets[k].teach with
  | some t => countsAt .load (t.load.x + cx) (t.load.y + cy) s
  | none => (0, 0)

/-- The offset of a nozzle at an INSPECT: both camera values through stage 1, or VOID (R85). -/
def inspectOffset (valid : Bool) (px py : Int) (s : State) : Offset :=
  let scale := (s.pcu.camera.map CameraTeach.scale).getD 0
  if valid then .um (stage1 scale px) (stage1 scale py) else .void

/-! ### Ready to enable (R83) -/

/-- All four axes are taught. -/
def axesTaught (s : State) : Bool :=
  s.pcu.loadX.isSome && s.pcu.loadY.isSome && s.pcu.unloadX.isSome && s.pcu.unloadY.isSome

/-- Both axes of a gantry are taught. -/
def frameTaught (g : Gantry) (s : State) : Bool := (s.pcu.axis g .x).isSome && (s.pcu.axis g .y).isSome

/-- The socket is ready to enable (R83). -/
def readyToEnable (k : SocketIx) (s : State) : Bool :=
  s.hsc.sockets[k].teach.isSome && axesTaught s && s.pcu.camera.isSome && s.pcu.soak.isSome && s.pcu.chute.isSome

/-! ### Teach requests (R77 to R82) -/

/-- Changes the placement computation unit. -/
def modPcu (f : Pcu → Pcu) (s : State) : State := { s with pcu := f s.pcu }

/-- A position argument in its range, 0 to 1,200,000 µm (Table 5-1). -/
def posOk (w : Word) : Bool := w.toNat ≤ 1200000

/-- A grid in its ranges (Table 5-1). -/
def gridOk (g : GridArg) : Bool :=
  posOk g.originX && posOk g.originY && g.columnPitch.toNat ≤ 100000 && g.rowPitch.toNat ≤ 100000

/-- The grid of an argument. -/
def gridOf (g : GridArg) : Grid :=
  { originX := g.originX.toNat, originY := g.originY.toNat, columnPitch := g.columnPitch.toNat,
    rowPitch := g.rowPitch.toNat }

/-- A signed two-byte value within -2000 to +2000 (Table 5-1). -/
def trimOk (h : Half) : Bool := -2000 ≤ h.toInt ∧ h.toInt ≤ 2000

/-- A point lies in reach on both axes of a gantry. -/
def pointReach (g : Gantry) (p : Point) (s : State) : Bool :=
  [Axis.x, Axis.y].all (fun a =>
    match s.pcu.axis g a with
    | some t => t.inReach (p.coord a)
    | none => false)

/-- The place code of the first check that fails, in ascending order of place code (R77). -/
def firstFailing (checks : List (Half × Bool)) : Option Half :=
  (checks.filter (fun c => !c.2)).foldl (fun m c =>
    match m with
    | none => some c.1
    | some k => some (if c.1 < k then c.1 else k)) none

/-- Steps 1 to 4 of a teach request, and its reply (R77). -/
def teach (ranges prerequisites : Bool) (reach : List (Half × Bool)) (store : State → State) (s : State) :
    State × List Byte :=
  if s.ltc.state ≠ .idle then (s, answer .wrongState [])
  else if !ranges then (s, answer .badArg [])
  else if !prerequisites then (s, answer .noSuch [])
  else
    match firstFailing reach with
    | some code => (s, answer .badArg (be16 code))
    | none => (store s, answer .ok [])

/-- The place code of a station kind and index (R77). -/
def stationCode (kind i : Nat) : Half := BitVec.ofNat 16 (kind * 4096 + i)

/-- The place code of a tray's far corner: its last pocket (R77). -/
def TrayTeach.farCode (kind : Nat) (t : TrayTeach) : Half := stationCode kind (t.rows * t.columns - 1)

/-- The place code by which a refusal names the soak plate: soak position 63 (R77). -/
def soakCode : Half := (Place.soak 63).code

/-- The tray far corner of a station as a position to check again. -/
def trayCheck (s : State) (kind : Fin 10) : List (Half × Point) :=
  (s.pcu.trays[kind].map (fun t => (t.farCode kind.val, t.far))).toList

/-- The nest of an input station as a position to check again. -/
def nestCheck (s : State) (st : Fin 2) : List (Half × Point) :=
  (s.pcu.nests[st].map (fun p => (stationCode st.val 4095, p))).toList

/-- A socket's position as SETUP_AXIS checks it: the load nominal plus 2000 µm, or the unload nominal (R78). -/
def socketCheck (g : Gantry) (s : State) (k : SocketIx) : List (Half × Point) :=
  (s.hsc.sockets[k].teach.map (fun t =>
    ((Place.socket k).code,
      match g with
      | .load => { x := t.load.x + 2000, y := t.load.y + 2000 }
      | .unload => t.unload))).toList

/-- The soak plate far corner in a frame as a position to check again. -/
def plateCheck (g : Gantry) (s : State) : List (Half × Point) :=
  (s.pcu.soak.map (fun t => (soakCode, (t.frame g).cell 7 7))).toList

/-- Every taught position that lies on the axes of a gantry (R78). -/
def taughtOn (g : Gantry) (s : State) : List (Half × Point) :=
  match g with
  | .load =>
    (s.pcu.camera.map (fun c => (noPlace, { x := c.x, y := c.y }))).toList ++ plateCheck .load s
      ++ trayCheck s 0 ++ trayCheck s 1 ++ nestCheck s 0 ++ nestCheck s 1 ++ allSockets.flatMap (socketCheck .load s)
  | .unload =>
    plateCheck .unload s ++ [2, 3, 4, 5, 6, 7, 8, 9].flatMap (trayCheck s)
      ++ (s.pcu.chute.map (fun p => (Place.chute.code, p))).toList ++ allSockets.flatMap (socketCheck .unload s)

/-- Gantry and axis of the axis byte (Table 11-6). -/
def axisOf (axis : Byte) : Option (Gantry × Axis) :=
  match axis.toNat with
  | 0 => some (.load, .x)
  | 1 => some (.load, .y)
  | 2 => some (.unload, .x)
  | 3 => some (.unload, .y)
  | _ => none

/-- Stores an axis. -/
def Pcu.setAxis (g : Gantry) (a : Axis) (t : AxisTeach) (p : Pcu) : Pcu :=
  match g, a with
  | .load, .x => { p with loadX := some t }
  | .load, .y => { p with loadY := some t }
  | .unload, .x => { p with unloadX := some t }
  | .unload, .y => { p with unloadY := some t }

/-- SETUP_AXIS (R78). -/
def serveSetupAxis (axis : Byte) (k : Half) (lmax park : Word) (s : State) : State × List Byte :=
  match axisOf axis with
  | none => teach false true [] id s
  | some (g, a) =>
    let t : AxisTeach := { k := k.toNat, lmax := lmax.toNat, park := park.toNat }
    teach (1 ≤ k.toNat && k.toNat ≤ 20000 && 1 ≤ lmax.toNat && lmax.toNat ≤ 16777215 && posOk park) true
      ((noPlace, t.inReach t.park) :: (taughtOn g s).map (fun c => (c.1, t.inReach (c.2.coord a))))
      (modPcu (Pcu.setAxis g a t)) s

/-- SETUP_CAMERA (R79). -/
def serveSetupCamera (scale : Half) (x y : Word) (trims : Vector TrimArg 4) (s : State) : State × List Byte :=
  teach (500 ≤ scale.toNat && scale.toNat ≤ 50000 && posOk x && posOk y
      && trims.toList.all (fun t => trimOk t.x && trimOk t.y))
    (frameTaught .load s)
    [(noPlace, pointReach .load { x := x.toNat, y := y.toNat } s)]
    (modPcu (fun p => { p with
      camera := some
        { scale := scale.toNat, x := x.toNat, y := y.toNat, trimX := trims.map (fun t => t.x.toInt),
          trimY := trims.map (fun t => t.y.toInt) } })) s

/-- SETUP_SOAK (R80). -/
def serveSetupSoak (load unload : GridArg) (s : State) : State × List Byte :=
  teach (gridOk load && gridOk unload) (axesTaught s)
    [(soakCode, pointReach .load ((gridOf load).cell 7 7) s),
     (soakCode, pointReach .unload ((gridOf unload).cell 7 7) s)]
    (modPcu (fun p => { p with soak := some { load := gridOf load, unload := gridOf unload } })) s

/-- SETUP_CHUTE (R80). -/
def serveSetupChute (x y : Word) (s : State) : State × List Byte :=
  teach (posOk x && posOk y) (frameTaught .unload s)
    [(Place.chute.code, pointReach .unload { x := x.toNat, y := y.toNat } s)]
    (modPcu (fun p => { p with chute := some { x := x.toNat, y := y.toNat } })) s

/-- The gantry whose frame a station lies in (Table 5-1). -/
def stationGantry (kind : Fin 10) : Gantry := if kind.val < 2 then .load else .unload

/-- SETUP_STATION with part TRAY (R81). -/
def serveSetupTray (station rows columns : Byte) (grid : GridArg) (s : State) : State × List Byte :=
  match index 10 station.toNat with
  | none => teach false true [] id s
  | some kind =>
    let t : TrayTeach := { rows := rows.toNat, columns := columns.toNat, grid := gridOf grid }
    teach (1 ≤ rows.toNat && rows.toNat ≤ 24 && 1 ≤ columns.toNat && columns.toNat ≤ 16 && gridOk grid)
      (frameTaught (stationGantry kind) s) [(t.farCode kind.val, pointReach (stationGantry kind) t.far s)]
      (modPcu (fun p => { p with trays := p.trays.set kind.val (some t) })) s

/-- SETUP_STATION with part NEST, admitted for input A and B, or with a part that is neither (R81). -/
def serveSetupNest (station part : Byte) (x y : Word) (s : State) : State × List Byte :=
  match index 2 station.toNat with
  | none => teach false true [] id s
  | some st =>
    teach (part = 1 && posOk x && posOk y) (frameTaught .load s)
      [(stationCode st.val 4095, pointReach .load { x := x.toNat, y := y.toNat } s)]
      (modPcu (fun p => { p with nests := p.nests.set st.val (some { x := x.toNat, y := y.toNat }) })) s

/-- SETUP_STATION (R81). -/
def serveSetupStation (station : Byte) (part : StationPart) (s : State) : State × List Byte :=
  match part with
  | .tray rows columns grid => serveSetupTray station rows columns grid s
  | .other part x y => serveSetupNest station part x y s

/-- The align policy of its code (Table 11-6). -/
def policyOf (b : Byte) : Option Policy :=
  match b.toNat with
  | 0 => some .strict
  | 1 => some .lenient
  | _ => none

/-- SETUP_SOCKET (R82). -/
def serveSetupSocket (socket : Byte) (loadX loadY unloadX unloadY : Word) (tx ty window : Half) (policy : Byte)
    (s : State) : State × List Byte :=
  match index 16 socket.toNat, policyOf policy with
  | some k, some pol =>
    let t : SocketTeach :=
      { load := { x := loadX.toNat, y := loadY.toNat }, unload := { x := unloadX.toNat, y := unloadY.toNat },
        tx := tx.toInt, ty := ty.toInt, window := window.toNat, policy := pol }
    let code := (Place.socket k).code
    teach (posOk loadX && posOk loadY && posOk unloadX && posOk unloadY && trimOk tx && trimOk ty
        && window.toNat ≤ 2000)
      (axesTaught s)
      [(code, 2000 ≤ t.load.x && 2000 ≤ t.load.y),
       (code, pointReach .load { x := t.load.x + 2000, y := t.load.y + 2000 } s),
       (code, pointReach .unload t.unload s)]
      (modSocket k (fun r => { r with teach := some t })) s
  | _, _ => teach false true [] id s

end Sys2Proof.Machine
end

