-- ==== Sys2Proof/Machine/Lots.lean ====
section
/-! DEFINITION. The lot controller's own events: input-done, the empty report and the empty test, DRAINED (R28, R30,
R17), and the lot counters. -/
namespace Sys2Proof.Machine

/-- Changes the lot controller. -/
def modLtc (f : Ltc → Ltc) (s : State) : State := { s with ltc := f s.ltc }

/-- Sets the lot state. -/
def setLot (st : LotState) (s : State) : State := modLtc (fun l => { l with state := st }) s

/-- The machine is empty: every record is LOST and no creation is pending (R17). -/
def machineEmpty (s : State) : Bool :=
  s.upt.units.all (fun r => r.state = .lost) && s.upt.pendingCreations = 0

/-- The lot becomes DRAINED: the time, the state and the factor (R30). -/
def becomeDrained (s : State) : State :=
  s |> modLtc (fun l => { l with state := .drained, times := { l.times with drained := some s.now } })
    |> raise .drained (lotArg s)

/-- The empty report and the empty test: a DRAINING or PURGING lot whose machine is empty becomes DRAINED (R17,
R30). -/
def checkEmpty (s : State) : State :=
  if (s.ltc.state = .draining ∨ s.ltc.state = .purging) ∧ machineEmpty s then becomeDrained s else s

/-- FSC sends input-done: in RUNNING the lot goes to DRAINING and the empty test is made; in any other state nothing
changes (R28). -/
def inputDone (s : State) : State :=
  if s.ltc.state = .running then
    s |> modLtc (fun l => { l with state := .draining, times := { l.times with inputDone := some s.now } })
      |> raise .inputDone (lotArg s)
      |> checkEmpty
  else s

/-- A capture of a head is reported to the lot controller (R32). -/
def countCapture (h : HeadIx) (timeout : Bool) (s : State) : State :=
  modLtc (fun l => { l with
    captures := { l.captures with
      captures := l.captures.captures.set h.val (satInc l.captures.captures[h])
      timeouts := if timeout then l.captures.timeouts.set h.val (satInc l.captures.timeouts[h])
        else l.captures.timeouts } }) s

/-- A voided test is reported to the lot controller (R32). -/
def countVoided (s : State) : State :=
  modLtc (fun l => { l with captures := { l.captures with voided := satInc l.captures.voided } }) s

/-- One more unit binned in a category (R18). -/
def countBinned (c : Category) (s : State) : State :=
  modCounters (fun k => { k with binned := k.binned.set c.val (satInc k.binned[c]) }) s

end Sys2Proof.Machine
end

