-- ==== Sys2Proof/Machine/Feed.lean ====
section
/-! DEFINITION. The feed station controller: the place of each input pick, how each pick ends, the hand-over, the
spending of a station, the lot tray counter and the disarming at purge (R40 to R50). -/
namespace Sys2Proof.Machine

/-- Changes the values the two stations share. -/
def modFsc (f : Fsc → Fsc) (s : State) : State := { s with fsc := f s.fsc }

/-- A station as the argument of a factor: its place kind (R174, R176). -/
def stationArg (st : Side) : List Byte := n8 st.inputKind

/-- How many input stations are FINISHING (R44). -/
def finishingCount (s : State) : Nat :=
  (if s.fsc.stationA.state = .finishing then 1 else 0) + (if s.fsc.stationB.state = .finishing then 1 else 0)

/-- The tray limit is reached: counted form, and the counter is not greater than the number of stations now FINISHING
(R44). -/
def trayLimit (s : State) : Bool := s.fsc.counted && s.fsc.trayCounter.toNat ≤ finishingCount s

/-- An input station becomes ACTIVE and current. -/
def activateIn (st : Side) (s : State) : State :=
  s |> modIn st (fun r => { r with state := .active }) |> modFsc (fun f => { f with current := some st })

/-- The hand-over of a station that has just become FINISHING with end cause SPENT (R44, R45). -/
def handOver (st : Side) (s : State) : State :=
  if (inStation st s).more = false then inputDone s
  else if trayLimit s then s
  else if (inStation st.other s).state = .standby then activateIn st.other s
  else s |> modFsc (fun f => { f with starved := true }) |> raise .feedStarved (stationArg st)

/-- The station becomes EMPTY and STATION_SPENT is raised; its counts stay (R46, steps 1 and 2). -/
def spendStation (st : Side) (s : State) : State :=
  let r := inStation st s
  s |> raise .stationSpent (stationArg st ++ n8 ((r.endCause.map EndCause.code).getD 0) ++ n16 r.unused)
    |> modIn st (fun r => { r with state := .empty })

/-- An armed station without pending picks leaves service: FINISHING with end cause DISARMED, its remaining count
given up (R47, R50). -/
def disarmStation (st : Side) (s : State) : State :=
  modIn st (fun r => { r with
    state := .finishing, endCause := some .disarmed, unused := r.unused + r.remaining, remaining := 0 }) s

/-- The counted tray counter has reached 0: input-done, STARVED cleared, a STANDBY other station disarmed and spent
(R47). -/
def trayCountEnds (st : Side) (s : State) : State :=
  let s := s |> inputDone |> modFsc (fun f => { f with starved := false })
  if (inStation st.other s).state = .standby then s |> disarmStation st.other |> spendStation st.other else s

/-- The lot tray counter steps for a station spent with end cause SPENT (R47, R48). -/
def stepTrayCounter (st : Side) (s : State) : State :=
  if s.fsc.counted then
    if s.fsc.trayCounter = 0 then s
    else
      let s := modFsc (fun f => { f with trayCounter := f.trayCounter - 1 }) s
      if s.fsc.trayCounter = 0 then trayCountEnds st s else s
  else
    let s := modFsc (fun f => { f with trayCounter := f.trayCounter + 1 }) s
    if s.fsc.trayCounter = 0 then raise .traycountWrap (lotArg s) s else s

/-- A FINISHING station without pending picks is spent (R46). -/
def spendIfDone (st : Side) (s : State) : State :=
  let r := inStation st s
  if r.state = .finishing ∧ r.pending = 0 then
    if r.endCause = some .spent then s |> spendStation st |> stepTrayCounter st else spendStation st s
  else s

/-- A station becomes FINISHING with end cause SPENT, and the hand-over is made (R40, R43, R44). -/
def finishStation (st : Side) (s : State) : State :=
  s |> modIn st (fun r => { r with state := .finishing, endCause := some .spent }) |> handOver st

/-- The next pocket of an ACTIVE COUNTED station, consumed as it is planned (R40). -/
def planPocket (st : Side) (s : State) : State :=
  let s := modIn st (fun r => { r with next := r.next + 1, pending := r.pending + 1, remaining := r.remaining - 1 }) s
  if (inStation st s).remaining = 0 then finishStation st s else s

/-- FSC's answer to the planner: the station and slot of the next input pick with the state in which it is planned, or
none (R40, R41). -/
def planInputPick (s : State) : Option (Side × InSlot × State) :=
  match s.fsc.current with
  | none => none
  | some st =>
    let r := inStation st s
    if r.state = .active then
      match r.mode with
      | some .counted => some (st, .pocket (Fin.ofNat 384 r.next), planPocket st s)
      | some .opened =>
        if r.pending = 0 then some (st, .nest, modIn st (fun r => { r with pending := 1 }) s) else none
      | none => none
    else none

/-- How a planned input pick ends (R42). -/
inductive PickEnd where
  | picked
  | noPart
  | givenUp
deriving DecidableEq, Repr

/-- The counts of the station at the end of a pick (R42). -/
def InStation.endPick (e : PickEnd) (r : InStation) : InStation :=
  match e with
  | .picked => { r with pending := r.pending - 1, picked := capInc 65535 r.picked, noPartRun := 0 }
  | .noPart =>
    { r with
      pending := r.pending - 1
      empties := capInc 65535 r.empties
      noPartRun := if r.mode = some .opened then capInc 2 r.noPartRun else r.noPartRun }
  | .givenUp =>
    { r with
      pending := r.pending - 1
      unused := if r.mode = some .counted then r.unused + 1 else r.unused }

/-- A nest whose NO_PART run has reached 2 runs dry (R43, steps 1 and 2). -/
def runDry (st : Side) (s : State) : State :=
  let s := raise .nestDry (stationArg st) s
  if (inStation st s).state = .active then finishStation st s else s

/-- A planned input pick ends: counts, a nest run dry, and the spending of a FINISHING station (R42, R43, R46). -/
def endInputPick (st : Side) (e : PickEnd) (s : State) : State :=
  let s := modIn st (InStation.endPick e) s
  let r := inStation st s
  let s := if e = .noPart ∧ r.mode = some .opened ∧ r.noPartRun = 2 then runDry st s else s
  spendIfDone st s

/-- One station at a purge (R50). -/
def purgeStation (st : Side) (s : State) : State :=
  if (inStation st s).state = .standby ∨ (inStation st s).state = .active then
    s |> disarmStation st |> spendIfDone st
  else s

/-- FSC at LOT_PURGE, after the planner's cancellations (R50). The rule gives the stations no order: A is taken before B
(DESIGN CHOICE, log entry 22). -/
def purgeFeed (s : State) : State :=
  s |> purgeStation .a |> purgeStation .b |> modFsc (fun f => { f with starved := false })

end Sys2Proof.Machine
end

