-- ==== Sys2Proof/Machine/Sorting.lean ====
section
/-! DEFINITION. The sort unit: routes (R147 to R149), output pockets (R152, R153), the completion log with its
reservations (R155, R156). -/
namespace Sys2Proof.Machine

/-- Changes the sort unit. -/
def modSrt (f : Srt → Srt) (s : State) : State := { s with srt := f s.srt }

/-! ### Routes -/

/-- The final category that step 3 of R147 selects for a bin entry, align flags and number of attempts. -/
def BinEntry.finalCategory (e : BinEntry) (clamped voided : Bool) (attempts : Nat) : Category :=
  match e.condition with
  | .none => e.category
  | .alignClean => if clamped || voided then e.alternate else e.category
  | .firstAttempt => if attempts = 1 then e.category else e.alternate

/-- The route decision of a capture, for the entry of the unit's bin and its record with the new attempt appended
(R147). -/
def decideRoute (purging : Bool) (maxAttempts : Nat) (e : BinEntry) (r : UnitRec) : Route :=
  if !purging && e.retest && r.attempts.length < maxAttempts then .retest
  else .final (e.finalCategory r.clamped r.voided r.attempts.length) false

/-- The bin map entry of a bin. -/
def binEntry (b : BinCode) (s : State) : Option BinEntry := s.srt.binMap[b]

/-- Writes the route of a captured unit; RETEST adds the attempt's socket to the excluded set and counts a retest
(R13, R147). -/
def routeUnit (u : UnitNo) (k : SocketIx) (b : BinCode) (s : State) : State :=
  match findUnit u s, binEntry b s with
  | some r, some e =>
    match decideRoute (s.ltc.state = .purging) s.ltc.params.maxAttempts e r with
    | .retest =>
      s |> modUnit u (fun r => { r with
            route := some .retest, excluded := r.excluded ||| BitVec.twoPow 16 k.val })
        |> modCounters (fun c => { c with retests := satInc c.retests })
    | route => modUnit u (fun r => { r with route := some route }) s
  | _, _ => s

/-- The unit leaves the ready list (R59). -/
def unready (u : UnitNo) (s : State) : State :=
  { s with xpl := { s.xpl with readyList := s.xpl.readyList.filter (fun v => v ≠ u) } }

/-- A reroute: RETEST becomes the final category of the latest attempt's bin, and the unit leaves the ready list
(R148). -/
def reroute (u : UnitNo) (s : State) : State :=
  match findUnit u s with
  | some r =>
    match r.route, r.attempts.getLast? with
    | some .retest, some a =>
      match binEntry a.bin s with
      | some e =>
        let c := e.finalCategory r.clamped r.voided r.attempts.length
        s |> modUnit u (fun r => { r with route := some (.final c false) }) |> unready u
      | none => s
    | _, _ => s
  | none => s

/-- The purge category, flagged PURGED (R149). -/
def purgeRoute (s : State) : Route := .final s.ltc.params.purgeCategory true

/-- The route of one unit at a purge: RETEST rerouted, no route replaced by the purge category; a final route, a unit
TESTING and a LOST unit are left (R149). -/
def purgeUnitRoute (u : UnitNo) (s : State) : State :=
  match findUnit u s with
  | some r =>
    if r.state = .testing ∨ r.state = .lost then s
    else
      match r.route with
      | none => s |> modUnit u (fun r => { r with route := some (purgeRoute s) }) |> unready u
      | some .retest => reroute u s
      | some _ => s
  | none => s

/-- Every unit of the lot at a purge (R149). -/
def purgeRoutes (s : State) : State := (s.upt.units.map UnitRec.no).foldl (fun s u => purgeUnitRoute u s) s

/-! ### Output pockets -/

/-- The station of a pair that is ACTIVE, if any. -/
def activeOut (p : PairIx) (s : State) : Option OutStation :=
  if (outStation { pair := p, side := .a } s).state = .active then some { pair := p, side := .a }
  else if (outStation { pair := p, side := .b } s).state = .active then some { pair := p, side := .b }
  else none

/-- Changes a pair record. -/
def modPair (p : PairIx) (f : PairRec → PairRec) (s : State) : State :=
  modSrt (fun t => { t with pairs := t.pairs.set p.val (f t.pairs[p]) }) s

/-- The categories mapped to a pair in ascending order. -/
def pairCategories (p : PairIx) (s : State) : List Category :=
  (List.finRange 8).filter (fun c => s.srt.categories[c] = .pair p)

/-- A pair becomes blocked; CATEGORY_BLOCKED is raised for each of its categories (R152). -/
def blockPair (p : PairIx) (s : State) : State :=
  (pairCategories p s).foldl (fun s c => raise .categoryBlocked (n8 c.val) s)
    (modPair p (fun r => { r with blocked := true }) s)

/-- The hand-over of a pair whose ACTIVE station has just become FINISHING (R152, step 3). -/
def outHandOver (st : OutStation) (s : State) : State :=
  let other : OutStation := { st with side := st.side.other }
  if (outStation other s).state = .standby then
    s |> modOut other (fun r => { r with state := .active })
      |> modPair st.pair (fun r => { r with current := some st.side.other })
  else blockPair st.pair s

/-- SRT's answer to the planner: a pocket of the pair with the state in which it is taken, or none (R152). -/
def takePocket (p : PairIx) (s : State) : Option (OutStation × Pocket × State) :=
  match activeOut p s with
  | none => none
  | some st =>
    let pocket := Fin.ofNat 384 (outStation st s).next
    let s := modOut st (fun r => { r with
      next := r.next + 1, pending := r.pending + 1, remaining := r.remaining - 1 }) s
    if (outStation st s).remaining = 0 then
      some (st, pocket, s |> modOut st (fun r => { r with state := .finishing }) |> outHandOver st)
    else some (st, pocket, s)

/-- An output placement ends: filled or skipped, and a FINISHING station without pending places is spent (R153). -/
def endOutPlace (st : OutStation) (filled : Bool) (s : State) : State :=
  let s := modOut st (fun r => { r with
    pending := r.pending - 1
    filled := if filled then r.filled + 1 else r.filled
    skipped := if filled then r.skipped else r.skipped + 1 }) s
  let r := outStation st s
  if r.state = .finishing ∧ r.pending = 0 then
    s |> raise .outSpent (n8 st.kind ++ n16 r.filled ++ n16 r.skipped)
      |> modOut st (fun r => { r with state := .empty })
  else s

/-! ### Completion log -/

/-- SRT's answer to a request for a log entry for unit u: the state with the reservation, or none (R155). -/
def reserveLog (u : UnitNo) (s : State) : Option State :=
  if s.srt.log.length + s.srt.reservations.length < 64 ∧ u ∉ s.srt.log.map LogRec.no ∧ u ∉ s.srt.reservations then
    some (modSrt (fun t => { t with reservations := t.reservations ++ [u] }) s)
  else none

/-- A reservation is released without a record (R155). -/
def releaseLog (u : UnitNo) (s : State) : State :=
  modSrt (fun t => { t with reservations := t.reservations.filter (fun v => v ≠ u) }) s

/-- The completion record of a unit (R156). -/
def UnitRec.logRec (r : UnitRec) (dest : Place) (now : Time) : LogRec :=
  { no := r.no, lot := r.lot, origin := r.origin, attempts := r.attempts,
    category := match r.route with
      | some (.final c _) => some c
      | _ => none
    dest := dest, clamped := r.clamped, voided := r.voided,
    purged := match r.route with
      | some (.final _ p) => p
      | _ => false
    realignReject := r.route = some .realignReject, time := now }

/-- An append that takes the log from 0 records to 1 raises LOG_NOT_EMPTY; one that takes it to 64 raises LOG_FULL
(R158). -/
def raiseLogFactors (s : State) : State :=
  let n := s.srt.log.length
  let s := if n = 1 then raise .logNotEmpty (n8 n) s else s
  if n = 64 then raise .logFull (n8 n) s else s

/-- The unit's reservation becomes a record at the end of the log (R156). A record is appended into a reservation and
in no other way. -/
def appendLog (r : UnitRec) (dest : Place) (s : State) : State :=
  if r.no ∈ s.srt.reservations then
    s |> releaseLog r.no
      |> modSrt (fun t => { t with log := t.log ++ [r.logRec dest s.now] })
      |> raiseLogFactors
  else s

/-- One more unit in the chute since reset (R154). -/
def countChute (s : State) : State := modSrt (fun t => { t with chuteTotal := satInc t.chuteTotal }) s

end Sys2Proof.Machine
end

