-- ==== Sys2Proof/Machine/Heads.lean ====
section
/-! DEFINITION. The heads and sockets with their zone requests: eviction (R119), the fill timer (R124), the start
condition and the start of test (R125, R126), and what the heads and the planner do at each change of a socket, of the
lot state or of the active set (R70, R114, R123). -/
namespace Sys2Proof.Machine

/-! ### Zone requests -/

/-- Changes a zone. -/
def modZone (z : HeadIx) (f : Zone → Zone) (s : State) : State := { s with zar := s.zar.set z.val (f s.zar[z]) }

/-- A head withdraws its standing request (R139). -/
def withdrawHead (h : HeadIx) (s : State) : State := modZone h (fun z => { z with head := false }) s

/-- A gantry withdraws its standing requests (R139). -/
def withdrawGantry (g : Gantry) (s : State) : State :=
  { s with zar := s.zar.map (fun z =>
      match g with
      | .load => { z with load := false }
      | .unload => { z with unload := false }) }

/-! ### Tester lines (R128) -/

/-- Writes the LD line of a socket. -/
def setLd (k : SocketIx) (b : Bool) (s : State) : State :=
  { s with pins := { s.pins with ld := s.pins.ld.set k.val b } }

/-- Writes the SOT line of a head. -/
def setSot (h : HeadIx) (b : Bool) (s : State) : State :=
  { s with pins := { s.pins with sot := s.pins.sot.set h.val b } }

/-- SOT and the LD lines of a head fall together (R128). -/
def lowerLines (h : HeadIx) (s : State) : State :=
  (socketsOf h).foldl (fun s k => setLd k false s) (setSot h false s)

/-! ### Start of test -/

/-- A LOADED socket and its unit go to TESTING, and its LD line rises (R126, steps 3 and 4). -/
def testSocket (s : State) (k : SocketIx) : State :=
  s |> modUnit s.hsc.sockets[k].unit (fun r => { r with state := .testing })
    |> modSocket k (fun r => { r with state := .testing })
    |> setLd k true

/-- The LOADED sockets of a head. -/
def loadedSockets (h : HeadIx) (s : State) : List SocketIx :=
  (socketsOf h).filter (fun k => s.hsc.sockets[k].state = .loaded)

/-- The start of test, in the step of the grant (R126). -/
def startTest (h : HeadIx) (s : State) : State :=
  let s1 := modHead h (fun r => { r with cycle := r.cycle + 1, sot := some s.now }) s
  let s2 := setSot h true ((loadedSockets h s1).foldl testSocket s1)
  modHead h (fun r => { r with
    state := .test
    test := startTimer s.ltc.params.testTimeout s
    credit := if s.rcu.mode = .single then false else r.credit }) s2

/-- The zone is granted to its head, which starts its test (R126, R137). -/
def grantHead (h : HeadIx) (s : State) : State :=
  s |> modZone h (fun z => { z with holder := .head, head := false }) |> startTest h

/-- The credit of a head counts as present (R127). -/
def creditPresent (h : HeadIx) (s : State) : Bool := s.rcu.mode = .continuous || s.hsc.heads[h].credit

/-- A head in START_WAIT asks for its zone while the run state is RUN and its credit is present (R126, R137). -/
def requestHead (h : HeadIx) (s : State) : State :=
  if s.hsc.heads[h].state = .startWait ∧ s.rcu.run = .run ∧ creditPresent h s then
    match s.zar[h].holder with
    | .none => grantHead h s
    | .head => s
    | _ => modZone h (fun z => { z with head := true }) s
  else s

/-! ### Fill timer -/

/-- The fill timer starts with the lot's fill timeout; a timeout of 0 leaves it stopped (R124). -/
def startFill (h : HeadIx) (s : State) : State :=
  let t := if s.ltc.params.fillTimeout = 0 then .stopped else startTimer s.ltc.params.fillTimeout s
  modHead h (fun r => { r with fill := t, fillExpired := false }) s

/-- The fill timer is stopped and fill-expired cleared (R124). -/
def stopFill (h : HeadIx) (s : State) : State :=
  modHead h (fun r => { r with fill := .stopped, fillExpired := false }) s

/-- A head enters FILL from START_WAIT or TEST; its fill timer starts if a socket is LOADED (R124). -/
def enterFill (h : HeadIx) (s : State) : State :=
  let s := modHead h (fun r => { r with state := .fill }) s
  if anySocket h .loaded s then startFill h s else s

/-- A socket of the head has become LOADED: the first one of a head in FILL starts the fill timer (R115, R124). -/
def loadedInHead (h : HeadIx) (s : State) : State :=
  if s.hsc.heads[h].state = .fill ∧ countSockets h .loaded s = 1 then startFill h s else s

/-! ### Eviction and release of a reservation -/

/-- Changes a socket by the end of a transfer or an eviction. Table 7-1 gives a TESTING socket neither: it leaves TESTING
with its head's exit from TEST alone (R128), so it stays as it is here (DEDUCED, log entry 39). -/
def moveSocket (k : SocketIx) (f : SocketRec → SocketRec) (s : State) : State :=
  if s.hsc.sockets[k].state = .testing then s else modSocket k f s

/-- Eviction: the unit becomes EVICT and its LOADED socket DONE (R119). -/
def evict (k : SocketIx) (s : State) : State :=
  s |> modUnit s.hsc.sockets[k].unit (fun r => { r with state := .evict })
    |> moveSocket k (fun r => { r with state := .done })

/-- A socket becomes EMPTY, or OFF if it is off-pending, and holds no unit (R115, R116, R120). -/
def SocketRec.vacate (r : SocketRec) : SocketRec :=
  { r with state := if r.offPending.isSome then .off else .empty, unit := 0 }

/-- A socket reservation is released without completion (R115). -/
def releaseSocket (k : SocketIx) (s : State) : State :=
  if s.hsc.sockets[k].state = .reserved then modSocket k SocketRec.vacate s else s

/-! ### Start condition and head states -/

/-- No creation is pending and no unit of the lot is SOAKING, READY, STAGED, ON_LOAD or RETURN_WAIT (R125, case c). -/
def drainClear (s : State) : Bool :=
  s.upt.pendingCreations = 0 && s.upt.units.all (fun r =>
    r.state ≠ .soaking && r.state ≠ .ready && r.state ≠ .staged && r.state ≠ .onLoad && r.state ≠ .returnWait)

/-- Some active socket of the head is LOADED. -/
def activeLoaded (h : HeadIx) (s : State) : Bool :=
  (socketsOf h).any (fun k => s.hsc.sockets[k].active && s.hsc.sockets[k].state = .loaded)

/-- Every active socket of the head is LOADED (R125, case a). -/
def headFull (h : HeadIx) (s : State) : Bool :=
  (socketsOf h).all (fun k => !s.hsc.sockets[k].active || s.hsc.sockets[k].state = .loaded)

/-- Some socket of the head is active. -/
def anyActive (h : HeadIx) (s : State) : Bool := (socketsOf h).any (fun k => s.hsc.sockets[k].active)

/-- The start condition of a head (R125). -/
def startCondition (h : HeadIx) (s : State) : Bool :=
  s.hsc.heads[h].state = .fill && lotTesting s && activeLoaded h s
    && !anySocket h .reserved s && !anySocket h .done s
    && (headFull h s || s.hsc.heads[h].fillExpired || (s.ltc.state = .draining && drainClear s))

/-- A head whose start condition holds enters START_WAIT, leaving FILL, and asks for its zone (R125, R126). -/
def startIfReady (h : HeadIx) (s : State) : State :=
  if startCondition h s then
    s |> modHead h (fun r => { r with state := .startWait, fill := .stopped, fillExpired := false }) |> requestHead h
  else s

/-- A head enters FILL from IDLE in an active lot with an active socket (R123). -/
def idleToFill (h : HeadIx) (s : State) : State :=
  if s.hsc.heads[h].state = .idle ∧ lotActive s ∧ anyActive h s then modHead h (fun r => { r with state := .fill }) s
  else s

/-- A head in FILL enters IDLE when the lot enters DRAINED, or when it has no active socket and none RESERVED, LOADED
or DONE (R123). -/
def fillToIdle (h : HeadIx) (s : State) : State :=
  if s.hsc.heads[h].state = .fill ∧ (s.ltc.state = .drained ∨ (anyActive h s = false ∧ anySocket h .reserved s = false
      ∧ anySocket h .loaded s = false ∧ anySocket h .done s = false)) then
    s |> stopFill h |> modHead h (fun r => { r with state := .idle })
  else s

/-- A head still in FILL with no LOADED socket has its fill timer stopped and fill-expired cleared (R124). -/
def fillUnloaded (h : HeadIx) (s : State) : State :=
  if s.hsc.heads[h].state = .fill ∧ anySocket h .loaded s = false then stopFill h s else s

/-- A head in START_WAIT returns to FILL when a socket of it becomes DONE by eviction, withdrawing its request
(R126). -/
def startWaitBack (h : HeadIx) (s : State) : State :=
  if s.hsc.heads[h].state = .startWait ∧ anySocket h .done s then s |> withdrawHead h |> enterFill h else s

/-- What HSC does with one head after a change that can bear on it (R123 to R126). -/
def reviewHead (h : HeadIx) (s : State) : State :=
  s |> idleToFill h |> startWaitBack h |> fillToIdle h |> fillUnloaded h |> startIfReady h

/-- What the review of a head depends on: its sockets, fill-expired, the lot state, and the report of case c. -/
def headView (h : HeadIx) (s : State) : List (SocketState × Option OffReason) × Bool × LotState × Bool :=
  ((socketsOf h).map (fun k => (s.hsc.sockets[k].state, s.hsc.sockets[k].offPending)),
    s.hsc.heads[h].fillExpired, s.ltc.state, s.ltc.state = .draining && drainClear s)

/-- The heads for which something they depend on differs between two states are reviewed (R123, R125). -/
def reviewChanged (before s : State) : State :=
  allHeads.foldl (fun s h => if headView h before = headView h s then s else reviewHead h s) s

/-! ### Retest impossible -/

/-- No active socket lies outside the unit's excluded set (R70). -/
def noSocketLeft (r : UnitRec) (s : State) : Bool :=
  allSockets.all (fun k => !s.hsc.sockets[k].active || r.excludes k)

/-- The record of an examined unit keeps, while the unit is STAGED, whether a socket is left for it (R70). -/
def UnitRec.examined (s : State) (r : UnitRec) : UnitRec := { r with noSocket := r.state = .staged && noSocketLeft r s }

/-- A unit is examined: one routed RETEST with no active socket outside its excluded set is rerouted, and a STAGED one
with none left is to be placed back (R70). -/
def examineRetest (u : UnitNo) (s : State) : State :=
  match findUnit u s with
  | some r =>
    let s' := modUnit u (UnitRec.examined s) s
    if r.route = some .retest ∧ noSocketLeft r s then reroute u s' else s'
  | none => s

/-- The units that a change of the active set makes the planner examine (R70). -/
def retestWatched (s : State) : List UnitNo :=
  (s.upt.units.filter (fun r => r.state = .soaking || r.state = .ready || r.state = .staged)).map UnitRec.no

/-- At each change of the active set the planner examines its RETEST and STAGED units (R70, R114). -/
def examineActive (before s : State) : State :=
  if activeSet before = activeSet s then s else (retestWatched s).foldl (fun s u => examineRetest u s) s

/-- What follows, in the step, from the changes between two states: the retest check and the review of the heads. -/
def headsFollow (before s : State) : State := s |> examineActive before |> reviewChanged before

end Sys2Proof.Machine
end

