-- ==== Sys2Proof/Machine/Units.lean ====
section
/-! DEFINITION. The unit and place table's own events: soak positions (R3, R4), table room (R8), the ready list (R59),
soak arrival and READY (R11, R12), creation (R9), retirement (R16), and the cancellation of orders with the loss of a
unit (R71, R14). -/
namespace Sys2Proof.Machine

/-- Changes the planner. -/
def modXpl (f : Xpl → Xpl) (s : State) : State := { s with xpl := f s.xpl }

/-- Changes the unit and place table. -/
def modUpt (f : Upt → Upt) (s : State) : State := { s with upt := f s.upt }

/-! ### Soak positions -/

/-- The number of FREE soak positions. -/
def freeCount (s : State) : Nat := s.upt.soak.toList.countP (fun p => p.state = .free)

/-- The FREE soak position of lowest index. -/
def lowestFree (s : State) : Option SoakIx := (List.finRange 64).find? (fun p => s.upt.soak[p].state = .free)

/-- The retest reserve, taken as 0 while no lot is open (R4). -/
def retestReserve (s : State) : Nat := if s.ltc.state = .idle then 0 else s.ltc.params.retestReserve

/-- UPT's answer to a request for a soak position: the position with the state in which it is RESERVED for the unit, or
none (R4). -/
def reserveSoak (purpose : Purpose) (u : UnitNo) (s : State) : Option (SoakIx × State) :=
  if purpose = .fresh ∧ freeCount s ≤ retestReserve s then none
  else
    match lowestFree s with
    | some p => some (p, modSoak p (fun r => { r with state := .reserved, reservedFor := u }) s)
    | none => none

/-- A soak reservation is released: RESERVED to FREE (Table 1-2). -/
def releaseSoak (p : SoakIx) (s : State) : State :=
  if s.upt.soak[p].state = .reserved then modSoak p (fun r => { r with state := .free, reservedFor := 0 }) s else s

/-- The number of input picks the planner may still plan (R7, R8). -/
def tableRoom (s : State) : Nat :=
  if s.upt.nextUnit = 0 then 0 else 128 - s.upt.units.length - s.upt.pendingCreations

/-! ### Ready list -/

/-- How old a ready sequence number is: the ready sequence less it, modulo 2^32 (R59). -/
def readyAge (r : UnitRec) (s : State) : Nat := (s.xpl.readySeq - r.readySeq).toNat

/-- Unit a stands before unit b in the ready list (R59). -/
def readyBefore (s : State) (a b : UnitRec) : Bool :=
  if a.route = some .retest then b.route ≠ some .retest || readyAge b s < readyAge a s
  else b.route ≠ some .retest && a.no.toNat < b.no.toNat

/-- The unit named stands before unit b. -/
def numberBefore (s : State) (b : UnitRec) (v : UnitNo) : Bool :=
  match findUnit v s with
  | some a => readyBefore s a b
  | none => false

/-- A READY unit without a final route and without a planned PICK joins the ready list at its rank (R59). -/
def addReady (u : UnitNo) (s : State) : State :=
  match findUnit u s with
  | some r =>
    if r.state = .ready ∧ r.hasFinal = false ∧ pickPlanned u s = false ∧ u ∉ s.xpl.readyList then
      modXpl (fun x => { x with
        readyList := x.readyList.takeWhile (numberBefore s r) ++ u :: x.readyList.dropWhile (numberBefore s r) }) s
    else s
  | none => s

/-- A unit becomes READY by expiry or arrival: the next ready sequence number, the retest check, and the ready list
(R59, R70). -/
def becomeReady (u : UnitNo) (s : State) : State :=
  s |> modUnit u (fun r => { r with state := .ready, readySeq := s.xpl.readySeq })
    |> modXpl (fun x => { x with readySeq := x.readySeq + 1 })
    |> examineRetest u
    |> addReady u

/-! ### Soak arrival -/

/-- State and soak target that the purpose of a placement gives (R11). -/
def arrival (purpose : Purpose) (r : UnitRec) (s : State) : UnitState × Nat :=
  match purpose with
  | .fresh => (.soaking, s.ltc.params.soakTime)
  | .retest => (.soaking, s.ltc.params.retestSoakTime)
  | .giveBack => (.ready, 0)
  | .realign => (if r.route = some .realignReject then .rejectWait else .ready, 0)

/-- A PLACE onto a soak position is done (R11, Table 1-2). -/
def arriveSoak (u : UnitNo) (p : SoakIx) (purpose : Purpose) (s : State) : State :=
  match findUnit u s with
  | some r =>
    let a := arrival purpose r s
    let s := s |> moveUnit u (.soak p)
      |> modSoak p (fun q => { q with state := .occupied, reservedFor := 0 })
      |> modUnit u (fun r => { r with
          state := a.1, soakStart := some s.now, soakTarget := a.2, target := none, noSocket := false })
    if a.1 ≠ .rejectWait ∧ a.2 = 0 then becomeReady u s else s
  | none => s

/-- A soaking unit's expiry has come (R12). -/
def soakExpired (r : UnitRec) (s : State) : Bool :=
  match r.state, r.soakStart with
  | .soaking, some t => r.soakTarget ≤ (s.now - t).toNat
  | _, _ => false

/-! ### Creation (R9) -/

/-- The PLACE of the load queue that is to place the unit of a nozzle. -/
def placeFor (n : NozzleIx) (s : State) : Option Order :=
  s.xpl.loadQueue.find? (fun o => o.kind = .place && o.nozzle = n)

/-- The target that a reservation gives its unit (R9). -/
def Reservation.target : Reservation → Option Target
  | .socket k => some (.socket k)
  | .soak p => some (.soak p)
  | _ => Option.none

/-- The record of a new unit (R9); one created in a PURGING lot takes the purge category (R74). -/
def newUnit (st : Side) (slot : InSlot) (n : NozzleIx) (s : State) : UnitRec :=
  { no := s.upt.nextUnit, lot := s.ltc.lot.getD 0, origin := { st := st, slot := slot }, state := .onLoad,
    place := some (.loadNozzle n), lastPlace := none, created := s.now, soakStart := none, soakTarget := 0,
    offset := none, clamped := false, voided := false, realigns := 0, attempts := [], excluded := 0,
    route := if s.ltc.state = .purging then some (purgeRoute s) else none
    target := (placeFor n s).bind (fun o => o.reservation.target)
    readySeq := 0 }

/-- The soak reservation of the trip names the new unit (R3). -/
def nameReservation (n : NozzleIx) (u : UnitNo) (s : State) : State :=
  match (placeFor n s).map Order.reservation with
  | some (.soak p) => modSoak p (fun q => { q with reservedFor := u }) s
  | _ => s

/-- A record is created by an input PICK that is done (R9); its pending creation ends with it. Which number a unit takes
when the next unit number is 0, as it can be for picks planned before number 4,294,967,295 was given, R7 does not say: the
record is numbered 0, and the next number becomes 1 (DESIGN CHOICE, log entry 33). -/
def createUnit (st : Side) (slot : InSlot) (n : NozzleIx) (s : State) : State :=
  let u := s.upt.nextUnit
  s |> nameReservation n u
    |> modUpt (fun t => { t with
        units := t.units ++ [newUnit st slot n s], nextUnit := t.nextUnit + 1
        pendingCreations := t.pendingCreations - 1 })
    |> setAt (.loadNozzle n) u
    |> modCounters (fun c => { c with created := satInc c.created })
    |> modQueue .load (List.map (fun o =>
        if o.kind = .place ∧ o.nozzle = n ∧ o.unit = .created then { o with unit := .unit u } else o))

/-- A pending creation ends without a record (R8). -/
def endCreation (s : State) : State := modUpt (fun t => { t with pendingCreations := t.pendingCreations - 1 }) s

/-! ### Retirement (R16) -/

/-- The lot counter of a destination (R16, R18). -/
def countRetired (r : UnitRec) (dest : Place) (s : State) : State :=
  match dest, r.route with
  | .chute, _ => modCounters (fun c => { c with chute := satInc c.chute }) s
  | _, some (.final c _) => countBinned c s
  | _, _ => s

/-- A record is retired (R16). -/
def retire (u : UnitNo) (dest : Place) (s : State) : State :=
  match findUnit u s with
  | some r => s |> appendLog r dest |> leaveSpot u |> countRetired r dest |> dropUnit u
  | none => s

/-! ### Cancellation (R71) -/

/-- Every reservation of an order that is removed without completion is released (R58, R71). -/
def releaseOrder (o : Order) (s : State) : State :=
  match o.reservation with
  | .none => s
  | .socket k => releaseSocket k s
  | .soak p => releaseSoak p s
  | .pocket st _ => s |> endOutPlace st false |> releaseLog o.unitNo
  | .log => releaseLog o.unitNo s

/-- Takes an order out of its queue and releases what it holds. -/
def dropOrder (g : Gantry) (o : Order) (s : State) : State := s |> removeOrder g o.id |> releaseOrder o

/-- The head kept with a load nozzle is forgotten or set (R71). -/
def setStageHead (n : NozzleIx) (h : Option HeadIx) (s : State) : State :=
  modXpl (fun x => { x with stageHead := x.stageHead.set n.val h }) s

/-- Changes the record of a unit that is not LOST. -/
def modHeld (u : UnitNo) (f : UnitRec → UnitRec) (s : State) : State :=
  modUnit u (fun r => if r.state = .lost then r else f r) s

/-- A nozzle leaves the mask of the INSPECT of the load queue; an INSPECT whose mask becomes empty is removed (R71). -/
def unmask (n : NozzleIx) (s : State) : State :=
  s |> modQueue .load (List.map (fun o =>
        if o.kind = .inspect then { o with mask := o.mask &&& ~~~(BitVec.twoPow 4 n.val) } else o))
    |> modQueue .load (List.filter (fun o => !(o.kind = .inspect && o.mask = 0)))

/-- The orders of a nozzle's PLACE in a queue. -/
def placesOf (g : Gantry) (n : NozzleIx) (s : State) : List Order :=
  (queue g s).filter (fun o => o.kind = .place && o.nozzle = n)

/-- The effect of a cancelled PICK on its unit and its source (R71). -/
def pickCancelled (g : Gantry) (o : Order) (s : State) : State :=
  match g, o.place with
  | .load, some (.input st _) => s |> endCreation |> endInputPick st .givenUp
  | .load, _ => s |> modHeld o.unitNo (fun r => { r with target := none }) |> addReady o.unitNo
  | .unload, _ => modHeld o.unitNo (fun r => { r with target := none }) s

/-- A PICK is removed undone: the PLACE of its nozzle goes with it, its nozzle leaves the INSPECT's mask, and its unit
takes the effect of R71. -/
def cancelPick (g : Gantry) (o : Order) (s : State) : State :=
  let s := (placesOf g o.nozzle s).foldl (fun s p => dropOrder g p s) (dropOrder g o s)
  let s := if g = .load then s |> unmask o.nozzle |> setStageHead o.nozzle none else s
  pickCancelled g o s

/-- The load queue still holds an INSPECT of the nozzle. -/
def inspectAhead (n : NozzleIx) (s : State) : Bool :=
  s.xpl.loadQueue.any (fun o => o.kind = .inspect && o.mask.getLsbD n.val)

/-- The unit's record has the state. -/
def unitIn (u : UnitNo) (st : UnitState) (s : State) : Bool := (findUnit u s).any (fun r => r.state = st)

/-- The effect of a cancelled load PLACE into a socket of head h on a unit that is picked or whose PICK is issued
(R71); a LOST unit is left as it is, and a unit that its PICK has not yet taken stays READY at its position. -/
def placeCancelled (n : NozzleIx) (u : UnitNo) (h : HeadIx) (s : State) : State :=
  if unitIn u .lost s then s
  else if unitIn u .staged s ∨ s.xpl.inspected then
    modHeld u (fun r => { r with state := .staged, target := some (.head h) }) s
  else if inspectAhead n s then
    s |> modHeld u (fun r => { r with target := none }) |> setStageHead n (some h)
  else modHeld u (fun r => { r with state := if r.state = .ready then .ready else .onLoad, target := none }) s

/-- The effect of a cancelled PLACE on its unit (R71). -/
def placeEffect (g : Gantry) (o : Order) (s : State) : State :=
  match g, o.placeSocket with
  | .load, some k => placeCancelled o.nozzle o.unitNo (headOf k) s
  | .load, none => modHeld o.unitNo (fun r =>
      { r with state := if r.state = .staged ∨ r.state = .returnWait then .onLoad else r.state, target := none }) s
  | .unload, _ => modHeld o.unitNo (fun r => { r with target := none }) s

/-- The PICK of a nozzle that is still QUEUED in a queue. -/
def queuedPick (g : Gantry) (n : NozzleIx) (s : State) : Option Order :=
  (queue g s).find? (fun o => o.kind = .pick && o.nozzle = n && o.status = .queued)

/-- A unit that is on a load nozzle, or is to be there, no longer waits for an INSPECT (R71, R112). -/
def inspectCancelledFor (s : State) (n : NozzleIx) : State :=
  let s := setStageHead n none s
  match (s.xpl.loadQueue.find? (fun o => o.kind = .pick && o.nozzle = n)).bind Order.unitNo? with
  | some u => modHeld u (fun r => { r with target := (match r.target with
      | some (.head _) => none
      | t => t) }) s
  | none => modHeld s.upt.loadNozzles[n] (fun r => { r with target := (match r.target with
      | some (.head _) => none
      | t => t) }) s

/-- The nozzles of an INSPECT's mask in ascending order. -/
def maskNozzles (m : BitVec 4) : List NozzleIx := allNozzles.filter (fun n => m.getLsbD n.val)

/-- An INSPECT is removed undone: the units that waited for it stay ON_LOAD with no target (R71). -/
def cancelInspect (o : Order) (s : State) : State :=
  (maskNozzles o.mask).foldl inspectCancelledFor (dropOrder .load o s)

/-- An order is removed undone, with the effects of cancellation (R71). -/
def cancelOrder (g : Gantry) (o : Order) (s : State) : State :=
  match o.kind with
  | .pick => cancelPick g o s
  | .inspect => cancelInspect o s
  | .place =>
    match queuedPick g o.nozzle s with
    | some p => cancelPick g p s
    | none => s |> dropOrder g o |> placeEffect g o
  | .park => dropOrder g o s

/-- An order of a queue by its id. -/
def findOrder (g : Gantry) (id : Nat) (s : State) : Option Order := (queue g s).find? (fun o => o.id = id)

/-- The order with an id is cancelled if it is still there and QUEUED (R71). -/
def cancelOne (g : Gantry) (s : State) (id : Nat) : State :=
  match findOrder g id s with
  | some o => if o.status = .queued then cancelOrder g o s else s
  | none => s

/-- What a cancellation does to the gantry: a head order that is gone ends the wait for its zone, and a gantry without
an order becomes IDLE (R97). -/
def afterCancel (g : Gantry) (before s : State) : State :=
  if (gsq g s).state = .zoneWait ∧ (headOrder g s).map Order.id ≠ (headOrder g before).map Order.id then
    s |> withdrawGantry g |> setGantry g .idle
  else if (gsq g s).state = .held ∧ queue g s = [] then setGantry g .idle s
  else s

/-- Every QUEUED order of a queue that meets a condition is cancelled (R71). R71 to R74 and R112 give the cancellations of
one step no order among themselves: they are made in queue order, which shows in the order of the STATION_SPENT or
OUT_SPENT of two stations spent by them (DESIGN CHOICE, log entry 22). -/
def cancelWhere (g : Gantry) (p : Order → Bool) (s : State) : State :=
  afterCancel g s ((((queue g s).filter p).map Order.id).foldl (cancelOne g) s)

/-! ### Loss (R14) -/

/-- The reservation named in the target of a unit that is lost is released (R14, step 3); a socket that its PLACE has
made JAMMED is no longer RESERVED and stays so. -/
def releaseTarget (t : Option Target) (s : State) : State :=
  match t with
  | some (.socket k) => releaseSocket k s
  | some (.soak p) => releaseSoak p s
  | _ => s

/-- A unit becomes LOST (R14). Its QUEUED orders are cancelled at once, as step 6, and not after the owners' effects with the
rest of R75: the OUT_SPENT of a cancelled output PLACE thus comes before the SOCKET_JAM of an unload PICK that found nothing
and before the UNIT_LOST of a later nozzle (DESIGN CHOICE, log entry 22). -/
def loseUnit (u : UnitNo) (s : State) : State :=
  match findUnit u s with
  | some r =>
    if r.state = .lost then s
    else
      s |> leaveSpot u
        |> modUnit u (fun r => { r with state := .lost, lastPlace := r.place, place := none, target := none })
        |> releaseTarget r.target
        |> modCounters (fun c => { c with lost := satInc c.lost })
        |> raise .unitLost (be32 u)
        |> unready u
        |> cancelWhere .load (fun o => o.unit = .unit u)
        |> cancelWhere .unload (fun o => o.unit = .unit u)
  | none => s

end Sys2Proof.Machine
end

