-- ==== Sys2Proof/Machine/Planning.lean ====
section
/-! DEFINITION. The transfer planner's choices: sockets for units (R60), estimates (R61, R62), the load trips (R63 to
R67), the unload trips (R68, R69) and the evaluation of a due gantry (R57). -/
namespace Sys2Proof.Machine

/-! ### Sockets for units (R60) -/

/-- A socket is eligible for a unit with the excluded set (R60). -/
def eligible (ex : BitVec 16) (s : State) (k : SocketIx) : Bool :=
  s.hsc.sockets[k].active && s.hsc.sockets[k].state = .empty && !ex.getLsbD k.val
    && s.hsc.heads[headOf k].state = .fill && !s.hsc.heads[headOf k].fillExpired

/-- The head with the most LOADED sockets among some heads, the first on a tie (R60). -/
def fullestHead (s : State) : List HeadIx → Option HeadIx
  | [] => none
  | h :: hs =>
    match fullestHead s hs with
    | none => some h
    | some b => if countSockets h .loaded s < countSockets b .loaded s then some b else some h

/-- The planner's choice of a socket for a unit with the excluded set (R60). -/
def chooseSocket (ex : BitVec 16) (s : State) : Option SocketIx :=
  match fullestHead s (allHeads.filter (fun h => (socketsOf h).any (eligible ex s))) with
  | some h => (socketsOf h).find? (eligible ex s)
  | none => none

/-- An EMPTY socket becomes RESERVED (R115). -/
def reserveSocket (k : SocketIx) (s : State) : State := modSocket k (fun r => { r with state := .reserved }) s

/-! ### Estimates (R61, R62) -/

/-- A value within 1 and 600,000. -/
def clampEst (e : Int) : Nat := if e < 1 then 1 else if 600000 < e then 600000 else e.toNat

/-- The estimate after a measured duration: one eighth of the difference, rounded up, then clamped (R61). -/
def nextEstimate (est d : Nat) : Nat := clampEst (est + ceilDiv ((d : Int) - est) 8)

/-- A capture at the EOT edge updates the head's estimate (R61). -/
def updateEstimate (h : HeadIx) (d : Nat) (s : State) : State :=
  modXpl (fun x => { x with estimates := x.estimates.set h.val (nextEstimate x.estimates[h] d) }) s

/-- The time to end of a head in TEST, none for another head (R62). -/
def timeToEnd (h : HeadIx) (s : State) : Option Nat :=
  match s.hsc.heads[h].state, s.hsc.heads[h].sot with
  | .test, some t => some (s.xpl.estimates[h] - (s.now - t).toNat)
  | _, _ => none

/-! ### Trips (R56) -/

/-- One unit of a trip: its nozzle, the source of its PICK if the trip picks it, and its PLACE if the trip has one. -/
structure Leg where
  nozzle : NozzleIx
  unit : OrderUnit
  source : Option Place
  dest : Option Place
  reservation : Reservation
  purpose : Option Purpose
deriving DecidableEq, Repr

/-- A QUEUED order with the fields that its kind does not use at none or 0. -/
def plainOrder (kind : OrderKind) : Order :=
  { id := 0, kind := kind, unit := .none, place := none, nozzle := 0, mask := 0, reservation := .none, purpose := none,
    status := .queued }

/-- The PICK of a leg; an input PICK names unit number 0, which is no unit (R54). -/
def Leg.pick (l : Leg) : List Order :=
  match l.source with
  | some p =>
    [{ plainOrder .pick with
        unit := (match l.unit with
          | .created => .none
          | u => u)
        place := some p, nozzle := l.nozzle }]
  | none => []

/-- The PLACE of a leg. -/
def Leg.place (l : Leg) : List Order :=
  match l.dest with
  | some p =>
    [{ plainOrder .place with
        unit := l.unit, place := some p, nozzle := l.nozzle, reservation := l.reservation, purpose := l.purpose }]
  | none => []

/-- The nozzles of the PICKs as a mask. -/
def pickMask (legs : List Leg) : BitVec 4 :=
  legs.foldl (fun m l => if l.source.isSome then m ||| BitVec.twoPow 4 l.nozzle.val else m) 0

/-- A trip: the PICKs, one INSPECT if it has one, the PLACEs (R56). -/
def tripOrders (inspect : Bool) (legs : List Leg) : List Order :=
  legs.flatMap Leg.pick ++ (if inspect then [{ plainOrder .inspect with mask := pickMask legs }] else [])
    ++ legs.flatMap Leg.place

/-- Serial numbers for the orders of a trip (log entry 12). -/
def numbered (first : Nat) : List Order → List Order
  | [] => []
  | o :: os => { o with id := first } :: numbered (first + 1) os

/-- The orders become the queue; a QUEUED PARK is removed first (R57). -/
def placeOrders (g : Gantry) (orders : List Order) (s : State) : State :=
  s |> modQueue g (fun _ => numbered s.xpl.nextOrderId orders)
    |> modXpl (fun x => { x with nextOrderId := x.nextOrderId + orders.length })

/-- A trip is placed into the load queue; the staging timer is stopped (R67). -/
def placeLoadTrip (kind : TripKind) (inspect : Bool) (legs : List Leg) (s : State) : State :=
  s |> placeOrders .load (tripOrders inspect legs)
    |> modXpl (fun x => { x with
        tripKind := kind, inspected := false, staging := none, stageHead := Vector.replicate 4 none })

/-- A PARK alone is planned when the parked flag is clear and none is queued (R57). -/
def planPark (g : Gantry) (s : State) : State :=
  if parked g s = false ∧ queue g s = [] then placeOrders g [plainOrder .park] s else s

/-- The free nozzles of a gantry: they hold no unit, and no planned PICK is to fill them (R56). -/
def freeNozzles (g : Gantry) (s : State) : List NozzleIx :=
  allNozzles.filter (fun n => nozzleUnit g n s = 0 && (queue g s).all (fun o => !(o.kind = .pick && o.nozzle = n)))

/-- Sets a unit's target. -/
def setTarget (u : UnitNo) (t : Option Target) (s : State) : State := modUnit u (fun r => { r with target := t }) s

/-- A leg that puts a unit down in a socket, with the socket RESERVED and the target set. -/
def socketLeg (n : NozzleIx) (u : UnitNo) (source : Option Place) (k : SocketIx) (s : State) : Leg × State :=
  ({ nozzle := n, unit := .unit u, source := source, dest := some (.socket k), reservation := .socket k,
     purpose := none },
   s |> reserveSocket k |> setTarget u (some (.socket k)))

/-- A leg that puts a unit down on the soak plate, if a position is granted. -/
def soakLeg (n : NozzleIx) (u : UnitNo) (source : Option Place) (purpose : Purpose) (s : State) :
    Option (Leg × State) :=
  match reserveSoak purpose u s with
  | some (p, s) =>
    some ({ nozzle := n, unit := .unit u, source := source, dest := some (.soak p), reservation := .soak p,
            purpose := some purpose },
          setTarget u (some (.soak p)) s)
  | none => none

/-! ### Load trips -/

/-- The purpose with which an ON_LOAD unit without target goes back to the plate (R64). -/
def returnPurpose (r : UnitRec) (s : State) : Purpose :=
  if r.soakStart = none ∧ 0 < s.ltc.params.soakTime ∧ lotTesting s then .fresh else .giveBack

/-- The placement of a STAGED unit by the nozzle trip (R64). One that an earlier examination left without a socket is
placed back (R70); one with a socket left but none eligible stays on the nozzle and is examined now, so that what this
examination finds is for the next nozzle trip (R64, R70, log entry 18). -/
def stagedLeg (n : NozzleIx) (r : UnitRec) (s : State) : Option Leg × State :=
  if r.hasFinal ∨ s.ltc.state = .purging ∨ r.noSocket then
    match soakLeg n r.no none .giveBack s with
    | some (l, s) => (some l, s)
    | none => (none, s)
  else
    match chooseSocket r.excluded s with
    | some k => ((socketLeg n r.no none k s).map some id)
    | none => (none, examineRetest r.no s)

/-- The placement of the unit on one load nozzle by the nozzle trip (R64). -/
def nozzleLeg (n : NozzleIx) (s : State) : Option Leg × State :=
  match findUnit (nozzleUnit .load n s) s with
  | none => (none, s)
  | some r =>
    if r.state = .staged then stagedLeg n r s
    else if r.state = .returnWait ∨ (r.state = .onLoad ∧ r.target = none) then
      match soakLeg n r.no none (if r.state = .returnWait then .giveBack else returnPurpose r s) s with
      | some (l, s) => (some l, s)
      | none => (none, s)
    else (none, s)

/-- The nozzle trip over some nozzles in turn (R64). -/
def nozzleLegs (leg : NozzleIx → State → Option Leg × State) : List NozzleIx → State → List Leg × State
  | [], s => ([], s)
  | n :: ns, s =>
    match leg n s with
    | (some l, s) => ((nozzleLegs leg ns s).map (l :: ·) id)
    | (none, s) => nozzleLegs leg ns s

/-- A unit on the soak plate as the source of a PICK. -/
def soakSource (r : UnitRec) : Option Place := r.place.map Spot.toPlace

/-- The walk of the ready list for a socket trip: up to so many units, each with a free nozzle and an eligible socket
(R65). -/
def socketLegs : List UnitNo → List NozzleIx → Nat → State → List Leg × State
  | u :: us, n :: ns, room + 1, s =>
    match (findUnit u s).bind (fun r => (chooseSocket r.excluded s).map (fun k => (r, k))) with
    | some (r, k) =>
      let (l, s) := socketLeg n u (soakSource r) k s
      (socketLegs us ns room (unready u s)).map (l :: ·) id
    | none => socketLegs us (n :: ns) (room + 1) s
  | _, _, _, s => ([], s)

/-- The destination of one input pick: a soak position with purpose fresh, or under soak bypass a socket (R66,
step 1). -/
def inputDestination (s : State) : Option (Place × Reservation × Option Purpose × State) :=
  if 0 < s.ltc.params.soakTime then
    (reserveSoak .fresh 0 s).map (fun (p, s) => (.soak p, .soak p, some .fresh, s))
  else (chooseSocket 0 s).map (fun k => (.socket k, .socket k, none, reserveSocket k s))

/-- One pick after another for an input trip (R66). The pending creation begins as the pick is planned. -/
def inputLegs : List NozzleIx → Nat → State → List Leg × State
  | n :: ns, limit + 1, s =>
    if tableRoom s = 0 then ([], s)
    else
      match inputDestination s with
      | none => ([], s)
      | some (dest, res, purpose, s1) =>
        match planInputPick (modUpt (fun t => { t with pendingCreations := t.pendingCreations + 1 }) s1) with
        | none => ([], s)
        | some (st, slot, s2) =>
          let l : Leg :=
            { nozzle := n, unit := .created, source := some (.input st slot), dest := some dest, reservation := res,
              purpose := purpose }
          (inputLegs ns limit s2).map (l :: ·) id
  | _, _, s => ([], s)

/-- The current input station is ACTIVE. -/
def feedActive (s : State) : Bool :=
  match s.fsc.current with
  | some st => (inStation st s).state = .active
  | none => false

/-- The input trip (R66). -/
def inputTrip (s : State) : Option State :=
  if s.ltc.state = .running ∧ feedActive s then
    let bypass : Bool := s.ltc.params.soakTime = 0
    match inputLegs (freeNozzles .load s) (if bypass then 3 else 4) s with
    | ([], _) => none
    | (legs, s) => some (placeLoadTrip (if bypass then .bypass else .input) bypass legs s)
  else none

/-- Among the heads in TEST the one with the least time to end, the first on a tie, with that time (R67). -/
def soonestHead (s : State) : List HeadIx → Option (HeadIx × Nat)
  | [] => none
  | h :: hs =>
    match timeToEnd h s, soonestHead s hs with
    | some t, some (b, tb) => if tb < t then some (b, tb) else some (h, t)
    | some t, none => some (h, t)
    | none, r => r

/-- The unit has an active socket outside its excluded set in the head (R67). -/
def headSuits (h : HeadIx) (r : UnitRec) (s : State) : Bool :=
  (socketsOf h).any (fun k => s.hsc.sockets[k].active && !r.excludes k)

/-- The walk of the ready list for a staging trip to head h; each unit considered is examined first (R67, R70). -/
def stagingLegs (h : HeadIx) : List UnitNo → List NozzleIx → State → List Leg × State
  | u :: us, n :: ns, s =>
    let s := examineRetest u s
    match findUnit u s with
    | some r =>
      if r.hasFinal = false ∧ headSuits h r s then
        let l : Leg :=
          { nozzle := n, unit := .unit u, source := soakSource r, dest := none, reservation := .none, purpose := none }
        (stagingLegs h us ns (s |> setTarget u (some (.head h)) |> unready u)).map (l :: ·) id
      else stagingLegs h us (n :: ns) s
    | none => stagingLegs h us (n :: ns) s
  | _, _, s => ([], s)

/-- No socket is eligible for any unit in the ready list (R67). -/
def noneEligible (s : State) : Bool :=
  s.xpl.readyList.all (fun u =>
    match findUnit u s with
    | some r => allSockets.all (fun k => !eligible r.excluded s k)
    | none => true)

/-- The instant at which a head's time to end equals the stage horizon: SOT time + est - H (R67). -/
def stagingInstant (h : HeadIx) (s : State) : Time :=
  s.hsc.heads[h].sot.getD 0 + BitVec.ofNat 32 s.xpl.estimates[h] - BitVec.ofNat 32 s.ltc.params.stageHorizon

/-- The staging trip, or the start of the staging timer (R67): the state, and whether a trip was planned. -/
def stagingTrip (s : State) : Bool × State :=
  if lotTesting s ∧ 0 < s.ltc.params.stageHorizon ∧ noneEligible s then
    match soonestHead s allHeads with
    | none => (false, s)
    | some (h, t) =>
      if t ≤ s.ltc.params.stageHorizon then
        match stagingLegs h s.xpl.readyList (freeNozzles .load s) s with
        | ([], s) => (false, s)
        | (legs, s) => (true, placeLoadTrip .staging true legs s)
      else (false, modXpl (fun x => { x with staging := some (stagingInstant h s) }) s)
  else (false, s)

/-- The load gantry's trip choice: the first trip that plans an order (R63). -/
def planLoad (s : State) : State :=
  match nozzleLegs nozzleLeg allNozzles s with
  | (l :: ls, s) => placeLoadTrip .nozzle false (l :: ls) s
  | ([], s) =>
    match (if lotTesting s then socketLegs s.xpl.readyList (freeNozzles .load s) 3 s else ([], s)) with
    | (l :: ls, s) => placeLoadTrip .socket true (l :: ls) s
    | ([], s) =>
      match inputTrip s with
      | some s => s
      | none =>
        match stagingTrip s with
        | (true, s) => s
        | (false, s) => planPark .load s

/-! ### Unload trips -/

/-- A leg to an output pocket of a pair: the log entry first, then the pocket (R152). -/
def pocketLeg (n : NozzleIx) (u : UnitNo) (source : Option Place) (p : PairIx) (s : State) : Option (Leg × State) :=
  match reserveLog u s with
  | none => none
  | some s =>
    (takePocket p s).map (fun (st, pocket, s) =>
      ({ nozzle := n, unit := .unit u, source := source, dest := some (.output st pocket),
         reservation := .pocket st pocket, purpose := none }, s))

/-- A leg to the chute: a log entry alone (R154). -/
def chuteLeg (n : NozzleIx) (u : UnitNo) (source : Option Place) (s : State) : Option (Leg × State) :=
  (reserveLog u s).map (fun s =>
    ({ nozzle := n, unit := .unit u, source := source, dest := some .chute, reservation := .log, purpose := none }, s))

/-- The leg to the destination that a unit's route gives, if it can accept the unit (R69). -/
def unloadLeg (n : NozzleIx) (r : UnitRec) (source : Option Place) (s : State) : Option (Leg × State) :=
  match r.route with
  | some (.final c _) =>
    match s.srt.categories[c] with
    | .pair p => pocketLeg n r.no source p s
    | .chute => chuteLeg n r.no source s
    | .unmapped => none
  | some .realignReject => chuteLeg n r.no source s
  | some .retest => soakLeg n r.no source (if r.state = .evict then .giveBack else .retest) s
  | none => soakLeg n r.no source .giveBack s

/-- The placement of the unit on one unload nozzle by the unload nozzle trip (R68). -/
def unloadNozzleLeg (n : NozzleIx) (s : State) : Option Leg × State :=
  match findUnit (nozzleUnit .unload n s) s with
  | none => (none, s)
  | some r =>
    match unloadLeg n r none s with
    | some (l, s) => (some l, s)
    | none => (none, s)

/-- How far back a head's latest capture lies; an absent one lies furthest back (R129). -/
def captureAge (h : HeadIx) (s : State) : Nat :=
  match s.hsc.heads[h].capture with
  | some t => (s.now - t).toNat
  | none => 2 ^ 32

/-- A head joins a list of heads ordered by capture, before the first that lies less far back. -/
def insertHead (s : State) (h : HeadIx) : List HeadIx → List HeadIx
  | [] => [h]
  | b :: bs => if captureAge b s < captureAge h s then h :: b :: bs else b :: insertHead s h bs

/-- The heads in the order in which their DONE sockets are taken (R68, R129). -/
def headsByCapture (s : State) : List HeadIx := allHeads.foldl (fun l h => insertHead s h l) []

/-- The units in DONE sockets in pickup order (R68). -/
def doneUnits (s : State) : List UnitNo :=
  ((headsByCapture s).flatMap socketsOf).filterMap (fun k =>
    if s.hsc.sockets[k].state = .done then some s.hsc.sockets[k].unit else none)

/-- The units on the soak plate with a final route and no PICK planned, by ascending position (R68). -/
def plateUnits (s : State) : List UnitNo :=
  (List.finRange 64).filterMap (fun p =>
    match findUnit s.upt.soak[p].unit s with
    | some r => if r.hasFinal ∧ pickPlanned r.no s = false then some r.no else none
    | none => none)

/-- The pickup trip over the candidates: each with a free nozzle and a destination that can accept it (R68). -/
def pickupLegs : List UnitNo → List NozzleIx → State → List Leg × State
  | u :: us, n :: ns, s =>
    match (findUnit u s).bind (fun r => unloadLeg n r (r.place.map Spot.toPlace) s) with
    | some (l, s) => (pickupLegs us ns s).map (l :: ·) id
    | none => pickupLegs us (n :: ns) s
  | _, _, s => ([], s)

/-- The unload gantry's trip choice (R68). -/
def planUnload (s : State) : State :=
  match nozzleLegs unloadNozzleLeg allNozzles s with
  | (l :: ls, s) => placeOrders .unload (tripOrders false (l :: ls)) s
  | ([], s) =>
    match pickupLegs (doneUnits s ++ plateUnits s) (freeNozzles .unload s) s with
    | (l :: ls, s) => placeOrders .unload (tripOrders false (l :: ls)) s
    | ([], s) => planPark .unload s

/-! ### Evaluation (R57) -/

/-- The queue is empty or holds only a QUEUED PARK. -/
def queueOpen (g : Gantry) (s : State) : Bool :=
  match queue g s with
  | [] => true
  | [o] => o.kind = .park && o.status = .queued
  | _ => false

/-- The gantry's trip choice is to be evaluated (R57). -/
def due (g : Gantry) (s : State) : Bool :=
  queueOpen g s && (gsq g s).state ≠ .fault && s.rcu.run = .run && lotActive s

/-- The trip choice of a gantry. -/
def plan (g : Gantry) (s : State) : State :=
  match g with
  | .load => planLoad s
  | .unload => planUnload s

/-- A due gantry is evaluated. -/
def evaluate (g : Gantry) (s : State) : State := if due g s then plan g s else s

/-- Both gantries are evaluated; where one event makes both due, either may be made first (R57, log entry 5). -/
def evaluateBoth (s : State) : State :=
  if due .load s ∧ due .unload s then inEitherOrder (evaluate .load) (evaluate .unload) s
  else s |> evaluate .load |> evaluate .unload

end Sys2Proof.Machine
end

