-- ==== Sys2Proof/Machine/Motion.lean ====
section
/-! DEFINITION. What moves the gantries inside a step: the entry to HOLD (R161), the zone arbiter's requests and
releases (R137, R138), the issue attempt (R95 to R98) with the divert (R90 to R92), and the planning and issuing that
closes a step (R57, R95). -/
namespace Sys2Proof.Machine

/-- Changes the run control unit. -/
def modRcu (f : Rcu → Rcu) (s : State) : State := { s with rcu := f s.rcu }

/-! ### The run state leaves RUN -/

/-- A gantry in ZONE_WAIT becomes HELD (R97). -/
def stopWaiting (g : Gantry) (s : State) : State :=
  if (gsq g s).state = .zoneWait then setGantry g .held s else s

/-- Every head withdraws its standing request (R126). -/
def withdrawHeads (s : State) : State := { s with zar := s.zar.map (fun z => { z with head := false }) }

/-- A zone with its holder and without a standing request. -/
def Zone.quiet (z : Zone) : Zone := { z with head := false, unload := false, load := false }

/-- Every waiting request is withdrawn: the gantries' by R97 and the heads' by R126 (R141, R142). -/
def withdrawAll (s : State) : State := { s with zar := s.zar.map Zone.quiet }

/-- What the neighbours do when the run state leaves RUN: waiting requests are withdrawn and timers pause (R97, R126,
R133, R142). -/
def leaveRun (s : State) : State :=
  s |> stopWaiting .load |> stopWaiting .unload |> withdrawAll |> pauseTimers

/-- An entry to HOLD: the causes, the settle timer stopped, HOLD_ENTERED with the causes byte and what follows it, and
the neighbours (R161). -/
def enterHold (causes : HoldCauses) (arg : List Byte) (s : State) : State :=
  s |> modRcu (fun r => { r with run := .hold, causes := causes, settle := none })
    |> raise .holdEntered (n8 causes.code ++ arg)
    |> leaveRun

/-! ### Zones -/

/-- A gantry as holder of a zone (R136). -/
def gantryHolder : Gantry → Holder
  | .load => .load
  | .unload => .unload

/-- Sets a gantry's request for a zone standing. -/
def Zone.wait (g : Gantry) (z : Zone) : Zone :=
  match g with
  | .load => { z with load := true }
  | .unload => { z with unload := true }

/-- The zone is granted to a gantry: it becomes the holder and its request is cleared (R137, R138). -/
def Zone.grant (g : Gantry) (z : Zone) : Zone :=
  match g with
  | .load => { z with holder := .load, load := false }
  | .unload => { z with holder := .unload, unload := false }

/-- The request of a gantry for a zone: whether it is granted, and the state (R137). -/
def requestZone (g : Gantry) (z : HeadIx) (s : State) : Bool × State :=
  if s.zar[z].holder = .none ∨ s.zar[z].holder = gantryHolder g then (true, modZone z (Zone.grant g) s)
  else (false, modZone z (Zone.wait g) s)

/-! ### Check 5: send -/

/-- The height class of an order (R100). -/
def heightClass (o : Order) : Nat :=
  match o.kind, o.place with
  | .inspect, _ => 0
  | .park, _ => 0
  | _, some (.soak _) => 1
  | _, some (.socket _) => 2
  | _, some .chute => 3
  | _, _ => 0

/-- The payload of an ORDER (Table 6-2). -/
def orderPayload (o : Order) (x y : Int) : List Byte :=
  n8 o.kind.code
    ++ n8 (if o.kind = .pick ∨ o.kind = .place then o.nozzle.val else 0)
    ++ n24 x.toNat ++ n24 y.toNat ++ n8 (heightClass o)
    ++ n8 (if o.kind = .inspect then o.mask.toNat else 0)

/-- The issue tag after t: 255 is followed by 1 (R98). -/
def nextTag (t : Byte) : Byte := if t = 255 then 1 else t + 1

/-- The send of an order with its counts (R98, check 5). -/
def sendOrder (g : Gantry) (o : Order) (counts : Int × Int) (s : State) : State :=
  let tag := nextTag (gsq g s).tag
  let s := s
    |> modGsq g (fun q => { q with
        state := .inFlight, tag := tag, timer := some (s.now + BitVec.ofNat 32 s.rcu.driveTimeout)
        lastOrder := some { kind := 0x21, tag := tag, payload := orderPayload o counts.1 counts.2 } })
    |> setStatus g o.id .issued
  if o.kind = .park then s else setParked g false s

/-- Check 4 and the send of an order that is not corrected (R98). -/
def sendPlain (g : Gantry) (o : Order) (s : State) : State := sendOrder g o (orderCounts g o s) s

/-! ### Releases -/

/-- The zone becomes free, and is granted to the waiting head or else to the waiting unload gantry, which goes on with
its order (R138). -/
def releaseFirst (z : HeadIx) (s : State) : State :=
  let s := modZone z (fun r => { r with holder := .none }) s
  if s.zar[z].head then grantHead z s
  else if s.zar[z].unload then
    let s := modZone z (Zone.grant .unload) s
    match headOrder .unload s with
    | some o => sendPlain .unload o s
    | none => s
  else s

/-- The load gantry releases a zone; where it does not hold the zone nothing changes (R138). -/
def releaseLoad (z : HeadIx) (s : State) : State := if s.zar[z].holder = .load then releaseFirst z s else s

/-! ### Check 2: hold points (R169) -/

/-- The pass grant of a gantry. -/
def passGrant (g : Gantry) (s : State) : Option Nat :=
  match g with
  | .load => s.rcu.grantLoad
  | .unload => s.rcu.grantUnload

/-- Sets the pass grant of a gantry. -/
def setGrant (g : Gantry) (v : Option Nat) (s : State) : State :=
  match g with
  | .load => modRcu (fun r => { r with grantLoad := v }) s
  | .unload => modRcu (fun r => { r with grantUnload := v }) s

/-- Records the held hold-point order of a gantry. -/
def setHeld (g : Gantry) (v : Option Nat) (s : State) : State :=
  match g with
  | .load => modRcu (fun r => { r with heldLoad := v }) s
  | .unload => modRcu (fun r => { r with heldUnload := v }) s

/-- The place an order offers: source or destination, none for INSPECT and PARK (R96). -/
def Order.offeredPlace (o : Order) : Option Place :=
  match o.kind with
  | .pick => o.place
  | .place => o.place
  | _ => none

/-- The unit number an order offers, none for INSPECT and PARK; an input PICK offers 0 (R96). -/
def Order.offeredUnit (o : Order) : Option UnitNo :=
  match o.kind with
  | .pick => some o.unitNo
  | .place => some o.unitNo
  | _ => none

/-- An enabled entry matches the order (R169). -/
def HoldPoint.matchesOrder (o : Order) (e : HoldPoint) : Bool :=
  e.enabled &&
    match e.what with
    | .none => false
    | .place c => o.offeredPlace.map Place.code = some c
    | .unit u => o.offeredUnit = some u

/-- The lowest matching entry (R169). -/
def matchingEntry (o : Order) (s : State) : Option (Fin 4) :=
  (List.finRange 4).find? (fun i => s.rcu.holdPoints[i].matchesOrder o)

/-- The argument of HOLD_ENTERED after the causes byte at a match (R161, R177). -/
def matchArg (e : Fin 4) (g : Gantry) (o : Order) : List Byte :=
  n8 e.val ++ n8 (gantryCode g) ++ n8 o.kind.code ++ placeField o.offeredPlace ++ be32 (o.offeredUnit.getD 0)

/-- Check 2: whether the order passes, and the state (R96, R169). -/
def checkHoldPoint (g : Gantry) (o : Order) (s : State) : Bool × State :=
  if passGrant g s = some o.id then (true, setGrant g none s)
  else
    let s := setGrant g none s
    match matchingEntry o s with
    | none => (true, s)
    | some e =>
      (false,
        s |> setHeld g (some o.id)
          |> enterHold { HoldCauses.none with holdPoint := true } (matchArg e g o)
          |> setGantry g .held)

/-- Checks 1 to 3 of an issue attempt for the head order: whether the attempt goes on with check 4, and the state (R96,
R97). -/
def checksBefore (g : Gantry) (o : Order) (s : State) : Bool × State :=
  if s.rcu.run ≠ .run then (false, setGantry g .held s)
  else
    match checkHoldPoint g o s with
    | (false, s) => (false, s)
    | (true, s) =>
      match o.zone with
      | none => (true, s)
      | some z =>
        match requestZone g z s with
        | (true, s) => (true, s)
        | (false, s) => (false, setGantry g .zoneWait s)

/-! ### Divert (R90 to R92) -/

/-- The realign count and the lot counter of realigns at a divert; a unit whose count is already 2 becomes a realign
reject (R90, R92). -/
def countRealign (u : UnitNo) (k : SocketIx) (s : State) : State :=
  let reject := (findUnit u s).any (fun r => r.realigns = 2)
  let s := s
    |> modUnit u (fun r => { r with realigns := capInc 2 r.realigns })
    |> modCounters (fun c => { c with realigns := satInc c.realigns })
  if reject then
    s |> modUnit u (fun r => { r with route := some .realignReject }) |> raise .realignReject (alignArg u k)
  else s

/-- The diverted PLACE is replaced by a placement onto the soak plate, or removed (R91). -/
def replaceDiverted (o : Order) (u : UnitNo) (s : State) : State :=
  match reserveSoak .realign u s with
  | some (p, s) =>
    let o' : Order :=
      { o with id := s.xpl.nextOrderId, place := some (.soak p), reservation := .soak p, purpose := some .realign,
               status := .queued }
    s |> modQueue .load (List.map (fun q => if q.id = o.id then o' else q))
      |> modXpl (fun x => { x with nextOrderId := x.nextOrderId + 1 })
      |> setTarget u (some (.soak p))
  | none =>
    s |> removeOrder .load o.id |> modUnit u (fun r => { r with state := .returnWait, target := none })

/-- A divert of the head order, a load PLACE of unit u into socket k (R90 to R92). -/
def divert (o : Order) (u : UnitNo) (k : SocketIx) (voided : Bool) (s : State) : State :=
  let s0 := raise (if voided then .alignVoid else .alignOut) (alignArg u k) s
  s0 |> releaseSocket k |> headsFollow s0
    |> releaseLoad (headOf k)
    |> countRealign u k
    |> replaceDiverted o u
    |> setGantry .load .idle

/-! ### The issue attempt -/

/-- Check 4 for the head order of the load gantry: the send, or a divert after which a new attempt is due (R98). -/
def coordinateLoad (o : Order) (s : State) : Bool × State :=
  match o.placeSocket with
  | none => (true, sendPlain .load o s)
  | some k =>
    match correction o.unitNo k o.nozzle s with
    | .coordinates cx cy clamped voided =>
      let s := applyFlags o.unitNo k clamped voided s
      (true, sendOrder .load o (correctedCounts k cx cy s) s)
    | .divert voided => (false, divert o o.unitNo k voided s)

/-- The conditions of an issue attempt (R95). -/
def canAttempt (g : Gantry) (s : State) : Bool :=
  (gsq g s).state ≠ .fault && (gsq g s).state ≠ .zoneWait && (queue g s).all (fun o => o.status = .queued)
    && queue g s ≠ []

/-- An issue attempt of the load gantry, made again after each divert; every divert takes a socket PLACE out of a queue
of at most 8 orders (R95, R98). -/
def attemptLoad : Nat → State → State
  | 0, s => s
  | fuel + 1, s =>
    if canAttempt .load s then
      match headOrder .load s with
      | none => s
      | some o =>
        match checksBefore .load o s with
        | (false, s) => s
        | (true, s) =>
          match coordinateLoad o s with
          | (true, s) => s
          | (false, s) => attemptLoad fuel s
    else s

/-- An issue attempt of the unload gantry (R95). -/
def attemptUnload (s : State) : State :=
  if canAttempt .unload s then
    match headOrder .unload s with
    | none => s
    | some o =>
      match checksBefore .unload o s with
      | (false, s) => s
      | (true, s) => sendPlain .unload o s
  else s

/-- The most attempts that one step can make for the load gantry: one for each order and one more. -/
def attemptFuel : Nat := 9

/-- An issue attempt of a gantry (R95). -/
def attempt (g : Gantry) (s : State) : State :=
  match g with
  | .load => attemptLoad attemptFuel s
  | .unload => attemptUnload s

/-- The grant of a zone to the load gantry in ZONE_WAIT: its attempt goes on with check 4 (R97, R98). -/
def grantLoad (z : HeadIx) (s : State) : State :=
  let s := modZone z (Zone.grant .load) s
  match headOrder .load s with
  | none => s
  | some o =>
    match coordinateLoad o s with
    | (true, s) => s
    | (false, s) => attemptLoad attemptFuel s

/-- A release of a zone by a holder: the grant goes to the first waiting requester in the order HEAD, UNLOAD, LOAD
(R138). A release from a requester that does not hold the zone changes nothing. -/
def releaseZone (h : Holder) (z : HeadIx) (s : State) : State :=
  if s.zar[z].holder ≠ h then s
  else if s.zar[z].head ∨ s.zar[z].unload then releaseFirst z s
  else
    let s := modZone z (fun r => { r with holder := .none }) s
    if s.zar[z].load then grantLoad z s else s

/-! ### What closes a step -/

/-- Both gantries make their issue attempts; where both can, either may be first (log entry 5). -/
def attemptBoth (s : State) : State :=
  if canAttempt .load s ∧ canAttempt .unload s then inEitherOrder (attempt .load) (attempt .unload) s
  else s |> attempt .load |> attempt .unload

/-- The second half of a round that began at `before`: both gantries make their issue attempts, and the heads review
what has changed. -/
def issueRound (before s : State) : State := s |> attemptBoth |> headsFollow before

/-- Rounds of planning and issuing until the heads and sockets come to rest, since each of their changes is told to the
planner (R57, R90, R114, R123, log entry 6). A round is at rest when neither its evaluations nor its issue attempts
changed a head or socket: a divert gives back the socket that an evaluation of the same round reserved, and the planner
is told of both. -/
def rounds : Nat → State → State
  | 0, s => s
  | n + 1, s =>
    let planned := evaluateBoth s
    let issued := issueRound s planned
    if planned.hsc = s.hsc ∧ issued.hsc = planned.hsc then issued else rounds n issued

/-- The planning and issuing that closes a step (R57, R95). -/
def settle (s : State) : State := rounds 8 s

end Sys2Proof.Machine
end

