-- ==== Sys2Proof/Machine/Completion.lean ====
section
/-! DEFINITION. What ends an order: the DONE frame (R99, R101, R111), the effect of each result on the unit, the places
and their owners (R103 to R105, R107), the presence comparison (R106), the completion in its steps (R102), the fault
(R110) and the recovery of a gantry (R112). -/
namespace Sys2Proof.Machine

/-! ### DONE (R101) -/

/-- The five results (Table 6-3). -/
inductive DoneResult where
  | ok
  | noPart
  | dropped
  | aborted
  | fault
deriving DecidableEq, Repr

/-- The result of a code (Table 6-3). -/
def DoneResult.ofCode (b : Byte) : Option DoneResult :=
  match b.toNat with
  | 0 => some .ok
  | 1 => some .noPart
  | 2 => some .dropped
  | 3 => some .aborted
  | 4 => some .fault
  | _ => none

/-- The result is admitted for the order kind (R101). -/
def DoneResult.admitted (k : OrderKind) : DoneResult → Bool
  | .ok => true
  | .noPart => k = .pick
  | .dropped => k = .place
  | .aborted => true
  | .fault => true

/-- The presence bit of a nozzle (Table 6-3); bits 4 to 7 are not read (log entry 21). -/
def presenceBit (mask : Byte) (n : NozzleIx) : Bool := mask.getLsbD n.val

/-- The presence bit of the order's own nozzle agrees with the result (R101). -/
def presenceAgrees (o : Order) (r : DoneResult) (mask : Byte) : Bool :=
  match o.kind, r with
  | .pick, .ok => presenceBit mask o.nozzle
  | .pick, .noPart => !presenceBit mask o.nozzle
  | .place, .ok => !presenceBit mask o.nozzle
  | .place, .dropped => !presenceBit mask o.nozzle
  | _, _ => true

/-- The payload length that fits a result and kind (Table 6-3). -/
def doneLength (k : OrderKind) (r : DoneResult) : Nat := if k = .inspect ∧ r = .ok then 19 else 2

/-- The result of a DONE payload for the order in flight, none when it is malformed (R101). -/
def readDone (o : Order) (p : List Byte) : Option DoneResult :=
  match DoneResult.ofCode (rd8 p 0) with
  | none => none
  | some r =>
    if r.admitted o.kind ∧ p.length = doneLength o.kind r ∧ presenceAgrees o r (rd8 p 1) then some r else none

/-! ### Effects of a result -/

/-- How an order ends, an ABORTED one resolved by R107. -/
inductive Fate where
  | done
  | noPart
  | dropped
  | notDone
deriving DecidableEq, Repr

/-- An order cut off is resolved from the presence bit of its own nozzle (R107). -/
def resolved (o : Order) (mask : Byte) : Fate :=
  match o.kind with
  | .pick => if presenceBit mask o.nozzle then .done else .notDone
  | .place => if presenceBit mask o.nozzle then .notDone else .done
  | _ => .notDone

/-- The fate of an order with a result; a FAULT has none and is handled apart (R110). -/
def DoneResult.fate (o : Order) (mask : Byte) : DoneResult → Fate
  | .ok => .done
  | .noPart => .noPart
  | .dropped => .dropped
  | .aborted => resolved o mask
  | .fault => .notDone

/-- The unit state on a nozzle of a gantry after a PICK (R103). -/
def pickedState : Gantry → UnitState
  | .load => .onLoad
  | .unload => .onUnload

/-- A soak position becomes FREE under a unit that leaves it (Table 1-2). -/
def freeSoak (p : SoakIx) (s : State) : State := modSoak p (fun q => { q with state := .free, reservedFor := 0 }) s

/-- A PICK that is done (R103). -/
def pickDone (g : Gantry) (o : Order) (s : State) : State :=
  match o.place with
  | some (.input st slot) => s |> createUnit st slot o.nozzle |> endInputPick st .picked
  | some (.soak p) =>
    s |> moveUnit o.unitNo (nozzleSpot g o.nozzle)
      |> modUnit o.unitNo (fun r => { r with state := pickedState g })
      |> freeSoak p
  | some (.socket k) =>
    s |> moveUnit o.unitNo (nozzleSpot g o.nozzle)
      |> modUnit o.unitNo (fun r => { r with state := pickedState g })
      |> moveSocket k SocketRec.vacate
  | _ => s

/-- SOCKET_JAM with the socket and the cause, the transfer that went wrong: PLACE 0 or PICK 1 (R120, log entry 24). -/
def raiseJam (k : SocketIx) (cause : Nat) (s : State) : State := raise .socketJam (n8 k.val ++ n8 cause) s

/-- A socket becomes JAMMED and holds no unit (R115, R116). -/
def jamSocket (k : SocketIx) (s : State) : State := moveSocket k (fun r => { r with state := .jammed, unit := 0 }) s

/-- The PLACE of a nozzle whose input PICK found nothing is cancelled, and its nozzle leaves the INSPECT's mask (R75). -/
def cancelNozzle (n : NozzleIx) (s : State) : State :=
  (placesOf .load n s).foldl (fun s p => dropOrder .load p s) s |> unmask n |> setStageHead n none

/-- A PICK that found nothing (R103). -/
def pickEmpty (g : Gantry) (o : Order) (s : State) : State :=
  match o.place with
  | some (.input st _) =>
    s |> endCreation
      |> modCounters (fun c => { c with emptyPockets := satInc c.emptyPockets })
      |> cancelNozzle o.nozzle
      |> endInputPick st .noPart
  | some (.soak p) =>
    let s := s |> loseUnit o.unitNo |> modSoak p (fun q => { q with state := .blocked, unit := 0, reservedFor := 0 })
    if g = .load then setStageHead o.nozzle none s else s
  | some (.socket k) => s |> loseUnit o.unitNo |> jamSocket k |> raiseJam k 1
  | _ => s

/-- A unit is set down in a socket: LOADED, or evicted at once when the socket is off-pending or the lot is PURGING
(R104, R115). -/
def loadSocket (u : UnitNo) (k : SocketIx) (s : State) : State :=
  let s := s
    |> moveUnit u (.socket k)
    |> modUnit u (fun r => { r with state := .loaded, target := none })
    |> moveSocket k (fun r => { r with state := .loaded })
  if s.hsc.sockets[k].offPending.isSome ∨ s.ltc.state = .purging then evict k s else loadedInHead (headOf k) s

/-- A PLACE that is done (R104). -/
def placeDone (o : Order) (s : State) : State :=
  let u := o.unitNo
  match o.place with
  | some (.soak p) => arriveSoak u p (o.purpose.getD .giveBack) s
  | some (.socket k) => loadSocket u k s
  | some (.output st p) => s |> retire u (.output st p) |> endOutPlace st true
  | some .chute => s |> retire u .chute |> countChute
  | _ => s

/-- A PLACE that dropped its device (R104): the unit is LOST at the nozzle. Where the drop spends an output station, no rule
orders OUT_SPENT (R153) and UNIT_LOST (R14): OUT_SPENT is raised first (DESIGN CHOICE, log entry 22). -/
def placeDropped (o : Order) (s : State) : State :=
  let u := o.unitNo
  match o.place with
  | some (.socket k) => s |> jamSocket k |> loseUnit u |> raiseJam k 0
  | some (.output st _) => s |> releaseLog u |> endOutPlace st false |> loseUnit u
  | some .chute => s |> releaseLog u |> loseUnit u
  | _ => loseUnit u s

/-- A unit that waited for its INSPECT becomes STAGED: with the head kept with its nozzle, or with the head its target
already names (R71, R75). -/
def stageAt (n : NozzleIx) (s : State) : State :=
  let u := s.upt.loadNozzles[n]
  let s' := setStageHead n none s
  match s.xpl.stageHead[n], (findUnit u s).bind UnitRec.target with
  | some h, _ => modUnit u (fun r => { r with state := .staged, target := some (.head h) }) s'
  | none, some (.head h) => modUnit u (fun r => { r with state := .staged, target := some (.head h) }) s'
  | none, _ => s'

/-- The camera values of nozzle n in a DONE payload (Table 6-3). -/
def cameraOf (p : List Byte) (n : NozzleIx) : Bool × Int × Int :=
  ((rd8 p 2).getLsbD n.val, (rd16 p (3 + 4 * n.val)).toInt, (rd16 p (5 + 4 * n.val)).toInt)

/-- One masked nozzle at an INSPECT that is done: its unit's offset, and STAGED where it waited for it (R85, R105). -/
def inspectNozzle (p : List Byte) (s : State) (n : NozzleIx) : State :=
  if s.upt.loadNozzles[n] = 0 then setStageHead n none s
  else
    let c := cameraOf p n
    s |> modUnit s.upt.loadNozzles[n] (fun r => { r with offset := some (inspectOffset c.1 c.2.1 c.2.2 s) })
      |> stageAt n

/-- An INSPECT that is done (R105, R75). -/
def inspectDone (o : Order) (p : List Byte) (s : State) : State :=
  (maskNozzles o.mask).foldl (inspectNozzle p) s |> modXpl (fun x => { x with inspected := true })

/-- The effect of an order's fate on the units, the places and their owners (R103 to R105, R107). -/
def applyFate (g : Gantry) (o : Order) (p : List Byte) (f : Fate) (s : State) : State :=
  match f, o.kind with
  | .done, .pick => pickDone g o s
  | .done, .place => placeDone o s
  | .done, .inspect => inspectDone o p s
  | .done, .park => setParked g true s
  | .noPart, _ => pickEmpty g o s
  | .dropped, _ => placeDropped o s
  | .notDone, _ => s

/-! ### Presence comparison (R106) -/

/-- The nozzles to compare: all but the PICK or PLACE nozzle whose state the order's result has just decided. -/
def comparedNozzles (o : Option Order) : List NozzleIx :=
  match o with
  | some o => allNozzles.filter (fun n => !((o.kind = .pick || o.kind = .place) && o.nozzle = n))
  | none => allNozzles

/-- A recorded unit whose presence bit is 0 becomes LOST (R106, R112). -/
def loseMissing (g : Gantry) (mask : Byte) (ns : List NozzleIx) (s : State) : State :=
  ns.foldl (fun s n => if presenceBit mask n then s else loseUnit (nozzleUnit g n s) s) s

/-- Some compared nozzle shows a device that no record accounts for (R106). -/
def mismatch (g : Gantry) (mask : Byte) (ns : List NozzleIx) (s : State) : Bool :=
  ns.any (fun n => presenceBit mask n && nozzleUnit g n s = 0)

/-! ### Fault (R110) -/

/-- The order in flight: the head order while ISSUED or UNCERTAIN (R93). -/
def inFlight (g : Gantry) (s : State) : Option Order :=
  match headOrder g s with
  | some o => if o.status = .queued then none else some o
  | none => none

/-- The argument of GANTRY_FAULT: gantry, cause, kind and place code of the UNCERTAIN order (R110). -/
def faultArg (g : Gantry) (c : FaultCause) (o : Option Order) : List Byte :=
  n8 (gantryCode g) ++ n8 c.code ++ n8 ((o.map (fun o => o.kind.code)).getD 0) ++ placeField (o.bind Order.place)

/-- A gantry enters FAULT (R110). Where the cancellations spend an input station and empty the machine, no rule orders the
two factors: STATION_SPENT is raised first, and DRAINED last (DESIGN CHOICE, log entry 22). -/
def enterFault (g : Gantry) (c : FaultCause) (s : State) : State :=
  let o := inFlight g s
  let s1 := match o with
    | some o => setStatus g o.id .uncertain s
    | none => s
  s1 |> modGsq g (fun q => { q with timer := none, cause := some c })
     |> raise .gantryFault (faultArg g c o)
     |> cancelWhere g (fun _ => true)
     |> setGantry g .fault
     |> checkEmpty

/-! ### Completion (R102) -/

/-- Step 3 of a completion: the zone grant of a socket order is released. -/
def releaseOrderZone (g : Gantry) (o : Order) (s : State) : State :=
  match o.zone with
  | some z => releaseZone (gantryHolder g) z s
  | none => s

/-- Step 5, first part: the order leaves the queue, or returns to QUEUED at its head (R102, R107). -/
def requeue (g : Gantry) (o : Order) (f : Fate) (s : State) : State :=
  if f = .notDone then setStatus g o.id .queued s else removeOrder g o.id s

/-- A completion with any result but FAULT, in the steps of R102. Where it makes both gantries due, either is evaluated
first (R57, log entry 5). Where it both spends a station and empties the machine, no rule orders the two factors: UPT's
empty report is taken after the station has been spent (DESIGN CHOICE, log entry 22). -/
def complete (g : Gantry) (o : Order) (p : List Byte) (f : Fate) (s : State) : State :=
  let mask := rd8 p 1
  let ns := comparedNozzles (some o)
  let s1 := modGsq g (fun q => { q with timer := none, state := .idle }) s
  let s2 := s1 |> applyFate g o p f |> checkEmpty |> headsFollow s1
  let s3 := releaseOrderZone g o s2
  let bad := mismatch g mask ns s3
  let s5 := s3 |> loseMissing g mask ns |> requeue g o f |> checkEmpty |> headsFollow s3 |> evaluateBoth
  settle (headsFollow s5 (if bad then enterFault g .presence s5 else s5))

/-- A gantry faults, and the step closes. -/
def faultStep (g : Gantry) (c : FaultCause) (s : State) : State := settle (headsFollow s (enterFault g c s))

/-- A DONE frame at a sequencer: the completion of the order in flight, or stray (R102, R110, R111). -/
def takeDone (g : Gantry) (s : State) (f : Frame) : State :=
  if f.kind ≠ 0xA1 then s
  else
    match inFlight g s with
    | some o =>
      if o.status = .issued ∧ f.tag = (gsq g s).tag then
        match readDone o f.payload with
        | none => faultStep g .badDone s
        | some .fault => faultStep g .drive s
        | some r => complete g o f.payload (r.fate o (rd8 f.payload 1)) s
      else raise .strayDone (n8 (gantryCode g) ++ [f.tag]) s
    | none => raise .strayDone (n8 (gantryCode g) ++ [f.tag]) s

/-- Bytes from a drive: each complete frame is taken in turn (R99). -/
def driveBytes (g : Gantry) (bytes : List Byte) (s : State) : State :=
  let r := (gsq g s).rx.take s.now bytes
  r.2.foldl (takeDone g) (modGsq g (fun q => { q with rx := r.1 }) s)

/-- The drive reply timer expires while the gantry is IN_FLIGHT (R108). -/
def driveTimeout (g : Gantry) (s : State) : State := faultStep g .noReply s

/-! ### Emergency stop (R109) and recovery (R112) -/

/-- A sequencer at the entry to ESTOP (R109); its zone request is withdrawn with all others (`withdrawAll`). -/
def stopGantry (g : Gantry) (s : State) : State :=
  match (gsq g s).state, inFlight g s with
  | .zoneWait, _ => setGantry g .held s
  | .inFlight, some o =>
    s |> setStatus g o.id .uncertain |> modGsq g (fun q => { q with timer := none, state := .held })
  | _, _ => s

/-- Step 1 of a recovery: the UNCERTAIN order is resolved and leaves the queue (R112). -/
def resolveUncertain (g : Gantry) (mask : Byte) (s : State) : State :=
  match inFlight g s with
  | some o =>
    match resolved o mask with
    | .done => s |> applyFate g o [] .done |> removeOrder g o.id
    | _ => cancelOrder g o s
  | none => s

/-- Step 4 of a recovery: any zone grant that the gantry holds is released (R112). -/
def releaseHeld (g : Gantry) (s : State) : State :=
  allHeads.foldl (fun s z => releaseZone (gantryHolder g) z s) s

/-- A pass grant whose order has left the queue becomes none (R167). -/
def dropGrant (g : Gantry) (s : State) : State :=
  match passGrant g s with
  | some id => if (queue g s).any (fun o => o.id = id) then s else setGrant g none s
  | none => s

/-- A gantry leaves its recovery IDLE, its parked flag cleared (R112, step 5). -/
def returnIdle (g : Gantry) (s : State) : State :=
  s |> modGsq g (fun q => { q with state := .idle, timer := none, cause := none }) |> setParked g false |> dropGrant g

/-- The place is a nozzle of the gantry. -/
def Spot.isNozzleOf : Gantry → Spot → Bool
  | .load, .loadNozzle _ => true
  | .unload, .unloadNozzle _ => true
  | _, _ => false

/-- The unit stands on a nozzle of the gantry. -/
def UnitRec.onNozzleOf (g : Gantry) (r : UnitRec) : Bool := r.place.any (Spot.isNozzleOf g)

/-- After the recovery, units left on the gantry's nozzles have no target (R112): a unit that a cancellation has made
STAGED with a target head (R71) is among them (log entry 37). -/
def forgetTargets (g : Gantry) (s : State) : State :=
  modUpt (fun t => { t with
    units := t.units.map (fun r => if r.onNozzleOf g then { r with target := none } else r) }) s

/-- The recovery of a gantry with its presence mask (R112). A station that it spends raises its factor before the DRAINED
of the machine that it empties (DESIGN CHOICE, log entry 22). -/
def recoverGantry (g : Gantry) (mask : Byte) (s : State) : State :=
  let o := inFlight g s
  let s1 := s |> resolveUncertain g mask |> checkEmpty |> headsFollow s
  let s3 := s1 |> cancelWhere g (fun _ => true) |> loseMissing g mask (comparedNozzles o) |> checkEmpty |> headsFollow s1
  s3 |> releaseHeld g |> returnIdle g |> forgetTargets g

end Sys2Proof.Machine
end

