-- ==== Sys2Proof/Machine/Testing.lean ====
section
/-! DEFINITION. The end of a test: the capture at the EOT edge and at the test timer's expiry (R129, R130), quarantine
(R121), the stray edge (R131), the void at an emergency stop (R132), and the expiries of the fill and soak times (R124,
R12). -/
namespace Sys2Proof.Machine

/-- A head number as a field. -/
def headArg (h : HeadIx) : List Byte := n8 h.val

/-- The sockets of a head that are TESTING, ascending. -/
def testingSockets (h : HeadIx) (s : State) : List SocketIx :=
  (socketsOf h).filter (fun k => s.hsc.sockets[k].state = .testing)

/-- Place of a socket within its head (R113). -/
def placeInHead (k : SocketIx) : Fin 4 := ⟨k.val % 4, by omega⟩

/-- The bin of a TESTING socket at the EOT edge: its code, or 33 where the valid line is low (R129). -/
def sampledBin (lines : Vector BinLine 4) (k : SocketIx) : BinCode :=
  if lines[placeInHead k].valid then ⟨lines[placeInHead k].code.toNat, by omega⟩ else 33

/-- The factor that sampling one socket raises, if any (R129). -/
def sampleFactor (h : HeadIx) (lines : Vector BinLine 4) (s : State) (k : SocketIx) : State :=
  let r := s.hsc.sockets[k]
  if r.state = .testing ∧ lines[placeInHead k].valid = false then
    raise .noBin (headArg h ++ n8 k.val ++ be32 r.unit) s
  else if r.state ≠ .testing ∧ lines[placeInHead k].valid then raise .binIgnored (headArg h ++ n8 k.val) s
  else s

/-- The bin map entry of the bin has the flag. -/
def binFlag (f : BinEntry → Bool) (b : BinCode) (s : State) : Bool :=
  match binEntry b s with
  | some e => f e
  | none => false

/-- The counts of a captured socket (R121, R129 step 1). -/
def SocketRec.count (fail pass : Bool) (r : SocketRec) : SocketRec :=
  { r with
    tests := satInc r.tests
    passes := if pass then satInc r.passes else r.passes
    fails := if fail then capInc 15 r.fails else 0 }

/-- A socket whose consecutive-fail count has reached the threshold is quarantined (R121). -/
def quarantine (k : SocketIx) (s : State) : State :=
  let t := s.ltc.params.quarantineThreshold
  if 0 < t ∧ t ≤ s.hsc.sockets[k].fails ∧ s.hsc.sockets[k].offPending = none then
    s |> modSocket k (fun r => { r with offPending := some .quarantine }) |> raise .socketQuarantine (n8 k.val)
  else s

/-- Step 1 of a capture for one TESTING socket: attempt, counts, quarantine (R129). -/
def captureSocket (cycle : BitVec 16) (d : BitVec 32) (bin : SocketIx → BinCode) (s : State) (k : SocketIx) :
    State :=
  s |> modUnit s.hsc.sockets[k].unit (fun r => { r with
        attempts := r.attempts ++ [{ socket := k, cycle := cycle, bin := bin k, duration := d }] })
    |> modSocket k (SocketRec.count (binFlag BinEntry.fail (bin k) s) (binFlag BinEntry.pass (bin k) s))
    |> quarantine k

/-- Step 2 of a capture for one socket: the unit's route (R147). -/
def routeSocket (bin : SocketIx → BinCode) (s : State) (k : SocketIx) : State :=
  routeUnit s.hsc.sockets[k].unit k (bin k) s

/-- Step 3 of a capture for one socket: DONE and TESTED. -/
def finishSocket (s : State) (k : SocketIx) : State :=
  s |> modUnit s.hsc.sockets[k].unit (fun r => { r with state := .tested })
    |> modSocket k (fun r => { r with state := .done })

/-- The bins of a cycle summary (R134). -/
def summaryBins (h : HeadIx) (ks : List SocketIx) (bin : SocketIx → BinCode) : Vector (Option BinCode) 4 :=
  Vector.ofFn (fun j => if headSocket h j ∈ ks then some (bin (headSocket h j)) else none)

/-- The measured duration of a head's test: now - SOT time (R129). -/
def testDuration (h : HeadIx) (s : State) : BitVec 32 := s.now - s.hsc.heads[h].sot.getD 0

/-- Step 5 of a capture: summary, latest capture time, and the report to the lot controller (R129, R32). -/
def recordCapture (h : HeadIx) (timeout : Bool) (ks : List SocketIx) (bin : SocketIx → BinCode) (d : BitVec 32)
    (s : State) : State :=
  s |> modHead h (fun r => { r with
        capture := some s.now
        summary := some
          { cycle := r.cycle, sot := r.sot.getD 0, duration := if timeout then none else some d,
            bins := summaryBins h ks bin }
        fresh := true })
    |> countCapture h timeout

/-- Steps 1 to 5 of a capture: attempts, counts and quarantine, routes, DONE and TESTED, the lines, and the records
(R129). -/
def captureUnits (h : HeadIx) (timeout : Bool) (bin : SocketIx → BinCode) (s : State) : State :=
  let ks := testingSockets h s
  let d := testDuration h s
  let s := ks.foldl (captureSocket s.hsc.heads[h].cycle d bin) s
  let s := ks.foldl (routeSocket bin) s
  ks.foldl finishSocket s
    |> lowerLines h
    |> recordCapture h timeout ks bin d

/-- Steps 1 to 7 of a capture: what it records, and then the zone and FILL (R129). -/
def capture (h : HeadIx) (timeout : Bool) (bin : SocketIx → BinCode) (s : State) : State :=
  s |> captureUnits h timeout bin |> releaseZone .head h |> enterFill h

/-- The test timer of a head stops. -/
def stopTest (h : HeadIx) (s : State) : State := modHead h (fun r => { r with test := .stopped }) s

/-- The end of test at the EOT edge of a head in TEST (R129). -/
def endOfTest (h : HeadIx) (lines : Vector BinLine 4) (s : State) : State :=
  (socketsOf h).foldl (sampleFactor h lines) s
    |> stopTest h
    |> updateEstimate h (testDuration h s).toNat
    |> capture h false (sampledBin lines)

/-- The timeout capture (R130). -/
def timeoutCapture (h : HeadIx) (s : State) : State :=
  s |> stopTest h
    |> capture h true (fun _ => 32)
    |> raise .headTimeout (headArg h ++ be16 s.hsc.heads[h].cycle)

/-- A rising edge on EOTh: the end of test, or stray (R129, R131). -/
def eotEdge (h : HeadIx) (lines : Vector BinLine 4) (s : State) : State :=
  if s.hsc.heads[h].state = .test then s |> endOfTest h lines |> headsFollow s |> settle
  else raise .strayEot (headArg h) s

/-- The test timer of a head in TEST reaches 0 (R130). -/
def testExpiry (h : HeadIx) (s : State) : State := s |> timeoutCapture h |> headsFollow s |> settle

/-- A TESTING socket and its unit go back to LOADED (R132). So does a socket that became off-pending during the test, or
whose lot is PURGING: R119 names no eviction at a void, so it stays LOADED and unevicted, although R126 says that every
LOADED socket is active (DESIGN CHOICE, log entry 35). -/
def untestSocket (s : State) (k : SocketIx) : State :=
  s |> modUnit s.hsc.sockets[k].unit (fun r => { r with state := .loaded })
    |> modSocket k (fun r => { r with state := .loaded })

/-- A head in TEST has its test voided (R132). -/
def voidHead (s : State) (h : HeadIx) : State :=
  if s.hsc.heads[h].state = .test then
    (testingSockets h s).foldl untestSocket (s |> lowerLines h |> stopTest h)
      |> releaseZone .head h
      |> enterFill h
      |> countVoided
  else s

/-- The fill timer of a head reaches 0: fill-expired, and the QUEUED placements into its sockets are cancelled (R124,
R72). R124 does not say in which state a timer is whose remaining time is 0: here it is stopped from the expiry on
(DESIGN CHOICE, log entry 31). Where the cancellations spend an input station and empty the machine, STATION_SPENT is raised
before DRAINED (DESIGN CHOICE, log entry 22). -/
def fillExpiry (h : HeadIx) (s : State) : State :=
  s |> modHead h (fun r => { r with fill := .stopped, fillExpired := true })
    |> cancelWhere .load (fun o => o.placeSocket.map headOf = some h)
    |> checkEmpty
    |> headsFollow s
    |> settle

/-- A unit's soak expiry (R12). -/
def soakExpiry (u : UnitNo) (s : State) : State := s |> becomeReady u |> headsFollow s |> settle

/-- The staging timer's expiry makes the load gantry due (R67). -/
def stagingExpiry (s : State) : State := s |> modXpl (fun x => { x with staging := none }) |> settle

end Sys2Proof.Machine
end

