-- ==== Sys2Proof/Machine/RunControl.lean ====
section
/-! DEFINITION. The run control unit: door and hold (R162, R163), resume (R164), emergency stop (R165), recovery (R166,
R167), hold points (R168), flag protection (R170), run mode and settings (R171), and the credits of CYCLE (R127). -/
namespace Sys2Proof.Machine

/-- Changes the pins. -/
def modPins (f : Pins → Pins) (s : State) : State := { s with pins := f s.pins }

/-! ### Door and hold -/

/-- The cause that DOOR, HOLD or HOLD_NOW gives. -/
inductive HoldCause where
  | host
  | door
  | holdPoint
deriving DecidableEq, Repr

/-- A cause is added to a set of causes. -/
def HoldCause.addTo (c : HoldCause) (s : HoldCauses) : HoldCauses :=
  match c with
  | .host => { s with host := true }
  | .door => { s with door := true }
  | .holdPoint => { s with holdPoint := true }

/-- A hold with a cause: RUN and RESUMING enter HOLD, in HOLD the cause is added, in ESTOP nothing changes (R162,
R163). -/
def holdWith (c : HoldCause) (s : State) : State :=
  match s.rcu.run with
  | .run => enterHold (c.addTo .none) [] s
  | .resuming => enterHold (c.addTo .none) [] s
  | .hold => modRcu (fun r => { r with causes := c.addTo r.causes }) s
  | .estop => s

/-- The DOOR line becomes active (R162). -/
def doorOpens (s : State) : State :=
  if s.pins.door then s else s |> modPins (fun p => { p with door := true }) |> holdWith .door

/-- The DOOR line becomes inactive: in HOLD the cause DOOR is removed (R162). -/
def doorCloses (s : State) : State :=
  let s := modPins (fun p => { p with door := false }) s
  if s.rcu.run = .hold then modRcu (fun r => { r with causes := { r.causes with door := false } }) s else s

/-- HOLD or HOLD_NOW (R163). -/
def serveHold (c : HoldCause) (s : State) : State × List Byte :=
  if s.rcu.run = .estop then (s, answer .wrongState []) else (holdWith c s, answer .ok [])

/-! ### Resume -/

/-- What the heads do at the return to RUN: those in START_WAIT set their zone requests, and every head is examined
(R126, R132, log entry 17). -/
def headsReturn (s : State) : State :=
  allHeads.foldl (fun s h => reviewHead h s) (allHeads.foldl (fun s h => requestHead h s) s)

/-- The return to RUN: RESUMED, the timers, and then heads, gantries and planner, whose order is open (R164, R133, R142,
log entry 7). -/
def returnToRun (s : State) : State :=
  s |> modRcu (fun r => { r with run := .run, settle := none })
    |> raise .resumed (n8 0)
    |> resumeTimers
    |> inEitherOrder headsReturn (inEitherOrder attemptBoth evaluateBoth)
    |> settle

/-- The settle timer expires in RESUMING (R164). -/
def settleExpiry (s : State) : State := returnToRun s

/-- Each gantry's held hold-point order becomes its pass grant (R164, step 1). -/
def grantHeld (s : State) : State :=
  modRcu (fun r => { r with
    grantLoad := r.heldLoad.or r.grantLoad, grantUnload := r.heldUnload.or r.grantUnload
    heldLoad := none, heldUnload := none }) s

/-- Steps 1 to 3 of a RESUME that passes its checks (R164); with a delay of 0 the settle timer expires in the same
step. -/
def resume (s : State) : State :=
  let s := s |> grantHeld
    |> modRcu (fun r => { r with
        causes := .none, run := .resuming, settle := some (s.now + BitVec.ofNat 32 r.settleDelay) })
  if s.rcu.settleDelay = 0 then settleExpiry s else s

/-- RESUME (R164). -/
def serveResume (s : State) : State × List Byte :=
  if s.pins.estop then (s, answer .interlock [])
  else if s.rcu.run ≠ .hold then (s, answer .wrongState [])
  else if s.pins.door then (s, answer .interlock [])
  else if !lotActive s then (s, answer .wrongState [])
  else (resume s, answer .ok [])

/-! ### Emergency stop -/

/-- The entry to ESTOP with the run state left: causes and settle timer cleared, the factor, and the neighbours (R165,
R109, R132, R141). R139 and R141 leave open whether a withdrawal or the release by a voided head comes first: here every
request is withdrawn before the first test is voided, so each zone so released becomes free (DESIGN CHOICE, log
entry 36). -/
def enterEstop (s : State) : State :=
  let s := s
    |> modRcu (fun r => { r with settle := none, causes := .none })
    |> raise .estop (n8 s.rcu.run.code)
    |> modRcu (fun r => { r with run := .estop })
    |> stopGantry .load |> stopGantry .unload
    |> withdrawAll
    |> pauseTimers
  allHeads.foldl voidHead s

/-- The ESTOP line becomes active (R165). -/
def estopOn (s : State) : State :=
  if s.pins.estop then s
  else
    let s := modPins (fun p => { p with estop := true }) s
    if s.rcu.run = .estop then raise .estop (n8 RunState.estop.code) s else enterEstop s

/-- The ESTOP line becomes inactive: no state changes but the level that RECOVER and RESUME read (R165). -/
def estopOff (s : State) : State := modPins (fun p => { p with estop := false }) s

/-! ### Recovery -/

/-- The gantries that a gantry mask names (Table 11-6). -/
def namedGantries (mask : Byte) : List Gantry :=
  (if mask.getLsbD 0 then [.load] else []) ++ (if mask.getLsbD 1 then [.unload] else [])

/-- The presence mask given for a gantry. -/
def presenceFor (lp up : Byte) : Gantry → Byte
  | .load => lp
  | .unload => up

/-- The gantry holds an UNCERTAIN order. -/
def uncertain (g : Gantry) (s : State) : Bool := (inFlight g s).any (fun o => o.status = .uncertain)

/-- Check 3 in ESTOP: the gantry is FAULT or holds an UNCERTAIN order, and must be named (R166). -/
def mustRecover (g : Gantry) (s : State) : Bool := (gsq g s).state = .fault || uncertain g s

/-- The nozzle's presence bit is accounted for: it is 0, or a unit is recorded, or it is the nozzle of the gantry's
UNCERTAIN PICK (R166, check 4). -/
def accounted (g : Gantry) (mask : Byte) (n : NozzleIx) (s : State) : Bool :=
  !presenceBit mask n || nozzleUnit g n s ≠ 0
    || (inFlight g s).any (fun o => o.status = .uncertain && o.kind = .pick && o.nozzle = n)

/-- The first nozzle that check 4 refuses: load nozzles before unload nozzles, each ascending (R166). -/
def firstUnaccounted (mask lp up : Byte) (s : State) : Option (Gantry × NozzleIx) :=
  ((namedGantries mask).flatMap (fun g => allNozzles.map (fun n => (g, n)))).find?
    (fun c => !accounted c.1 (presenceFor lp up c.1) c.2 s)

/-- The run state after a recovery from ESTOP: HOLD with HOST, and DOOR if the line is active (R167). -/
def recoverRun (s : State) : State :=
  if s.rcu.run = .estop then
    enterHold { HoldCauses.none with host := true, door := s.pins.door } [] s
  else s

/-- RECOVER (R166, R167). Neither gantry's recovery waits for the other, and where both are named R167 gives no order: the
load gantry is recovered first (DESIGN CHOICE, log entry 38). The gantry and nozzle of the refusal of check 4, for which R176
lays out no pair, are sent as a gantry byte and then a nozzle byte, and not as the nozzle's place code (DESIGN CHOICE, log
entry 11). -/
def serveRecover (mask lp up : Byte) (s : State) : State × List Byte :=
  let named := namedGantries mask
  if mask = 0 ∨ 4 ≤ mask.toNat ∨ named.any (fun g => 16 ≤ (presenceFor lp up g).toNat) then
    (s, answer .badArg [])
  else if s.rcu.run = .estop ∧ s.pins.estop then (s, answer .interlock [])
  else if s.rcu.run = .estop ∧ [Gantry.load, .unload].any (fun g => mustRecover g s && !named.contains g) then
    (s, answer .badArg [])
  else if s.rcu.run ≠ .estop ∧ named.any (fun g => (gsq g s).state ≠ .fault) then (s, answer .wrongState [])
  else
    match firstUnaccounted mask lp up s with
    | some (g, n) => (s, answer .badArg (n8 (gantryCode g) ++ n8 n.val))
    | none =>
      (settle (recoverRun (named.foldl (fun s g => recoverGantry g (presenceFor lp up g) s) s)), answer .ok [])

/-! ### Hold points and flag protection -/

/-- The match of SET_HOLDPOINT's kind and value; none where they are refused (R168). -/
def holdMatchOf (kind : Byte) (value : Word) (enabled : Byte) : Option HoldMatch :=
  match kind.toNat with
  | 0 => if enabled = 1 then none else some .none
  | 1 =>
    if value.toNat < 65536 then
      (Place.ofCode (value.setWidth 16)).map (fun p => .place p.code)
    else none
  | 2 => if value = 0 then none else some (.unit value)
  | _ => none

/-- SET_HOLDPOINT (R168). -/
def serveSetHoldpoint (i kind : Byte) (value : Word) (enabled : Byte) (s : State) : State × List Byte :=
  match index 4 i.toNat, holdMatchOf kind value enabled with
  | some i, some m =>
    if enabled = 0 ∨ enabled = 1 then
      (modRcu (fun r => { r with holdPoints := r.holdPoints.set i.val { what := m, enabled := enabled = 1 } }) s,
        answer .ok [])
    else (s, answer .badArg [])
  | _, _ => (s, answer .badArg [])

/-- Flag protection holds: the causes include HOLD_POINT and clear-in-hold is off (R170). -/
def protection (s : State) : Bool := s.rcu.causes.holdPoint && !s.rcu.clearInHold

/-- SET_PROTECT (R170). -/
def serveSetProtect (v : Byte) (s : State) : State × List Byte :=
  if v = 0 ∨ v = 1 then (modRcu (fun r => { r with clearInHold := v = 1 }) s, answer .ok [])
  else (s, answer .badArg [])

/-! ### Run mode -/

/-- Sets every head's start credit to 0, and every head withdraws its request until CYCLE gives it a credit (R171,
R126). -/
def clearCredits (s : State) : State :=
  s |> modHeads (fun h => { h with credit := false }) |> withdrawHeads

/-- The run mode takes a value (R171). -/
def setRunMode (m : RunMode) (s : State) : State :=
  match s.rcu.mode, m with
  | .continuous, .single => s |> modRcu (fun r => { r with mode := .single }) |> clearCredits
  | .single, .continuous =>
    allHeads.foldl (fun s h => requestHead h s) (modRcu (fun r => { r with mode := .continuous }) s)
  | _, _ => s

/-- The run mode of its code (Table 11-6). -/
def runModeOf (b : Byte) : Option RunMode :=
  match b.toNat with
  | 0 => some .continuous
  | 1 => some .single
  | _ => none

/-- SET_MODE (R171). -/
def serveSetMode (mode : Byte) (timeout delay : Half) (s : State) : State × List Byte :=
  match runModeOf mode with
  | some m =>
    if 50 ≤ timeout.toNat ∧ timeout.toNat ≤ 30000 ∧ delay.toNat ≤ 5000 then
      (s |> modRcu (fun r => { r with driveTimeout := timeout.toNat, settleDelay := delay.toNat })
         |> setRunMode m |> headsFollow s |> settle, answer .ok [])
    else (s, answer .badArg [])
  | none => (s, answer .badArg [])

/-- A named head takes its credit, and asks for its zone if it waits in START_WAIT (R127). -/
def giveCredit (mask : Byte) (s : State) (h : HeadIx) : State :=
  if mask.getLsbD h.val then s |> modHead h (fun r => { r with credit := true }) |> requestHead h else s

/-- CYCLE (R127). -/
def serveCycle (mask : Byte) (s : State) : State × List Byte :=
  if mask = 0 ∨ 16 ≤ mask.toNat then (s, answer .badArg [])
  else if s.rcu.mode ≠ .single then (s, answer .wrongState [])
  else (allHeads.foldl (giveCredit mask) s |> headsFollow s |> settle, answer .ok [])

end Sys2Proof.Machine
end

