-- ==== Sys2Proof/Machine/LotRequests.lean ====
section
/-! DEFINITION. The lot requests: LOT_OPEN, SET_LOT, LOT_START, LOT_PURGE, LOT_CLOSE (02_lots.md), SET_BIN and
SET_CATEGORY (R145, R146). -/
namespace Sys2Proof.Machine

/-! ### LOT_OPEN -/

/-- The opening of a lot at the lot controller and its neighbours (R23, R19, R144, R146). -/
def openLot (lot : Half) (s : State) : State :=
  s |> modLtc (fun _ =>
        { state := .opened, lot := some lot, params := .defaults, times := { LotTimes.absent with opened := some s.now },
          captures := .zero, closed := none })
    |> modUpt (fun t => { t with nextUnit := 1, counters := .zero })
    |> modSrt (fun t => { t with binMap := Vector.replicate 34 none, categories := Vector.replicate 8 .unmapped })

/-- LOT_OPEN (R23). -/
def serveLotOpen (lot : Half) (s : State) : State × List Byte :=
  if s.ltc.state = .idle then (openLot lot s, answer .ok []) else (s, answer .wrongState [])

/-! ### SET_LOT -/

/-- The range of a lot parameter by its number (Table 2-2). -/
def paramRange : Nat → Option (Nat × Nat)
  | 1 => some (0, 3600000)
  | 2 => some (0, 3600000)
  | 3 => some (1, 600000)
  | 4 => some (100, 600000)
  | 5 => some (0, 60000)
  | 6 => some (1, 3)
  | 7 => some (0, 15)
  | 8 => some (0, 8)
  | 9 => some (0, 10000)
  | 10 => some (0, 65535)
  | 11 => some (0, 7)
  | _ => none

/-- An entry names a parameter, with a value in its range (R25). -/
def paramOk (e : ParamArg) : Bool :=
  match paramRange e.number.toNat with
  | some (lo, hi) => lo ≤ e.value.toNat && e.value.toNat ≤ hi
  | none => false

/-- One parameter takes its value (R25). -/
def LotParams.store (p : LotParams) (e : ParamArg) : LotParams :=
  let v := e.value.toNat
  match e.number.toNat with
  | 1 => { p with soakTime := v }
  | 2 => { p with retestSoakTime := v }
  | 3 => { p with nominalTestTime := v }
  | 4 => { p with testTimeout := v }
  | 5 => { p with fillTimeout := v }
  | 6 => { p with maxAttempts := v }
  | 7 => { p with quarantineThreshold := v }
  | 8 => { p with retestReserve := v }
  | 9 => { p with stageHorizon := v }
  | 10 => { p with lotTrayCount := v }
  | 11 => { p with purgeCategory := Fin.ofNat 8 v }
  | _ => p

/-- No value stands twice in a list. -/
def distinct (l : List Byte) : Bool :=
  match l with
  | [] => true
  | b :: bs => !bs.contains b && distinct bs

/-- SET_LOT (R25). -/
def serveSetLot (es : List ParamArg) (s : State) : State × List Byte :=
  if s.ltc.state ≠ .opened then (s, answer .wrongState [])
  else if es.all paramOk && distinct (es.map ParamArg.number) then
    (modLtc (fun l => { l with params := es.foldl LotParams.store l.params }) s, answer .ok [])
  else (s, answer .badArg [])

/-! ### SET_BIN and SET_CATEGORY -/

/-- The condition of its code (Table 11-6). -/
def conditionOf (b : Byte) : Option BinCondition :=
  match b.toNat with
  | 0 => some .none
  | 1 => some .alignClean
  | 2 => some .firstAttempt
  | _ => none

/-- A checked entry of SET_BIN: bin and map entry, none where a value is out of range (R145, R176). -/
def binOf (e : BinArg) : Option (BinCode × BinEntry) :=
  match index 34 e.bin.toNat, index 8 e.category.toNat, index 8 e.alternate.toNat, conditionOf e.condition with
  | some b, some c, some a, some cond =>
    if e.flags.toNat < 8 then
      some (b, { category := c, alternate := a, condition := cond, retest := e.flags.getLsbD 0,
                 fail := e.flags.getLsbD 1, pass := e.flags.getLsbD 2 })
    else none
  | _, _, _, _ => none

/-- One entry is stored whole (R145). -/
def storeBin (m : Vector (Option BinEntry) 34) (e : BinArg) : Vector (Option BinEntry) 34 :=
  match binOf e with
  | some (b, entry) => m.set b.val (some entry)
  | none => m

/-- SET_BIN; a list of more than 8 entries is out of range (R145, log entry 27). -/
def serveSetBin (es : List BinArg) (s : State) : State × List Byte :=
  if s.ltc.state ≠ .opened then (s, answer .wrongState [])
  else if es.length ≤ 8 && es.all (fun e => (binOf e).isSome) && distinct (es.map BinArg.bin) then
    (modSrt (fun t => { t with binMap := es.foldl storeBin t.binMap }) s, answer .ok [])
  else (s, answer .badArg [])

/-- The destination of its code (Table 11-6). -/
def destinationOf (b : Byte) : Option Destination :=
  match index 4 b.toNat with
  | some p => some (.pair p)
  | none =>
    match b.toNat with
    | 4 => some .chute
    | 5 => some .unmapped
    | _ => none

/-- A checked entry of SET_CATEGORY, none where a value is out of range (R146). -/
def categoryOf (e : CategoryArg) : Option (Category × Destination) :=
  match index 8 e.category.toNat, destinationOf e.destination with
  | some c, some d => some (c, d)
  | _, _ => none

/-- One entry is stored (R146). -/
def storeCategory (m : Vector Destination 8) (e : CategoryArg) : Vector Destination 8 :=
  match categoryOf e with
  | some (c, d) => m.set c.val d
  | none => m

/-- SET_CATEGORY (R146). -/
def serveSetCategory (es : List CategoryArg) (s : State) : State × List Byte :=
  if s.ltc.state ≠ .opened then (s, answer .wrongState [])
  else if es.all (fun e => (categoryOf e).isSome) && distinct (es.map CategoryArg.category) then
    (modSrt (fun t => { t with categories := es.foldl storeCategory t.categories }) s, answer .ok [])
  else (s, answer .badArg [])

/-! ### LOT_START -/

/-- The categories a bin map entry uses (R26, check 3). -/
def BinEntry.uses (e : BinEntry) : List Category :=
  if e.condition = .none then [e.category] else [e.category, e.alternate]

/-- The category is mapped. -/
def mapped (s : State) (c : Category) : Bool := s.srt.categories[c] ≠ .unmapped

/-- The five checks of LOT_START in order (Table 2-3). -/
def startChecks (s : State) : List Bool :=
  [ (activeSet s).any id,
    s.srt.binMap.toList.all Option.isSome,
    s.srt.binMap.toList.all (fun e => (e.map (fun e => e.uses.all (mapped s))).getD true)
      && mapped s s.ltc.params.purgeCategory,
    s.ltc.params.nominalTestTime ≤ s.ltc.params.testTimeout,
    s.ltc.params.retestReserve ≤ 64 ]

/-- The number of the first check that fails, counted from 1 (R26). -/
def firstFalse : Nat → List Bool → Option Nat
  | _, [] => none
  | n, b :: bs => if b then firstFalse (n + 1) bs else some n

/-- The start of a lot at the lot controller, the planner and the feed stations (R27, R47, R48). -/
def startLot (s : State) : State :=
  s |> modLtc (fun l => { l with state := .running, times := { l.times with started := some s.now } })
    |> modXpl (fun x => { x with estimates := Vector.replicate 4 s.ltc.params.nominalTestTime })
    |> modFsc (fun f => { f with
        trayCounter := BitVec.ofNat 16 s.ltc.params.lotTrayCount, counted := 0 < s.ltc.params.lotTrayCount })

/-- LOT_START (R26, R27). -/
def serveLotStart (s : State) : State × List Byte :=
  if s.ltc.state ≠ .opened then (s, answer .wrongState [])
  else
    match firstFalse 1 (startChecks s) with
    | some n => (s, answer .badArg (n8 n))
    | none => (s |> startLot |> headsFollow s |> settle, answer .ok [])

/-! ### LOT_PURGE -/

/-- The QUEUED load orders that a purge cancels, by the trip they belong to (R74, log entry 19). -/
def purgeCancels (kind : TripKind) (o : Order) : Bool :=
  o.isInputPick
    || ((kind = .socket || kind = .bypass) && (o.kind = .pick || o.kind = .inspect || o.placeSocket.isSome))

/-- A head in START_WAIT at the purge returns to FILL, and the LOADED sockets of the head are evicted (R119, R126). -/
def purgeHead (s : State) (h : HeadIx) : State :=
  let s := if s.hsc.heads[h].state = .startWait then s |> withdrawHead h |> modHead h (fun r => { r with state := .fill })
    else s
  (loadedSockets h s).foldl (fun s k => evict k s) s

/-- What the lot controller and its neighbours do at a purge (R29, R74, R50, R119). Where the machine is empty already, no
rule orders DRAINED and the STATION_SPENT of a station disarmed: the lot controller's empty test comes first, and DRAINED
before STATION_SPENT. Where the cancellations of the purge spend a station and empty the machine, no rule orders the two
either: STATION_SPENT is raised first, and DRAINED last (DESIGN CHOICE, log entry 22). -/
def purgeLot (s : State) : State :=
  let s1 := s
    |> modLtc (fun l => { l with state := .purging, times := { l.times with purge := some s.now } })
    |> checkEmpty
  let s2 := cancelWhere .load (purgeCancels s1.xpl.tripKind) s1
    |> purgeRoutes
  allHeads.foldl purgeHead s2
    |> modXpl (fun x => { x with staging := none })
    |> purgeFeed
    |> checkEmpty

/-- LOT_PURGE (R29). -/
def serveLotPurge (s : State) : State × List Byte :=
  if lotTesting s then (s |> purgeLot |> headsFollow s |> settle, answer .ok []) else (s, answer .wrongState [])

/-! ### LOT_CLOSE -/

/-- The closed summary (R34). -/
def closedSummary (s : State) : ClosedSummary :=
  { lot := s.ltc.lot.getD 0, closedFrom := s.ltc.state, purged := s.ltc.times.purge.isSome,
    times := { s.ltc.times with closed := some s.now }, params := s.ltc.params, units := s.upt.counters,
    captures := s.ltc.captures, estimates := s.xpl.estimates }

/-- The feed stations at lot close (R51). -/
def closeFeed (s : State) : State :=
  modFsc (fun _ => Fsc.reset) s

/-- The output stations at lot close: EMPTY with the counts of the last arming, no current station, not BLOCKED
(R150). -/
def closeOutput (s : State) : State :=
  modSrt (fun t => { t with
    stations := t.stations.map (fun r => { r with state := .empty })
    pairs := Vector.replicate 4 { current := none, blocked := false } }) s

/-- The close of a lot (R31, R19, R51, R150). -/
def closeLot (s : State) : State :=
  let s := s
    |> modLtc (fun l => { l with
        closed := some (closedSummary s), times := { l.times with closed := some s.now }, state := .idle })
    |> modUpt (fun t => { t with counters := .zero, units := t.units.filter (fun r => r.state ≠ .lost) })
    |> closeFeed |> closeOutput
  if s.rcu.run = .run ∨ s.rcu.run = .resuming then enterHold { HoldCauses.none with host := true } [] s else s

/-- LOT_CLOSE (R31). -/
def serveLotClose (s : State) : State × List Byte :=
  if s.ltc.state = .drained ∨ s.ltc.state = .opened then (s |> closeLot |> headsFollow s |> settle, answer .ok [])
  else (s, answer .wrongState [])

end Sys2Proof.Machine
end

