-- ==== Sys2Proof/Machine/StationRequests.lean ====
section
/-! DEFINITION. The requests to stations, sockets, soak positions and units: ARM_INPUT (R38, R39), ARM_OUTPUT (R151),
SOCKET_ENABLE, SOCKET_DISABLE, SOCKET_CLEAR (R117, R118, R120), SOAK_CLEAR (R5) and UNIT_CLEAR (R15). -/
namespace Sys2Proof.Machine

/-- The number of pockets of a tray (R37). -/
def TrayTeach.pockets (t : TrayTeach) : Nat := t.rows * t.columns

/-- First pocket and count lie in the tray: f < pockets and 1 <= n <= pockets - f (R38, R151). -/
def pocketsOk (t : Option TrayTeach) (f n : Nat) : Bool :=
  match t with
  | some t => f < t.pockets && 1 ≤ n && n ≤ t.pockets - f
  | none => false

/-! ### ARM_INPUT -/

/-- The input station of its code (Table 11-6). -/
def inputSide (b : Byte) : Option Side :=
  match b.toNat with
  | 0 => some .a
  | 1 => some .b
  | _ => none

/-- The mode of its code (Table 11-6). -/
def feedModeOf (b : Byte) : Option FeedMode :=
  match b.toNat with
  | 0 => some .counted
  | 1 => some .opened
  | _ => none

/-- The station record that an arming fills (R39). For OPEN the rule gives no first pocket and no armed count: those of the
arming before stay (DESIGN CHOICE, log entry 34). -/
def armedRecord (m : FeedMode) (first count : Nat) (more : Bool) (r : InStation) : InStation :=
  let c := m = .counted
  { r with
    mode := some m, more := more, endCause := none, pending := 0, picked := 0, empties := 0, unused := 0, noPartRun := 0
    first := if c then first else r.first
    armed := if c then count else r.armed
    next := if c then first else 0
    remaining := if c then count else 0 }

/-- The arming of an input station that passes its checks (R39). -/
def armInput (st : Side) (m : FeedMode) (first count : Nat) (more : Bool) (s : State) : State :=
  let s := modIn st (armedRecord m first count more) s
  if s.fsc.current = none ∨ s.fsc.starved then
    s |> activateIn st |> modFsc (fun f => { f with starved := false })
  else modIn st (fun r => { r with state := .standby }) s

/-- The station is taught for the mode (R37). -/
def taughtFor (st : Side) (m : FeedMode) (s : State) : Bool :=
  match m with
  | .counted => s.pcu.trays[st.trayIx].isSome
  | .opened => s.pcu.nests[st.nestIx].isSome

/-- ARM_INPUT (R38). -/
def serveArmInput (station mode : Byte) (first count : Half) (more : Byte) (s : State) : State × List Byte :=
  match inputSide station, feedModeOf mode with
  | some st, some m =>
    if more ≠ 0 ∧ more ≠ 1 then (s, answer .badArg [])
    else if s.ltc.state ≠ .opened ∧ s.ltc.state ≠ .running then (s, answer .wrongState [])
    else if (inStation st s).state ≠ .empty then (s, answer .wrongState [])
    else if !taughtFor st m s then (s, answer .noSuch [])
    else if m = .counted ∧ pocketsOk s.pcu.trays[st.trayIx] first.toNat count.toNat = false then
      (s, answer .badArg [])
    else (s |> armInput st m first.toNat count.toNat (more = 1) |> settle, answer .ok [])
  | _, _ => (s, answer .badArg [])

/-! ### ARM_OUTPUT -/

/-- The output station of its place kind (Table 11-6). -/
def outputStation (b : Byte) : Option OutStation :=
  if 2 ≤ b.toNat then (index 8 (b.toNat - 2)).map OutStation.ofIx else none

/-- The arming of an output station that passes its checks (R151). -/
def armOutput (st : OutStation) (first count : Nat) (s : State) : State :=
  let active := (activeOut st.pair s).isSome
  let s := modOut st (fun _ =>
    { state := if active then .standby else .active, first := first, armed := count, next := first, remaining := count,
      pending := 0, filled := 0, skipped := 0 }) s
  if active then s else modPair st.pair (fun _ => { current := some st.side, blocked := false }) s

/-- The lot lets output stations be armed (R151, check 2). -/
def armOutputLot (s : State) : Bool := s.ltc.state = .opened || lotActive s

/-- ARM_OUTPUT (R151). -/
def serveArmOutput (station : Byte) (first count : Half) (s : State) : State × List Byte :=
  match outputStation station with
  | some st =>
    if !armOutputLot s then (s, answer .wrongState [])
    else if (outStation st s).state ≠ .empty then (s, answer .wrongState [])
    else if s.pcu.trays[st.trayIx].isNone then (s, answer .noSuch [])
    else if pocketsOk s.pcu.trays[st.trayIx] first.toNat count.toNat = false then (s, answer .badArg [])
    else (s |> armOutput st first.toNat count.toNat |> settle, answer .ok [])
  | none => (s, answer .badArg [])

/-! ### Sockets -/

/-- SOCKET_ENABLE (R117). -/
def serveSocketEnable (socket : Byte) (s : State) : State × List Byte :=
  match index 16 socket.toNat with
  | some k =>
    if s.hsc.sockets[k].state ≠ .off then (s, answer .wrongState [])
    else if !readyToEnable k s then (s, answer .noSuch [])
    else
      (s |> modSocket k (fun r => { r with state := .empty, offPending := none, fails := 0 })
         |> headsFollow s |> settle, answer .ok [])
  | none => (s, answer .badArg [])

/-- Off-pending is set with reason HOST (R118). -/
def setOffPending (k : SocketIx) (s : State) : State := modSocket k (fun r => { r with offPending := some .host }) s

/-- The effect of SOCKET_DISABLE by the state of the socket (R118). -/
def disableSocket (k : SocketIx) (s : State) : State :=
  match s.hsc.sockets[k].state with
  | .off => s
  | .empty => modSocket k (fun r => { r with state := .off }) s
  | .reserved => s |> setOffPending k |> cancelWhere .load (fun o => o.placeSocket = some k)
  | .loaded => s |> setOffPending k |> evict k
  | .testing => setOffPending k s
  | .done => setOffPending k s
  | .jammed => setOffPending k s

/-- SOCKET_DISABLE (R118). Where its cancellations spend an input station and empty the machine, STATION_SPENT is raised
before DRAINED (DESIGN CHOICE, log entry 22). -/
def serveSocketDisable (socket : Byte) (s : State) : State × List Byte :=
  match index 16 socket.toNat with
  | some k =>
    if s.hsc.sockets[k].state = .off then (s, answer .wrongState [])
    else (s |> disableSocket k |> checkEmpty |> headsFollow s |> settle, answer .ok [])
  | none => (s, answer .badArg [])

/-- SOCKET_CLEAR (R120). -/
def serveSocketClear (socket : Byte) (s : State) : State × List Byte :=
  match index 16 socket.toNat with
  | some k =>
    if s.hsc.sockets[k].state ≠ .jammed then (s, answer .wrongState [])
    else (s |> modSocket k SocketRec.vacate |> headsFollow s |> settle, answer .ok [])
  | none => (s, answer .badArg [])

/-! ### Soak positions and units -/

/-- SOAK_CLEAR (R5). -/
def serveSoakClear (position : Byte) (s : State) : State × List Byte :=
  match index 64 position.toNat with
  | some p =>
    if s.upt.soak[p].state = .blocked then
      (s |> modSoak p (fun q => { q with state := .free }) |> settle, answer .ok [])
    else (s, answer .wrongState [])
  | none => (s, answer .badArg [])

/-- UNIT_CLEAR (R15). -/
def serveUnitClear (u : Word) (s : State) : State × List Byte :=
  if u = 0 then (s, answer .badArg [])
  else
    match findUnit u s with
    | none => (s, answer .noSuch [])
    | some r =>
      if r.state ≠ .lost then (s, answer .wrongState []) else (s |> dropUnit u |> settle, answer .ok [])

end Sys2Proof.Machine
end

