-- ==== Sys2Proof/Machine/Queries.lean ====
section
/-! DEFINITION. The requests that read: STATUS (R180), UNIT_QUERY (R21), SOCKET_QUERY (R135), HEAD_QUERY (R134),
STATION_QUERY (R52, R159), LOT_SUMMARY (R33), LOG_READ (R157), and the notice requests (R179). Reply fields stand in the
order their rule lists them, in the layout of R176; log entries 10 and 11 name what R176 does not fix. -/
namespace Sys2Proof.Machine

/-! ### STATUS -/

/-- The head states byte: two bits per head, head 0 lowest (Table 11-5). -/
def headStates (s : State) : Nat :=
  s.hsc.heads[0].state.code + 4 * s.hsc.heads[1].state.code + 16 * s.hsc.heads[2].state.code
    + 64 * s.hsc.heads[3].state.code

/-- The feed byte (Table 11-5). -/
def feedByte (s : State) : Nat :=
  (match s.fsc.current with
    | none => 0
    | some .a => 1
    | some .b => 2) + 4 * s.fsc.starved.toNat

/-- A zone byte (Table 11-5). -/
def Zone.byte (z : Zone) : Nat := z.holder.code + 4 * z.head.toNat + 8 * z.unload.toNat + 16 * z.load.toNat

/-- The fields of STATUS up to the factor (Table 11-5, bytes 1 to 26). -/
def statusFields (s : State) : List Byte :=
  n8 (maskOf 7 s.clu.summary) ++ be32 s.clu.raised ++ be32 s.clu.enabled
    ++ n8 s.ltc.state.code ++ n8 s.rcu.run.code ++ n8 s.rcu.causes.code ++ n8 s.rcu.mode.code
    ++ n8 (headStates s) ++ n8 s.gsqL.state.code ++ n8 s.gsqU.state.code ++ n8 (feedByte s) ++ n8 s.srt.log.length
    ++ n8 s.zar[0].byte ++ n8 s.zar[1].byte ++ n8 s.zar[2].byte ++ n8 s.zar[3].byte ++ be32 s.now

/-- STATUS (R180). -/
def serveStatus (factor : Byte) (s : State) : State × List Byte :=
  if factor = 0xFF then (s, answer .ok (statusFields s ++ [factor]))
  else
    match index 26 factor.toNat with
    | some f => (s, answer .ok (statusFields s ++ [factor] ++ s.clu.args[f]))
    | none => (s, answer .badArg [])

/-! ### UNIT_QUERY -/

/-- The fields of Table 1-3 in its order, attempts and excluded set left out. -/
def recordFields (r : UnitRec) : List Byte :=
  be32 r.no ++ be16 r.lot ++ be16 r.origin.place.code ++ n8 r.state.code
    ++ optional (fun sp => be16 (Spot.toPlace sp).code) r.place
    ++ optional (fun sp => be16 (Spot.toPlace sp).code) r.lastPlace
    ++ be32 r.created ++ optional be32 r.soakStart ++ n32 r.soakTarget ++ offsetBytes r.offset
    ++ alignBytes r.clamped r.voided ++ n8 r.realigns ++ optional Route.bytes r.route ++ optional Target.bytes r.target

/-- The record as a query reads it. A unit whose soak has elapsed is READY (R12, R21), so it reads as READY also where its
SOAK_EXPIRY of this millisecond is still to be taken, with the route that the examination at becoming READY leaves it (R70)
(DEDUCED, log entry 1). -/
def UnitRec.asRead (r : UnitRec) (s : State) : UnitRec :=
  if soakExpired r s then
    { r with state := .ready, route := ((findUnit r.no (becomeReady r.no s)).getD r).route }
  else r

/-- The remaining soak of a SOAKING unit: soak target - (now - soak start) (R21). -/
def remainingSoak (r : UnitRec) (s : State) : Option (BitVec 32) :=
  match r.state, r.soakStart with
  | .soaking, some t => some (BitVec.ofNat 32 r.soakTarget - (s.now - t))
  | _, _ => none

/-- The fields of a reply that carries a record (R21). -/
def recordReply (record : UnitRec) (s : State) : List Byte :=
  let r := record.asRead s
  recordFields r ++ listField Attempt.bytes r.attempts ++ be16 r.excluded ++ optional be32 (remainingSoak r s)
    ++ be32 s.now

/-- A soak position's state and the unit number of any reservation on it (R21). -/
def soakFields (p : SoakPos) : List Byte :=
  n8 p.state.code ++ optional be32 (if p.state = .reserved then some p.reservedFor else none)

/-- The spot of a place that holds a unit (R2). -/
def Place.spot : Place → Option Spot
  | .soak p => some (.soak p)
  | .socket k => some (.socket k)
  | .loadNozzle n => some (.loadNozzle n)
  | .unloadNozzle n => some (.unloadNozzle n)
  | _ => none

/-- What follows for a place: the record of its unit or unit number 0, and a soak position's own fields (R21). -/
def placeReply (p : Place) (s : State) : List Byte :=
  let own := match p with
    | .soak i => soakFields s.upt.soak[i]
    | _ => []
  match p.spot.bind (fun sp => findUnit (unitAt sp s) s) with
  | some r => recordReply r s ++ own
  | none => be32 0 ++ own

/-- UNIT_QUERY (R21). -/
def serveUnitQuery (u : Word) (place : Half) (s : State) : State × List Byte :=
  if u ≠ 0 then
    match findUnit u s with
    | some r => (s, answer .ok (recordReply r s))
    | none => (s, answer .noSuch [])
  else
    match Place.ofCode place with
    | some p => (s, answer .ok (placeReply p s))
    | none => (s, answer .badArg [])

/-! ### SOCKET_QUERY and HEAD_QUERY -/

/-- The values of a socket's teach data (Table 5-1). -/
def teachFields (t : SocketTeach) : List Byte :=
  n32 t.load.x ++ n32 t.load.y ++ n32 t.unload.x ++ n32 t.unload.y ++ be16 (BitVec.ofInt 16 t.tx)
    ++ be16 (BitVec.ofInt 16 t.ty) ++ n16 t.window ++ n8 t.policy.code

/-- The reserving order of a socket: the load PLACE that holds its reservation (R113). -/
def reservingOrder (k : SocketIx) (s : State) : Option Order :=
  s.xpl.loadQueue.find? (fun o => o.kind = .place && o.reservation = .socket k)

/-- Gantry, kind and status of the reserving order (R135). -/
def reservingFields (o : Order) : List Byte := n8 (gantryCode .load) ++ n8 2 ++ n8 o.status.code

/-- SOCKET_QUERY (R135). The kind of the reserving order is coded in the order of R54: PICK 0, INSPECT 1, PLACE 2; and
off-pending is sent as a field that may be absent, 0 for clear and 1 with the reason. One byte is sent for whether the
teach data is taught and for whether its values are present, and one presence byte for the three fields of the reserving
order together (DESIGN CHOICE, log entry 11). -/
def serveSocketQuery (socket : Byte) (s : State) : State × List Byte :=
  match index 16 socket.toNat with
  | some k =>
    let r := s.hsc.sockets[k]
    (s, answer .ok (n8 r.state.code ++ n8 (headOf k).val
      ++ optional (fun (x : OffReason) => n8 x.code) r.offPending
      ++ be32 r.unit ++ flag r.active
      ++ optional reservingFields (if r.state = .reserved then reservingOrder k s else none)
      ++ n8 r.fails ++ be32 r.tests ++ be32 r.passes ++ optional teachFields r.teach
      ++ flag (readyToEnable k s) ++ be32 s.now))
  | none => (s, answer .badArg [])

/-- A cycle summary (R134). The duration of a timeout and the bin of a socket not tested are sent as absent fields (DESIGN
CHOICE, log entry 11). -/
def summaryFields (c : CycleSummary) : List Byte :=
  be16 c.cycle ++ be32 c.sot ++ optional be32 c.duration
    ++ c.bins.toList.flatMap (optional (fun (b : BinCode) => n8 b.val))

/-- The fields of HEAD_QUERY (R134). -/
def headFields (h : HeadIx) (s : State) : List Byte :=
  let r := s.hsc.heads[h]
  n8 r.state.code ++ be16 r.cycle ++ optional be32 r.sot ++ optional be32 r.capture
    ++ r.fill.bytes s.now ++ flag r.fillExpired ++ r.test.bytes s.now ++ flag r.credit ++ flag s.zar[h].head
    ++ n32 s.xpl.estimates[h] ++ optional n32 (timeToEnd h s)
    ++ (socketsOf h).flatMap (fun k => n8 s.hsc.sockets[k].state.code ++ be32 s.hsc.sockets[k].unit)
    ++ optional summaryFields r.summary ++ flag r.fresh ++ be32 s.now

/-- HEAD_QUERY; the fresh flag is cleared unless flag protection holds (R134, R170). -/
def serveHeadQuery (head : Byte) (s : State) : State × List Byte :=
  match index 4 head.toNat with
  | some h =>
    (if protection s then s else modHead h (fun r => { r with fresh := false }) s, answer .ok (headFields h s))
  | none => (s, answer .badArg [])

/-! ### STATION_QUERY -/

/-- Rows, columns and pocket count of a taught tray (R52, R159). -/
def trayFields (t : TrayTeach) : List Byte := n8 t.rows ++ n8 t.columns ++ n16 t.pockets

/-- The fields of STATION_QUERY for an input station (R52). The flag of COUNTED stands for the presence of rows, columns
and pocket count, which follow the flag of OPEN without a presence byte of their own; and the state, which R36 never has absent, is sent without
a presence byte, though R52 lists it with mode and end cause as present or absent (DESIGN CHOICE, log entry 11). -/
def inputFields (st : Side) (s : State) : List Byte :=
  let r := inStation st s
  n8 r.state.code ++ optional (fun (m : FeedMode) => n8 m.code) r.mode
    ++ optional (fun (c : EndCause) => n8 c.code) r.endCause
    ++ flag s.pcu.trays[st.trayIx].isSome ++ flag s.pcu.nests[st.nestIx].isSome
    ++ ((s.pcu.trays[st.trayIx].map trayFields).getD [])
    ++ n16 r.first ++ n16 r.armed ++ n16 r.next ++ n16 r.remaining ++ flag r.more
    ++ n8 r.pending ++ n16 r.picked ++ n16 r.empties ++ n16 r.unused ++ n8 r.noPartRun
    ++ flag (s.fsc.current = some st) ++ flag s.fsc.starved ++ be16 s.fsc.trayCounter ++ flag (!s.fsc.counted)
    ++ be32 s.now

/-- A pair's current station (R159). R176 gives "none" no code: it is sent as a field that may be absent, 0 for none,
and 1 and the place kind of the station otherwise (DESIGN CHOICE, log entry 11). -/
def currentStation (p : PairIx) (s : State) : List Byte :=
  optional (fun side => n8 (OutStation.kind { pair := p, side := side })) s.srt.pairs[p].current

/-- The fields of STATION_QUERY for an output station (R159). The categories mapped to the pair are sent as one mask byte,
bit c for category c, and that the tray is taught and that its rows, columns and pocket count are present are one byte, 1 when
taught, and not two (DESIGN CHOICE, log entry 11). -/
def outputFields (st : OutStation) (s : State) : List Byte :=
  let r := outStation st s
  n8 r.state.code ++ optional trayFields s.pcu.trays[st.trayIx]
    ++ n16 r.first ++ n16 r.armed ++ n16 r.next ++ n16 r.remaining
    ++ n8 r.pending ++ n16 r.filled ++ n16 r.skipped
    ++ currentStation st.pair s ++ flag s.srt.pairs[st.pair].blocked
    ++ n8 (maskOf 8 (fun c => pairCategories st.pair s |>.any (fun d => d.val = c)))
    ++ be32 s.srt.chuteTotal ++ be32 s.now

/-- STATION_QUERY (R52, R159). -/
def serveStationQuery (station : Byte) (s : State) : State × List Byte :=
  match inputSide station, outputStation station with
  | some st, _ => (s, answer .ok (inputFields st s))
  | none, some st => (s, answer .ok (outputFields st s))
  | none, none => (s, answer .badArg [])

/-! ### LOT_SUMMARY -/

/-- The six lot times (R33). -/
def LotTimes.bytes (t : LotTimes) : List Byte :=
  optional be32 t.opened ++ optional be32 t.started ++ optional be32 t.inputDone ++ optional be32 t.purge
    ++ optional be32 t.drained ++ optional be32 t.closed

/-- The eleven lot parameters (R33). Parameters in ms are sent in 4 bytes as durations, fill timeout and stage horizon
among them, whose ranges would fit in 2 (R176 admits both readings; DESIGN CHOICE, log entry 11). -/
def LotParams.bytes (p : LotParams) : List Byte :=
  n32 p.soakTime ++ n32 p.retestSoakTime ++ n32 p.nominalTestTime ++ n32 p.testTimeout ++ n32 p.fillTimeout
    ++ n8 p.maxAttempts ++ n8 p.quarantineThreshold ++ n8 p.retestReserve ++ n32 p.stageHorizon ++ n16 p.lotTrayCount
    ++ n8 p.purgeCategory.val

/-- The lot unit counters (R33). -/
def UnitCounters.bytes (c : UnitCounters) : List Byte :=
  be32 c.created ++ c.binned.toList.flatMap be32 ++ be32 c.chute ++ be32 c.lost ++ be32 c.emptyPockets
    ++ be32 c.retests ++ be32 c.realigns

/-- The lot capture counters (R32, R33). -/
def CaptureCounters.bytes (c : CaptureCounters) : List Byte :=
  c.captures.toList.flatMap be32 ++ c.timeouts.toList.flatMap be32 ++ be32 c.voided

/-- The four head time estimates (R33). -/
def estimateBytes (e : Vector Nat 4) : List Byte := e.toList.flatMap n32

/-- A LIVE summary: source flag 0 (R33). -/
def liveSummary (s : State) : List Byte :=
  n8 0 ++ be16 (s.ltc.lot.getD 0) ++ n8 s.ltc.state.code ++ s.ltc.times.bytes ++ s.ltc.params.bytes
    ++ s.upt.counters.bytes ++ s.ltc.captures.bytes ++ estimateBytes s.xpl.estimates ++ be32 s.now

/-- A CLOSED summary: source flag 1 (R33). -/
def ClosedSummary.bytes (c : ClosedSummary) (now : Time) : List Byte :=
  n8 1 ++ be16 c.lot ++ n8 c.closedFrom.code ++ flag c.purged ++ c.times.bytes ++ c.params.bytes
    ++ c.units.bytes ++ c.captures.bytes ++ estimateBytes c.estimates ++ be32 now

/-- LOT_SUMMARY (R33). -/
def serveLotSummary (s : State) : State × List Byte :=
  if s.ltc.state ≠ .idle then (s, answer .ok (liveSummary s))
  else
    match s.ltc.closed with
    | some c => (s, answer .ok (c.bytes s.now))
    | none => (s, answer .noSuch [])

/-! ### LOG_READ -/

/-- A completion record (R156). -/
def LogRec.bytes (r : LogRec) : List Byte :=
  be32 r.no ++ be16 r.lot ++ be16 r.origin.place.code ++ listField Attempt.bytes r.attempts
    ++ optional (fun (c : Category) => n8 c.val) r.category ++ be16 r.dest.code
    ++ alignBytes r.clamped r.voided ++ n8 (r.purged.toNat + 2 * r.realignReject.toNat) ++ be32 r.time

/-- The oldest records are removed from the log, and the planner is told of the room (R157). -/
def removeRecords (n : Nat) (s : State) : State := s |> modSrt (fun t => { t with log := t.log.drop n }) |> settle

/-- LOG_READ; under flag protection the records stay (R157). The reply gives the counts as the request leaves them, before
the planner uses the room gained, and the number returned is the count byte of the list of records (DESIGN CHOICE, log
entry 11). -/
def serveLogRead (count : Byte) (s : State) : State × List Byte :=
  if count.toNat < 1 ∨ 4 < count.toNat then (s, answer .badArg [])
  else
    let records := s.srt.log.take count.toNat
    let left := if protection s then s.srt.log.length else s.srt.log.length - records.length
    (if protection s then s else removeRecords records.length s,
      answer .ok (listField LogRec.bytes records ++ n8 left ++ n8 s.srt.reservations.length))

/-! ### NOTICE_ENABLE and NOTICE_CLEAR -/

/-- The factor mask names factors only (R179). -/
def maskOk (m : Word) : Bool := m &&& 0xFC000000 = 0

/-- NOTICE_ENABLE (R179). -/
def serveNoticeEnable (m : Word) (s : State) : State × List Byte :=
  if maskOk m then (setAttn { s with clu := { s.clu with enabled := m } }, answer .ok (be32 m))
  else (s, answer .badArg [])

/-- The pending set after a clear: the named factors cleared, but for condition factors whose condition holds (R179,
R158). -/
def clearedSet (m : Word) (s : State) : BitVec 32 := s.clu.raised &&& ~~~(m &&& ~~~(logConditions s.srt))

/-- NOTICE_CLEAR (R179). -/
def serveNoticeClear (m : Word) (s : State) : State × List Byte :=
  if !maskOk m then (s, answer .badArg [])
  else if protection s then (s, answer .held [])
  else (setAttn { s with clu := { s.clu with raised := clearedSet m s } }, answer .ok (be32 (clearedSet m s)))

end Sys2Proof.Machine
end

