-- ==== Sys2Proof/WellFormed.lean ====
section
/-! DEFINITION. When a command is one that a sender can send: its frame fits the layout of R172 to R176. -/
namespace Sys2Proof

/-- A station part is in its form: the ten-byte form never has part byte 0 (Table 11-6). -/
def StationPart.wf : StationPart → Bool
  | .tray .. => true
  | .other part _ _ => part ≠ 0

/-- A request that a frame can carry: a list has at least one entry, and the payload at most 240 bytes (R173, R175). -/
def Request.wf : Request → Bool
  | .setLot es => 1 ≤ es.length ∧ es.length ≤ 47
  | .setBin es => 1 ≤ es.length ∧ es.length ≤ 47
  | .setCategory es => 1 ≤ es.length ∧ es.length ≤ 119
  | .setupStation _ part => part.wf
  | _ => true

/-- A command that a sender can send. -/
def Instr.wf : Instr → Bool
  | .unknownKind _ kind payload => payload.length ≤ 240 ∧ judge kind payload = .unknownKind
  | .setLot _ es => (Request.setLot es).wf
  | .setBin _ es => (Request.setBin es).wf
  | .setCategory _ es => (Request.setCategory es).wf
  | .setupStation _ station part => (Request.setupStation station part).wf
  | _ => true

/-- The row of a request that arrives with a tag. -/
def rowOf (tag : Byte) : Request → Instr
  | .setupAxis axis k lmax park => .setupAxis tag axis k lmax park
  | .setupCamera scale x y trims => .setupCamera tag scale x y trims
  | .setupSocket socket loadX loadY unloadX unloadY tx ty window policy =>
    .setupSocket tag socket loadX loadY unloadX unloadY tx ty window policy
  | .setupSoak load unload => .setupSoak tag load unload
  | .setupStation station part => .setupStation tag station part
  | .setupChute x y => .setupChute tag x y
  | .lotOpen lot => .lotOpen tag lot
  | .setLot entries => .setLot tag entries
  | .setBin entries => .setBin tag entries
  | .setCategory entries => .setCategory tag entries
  | .lotStart => .lotStart tag
  | .lotPurge => .lotPurge tag
  | .lotClose => .lotClose tag
  | .armInput station mode first count more => .armInput tag station mode first count more
  | .armOutput station first count => .armOutput tag station first count
  | .socketEnable socket => .socketEnable tag socket
  | .socketDisable socket => .socketDisable tag socket
  | .socketClear socket => .socketClear tag socket
  | .soakClear position => .soakClear tag position
  | .unitClear unit => .unitClear tag unit
  | .hold => .hold tag
  | .resume => .resume tag
  | .holdNow => .holdNow tag
  | .recover mask loadPresence unloadPresence => .recover tag mask loadPresence unloadPresence
  | .setMode mode driveTimeout settleDelay => .setMode tag mode driveTimeout settleDelay
  | .cycle mask => .cycle tag mask
  | .setHoldpoint index kind value enabled => .setHoldpoint tag index kind value enabled
  | .setProtect value => .setProtect tag value
  | .status factor => .status tag factor
  | .unitQuery unit place => .unitQuery tag unit place
  | .socketQuery socket => .socketQuery tag socket
  | .headQuery head => .headQuery tag head
  | .stationQuery station => .stationQuery tag station
  | .lotSummary => .lotSummary tag
  | .logRead count => .logRead tag count
  | .noticeEnable mask => .noticeEnable tag mask
  | .noticeClear mask => .noticeClear tag mask
  | .reset => .reset tag

/-- The tag and the request that a row brings; an event row brings none. -/
def requestOf : Instr → Option (Byte × Request)
  | .setupAxis tag axis k lmax park => some (tag, .setupAxis axis k lmax park)
  | .setupCamera tag scale x y trims => some (tag, .setupCamera scale x y trims)
  | .setupSocket tag socket loadX loadY unloadX unloadY tx ty window policy =>
    some (tag, .setupSocket socket loadX loadY unloadX unloadY tx ty window policy)
  | .setupSoak tag load unload => some (tag, .setupSoak load unload)
  | .setupStation tag station part => some (tag, .setupStation station part)
  | .setupChute tag x y => some (tag, .setupChute x y)
  | .lotOpen tag lot => some (tag, .lotOpen lot)
  | .setLot tag entries => some (tag, .setLot entries)
  | .setBin tag entries => some (tag, .setBin entries)
  | .setCategory tag entries => some (tag, .setCategory entries)
  | .lotStart tag => some (tag, .lotStart)
  | .lotPurge tag => some (tag, .lotPurge)
  | .lotClose tag => some (tag, .lotClose)
  | .armInput tag station mode first count more => some (tag, .armInput station mode first count more)
  | .armOutput tag station first count => some (tag, .armOutput station first count)
  | .socketEnable tag socket => some (tag, .socketEnable socket)
  | .socketDisable tag socket => some (tag, .socketDisable socket)
  | .socketClear tag socket => some (tag, .socketClear socket)
  | .soakClear tag position => some (tag, .soakClear position)
  | .unitClear tag unit => some (tag, .unitClear unit)
  | .hold tag => some (tag, .hold)
  | .resume tag => some (tag, .resume)
  | .holdNow tag => some (tag, .holdNow)
  | .recover tag mask loadPresence unloadPresence => some (tag, .recover mask loadPresence unloadPresence)
  | .setMode tag mode driveTimeout settleDelay => some (tag, .setMode mode driveTimeout settleDelay)
  | .cycle tag mask => some (tag, .cycle mask)
  | .setHoldpoint tag index kind value enabled => some (tag, .setHoldpoint index kind value enabled)
  | .setProtect tag value => some (tag, .setProtect value)
  | .status tag factor => some (tag, .status factor)
  | .unitQuery tag unit place => some (tag, .unitQuery unit place)
  | .socketQuery tag socket => some (tag, .socketQuery socket)
  | .headQuery tag head => some (tag, .headQuery head)
  | .stationQuery tag station => some (tag, .stationQuery station)
  | .lotSummary tag => some (tag, .lotSummary)
  | .logRead tag count => some (tag, .logRead count)
  | .noticeEnable tag mask => some (tag, .noticeEnable mask)
  | .noticeClear tag mask => some (tag, .noticeClear mask)
  | .reset tag => some (tag, .reset)
  | .cellFrameReceived _ => none
  | .unknownKind _ _ _ => none
  | .replySent => none
  | .noticeSent => none
  | .done _ _ => none
  | .driveReplyTimerExpiry _ => none
  | .settleTimerExpiry => none
  | .fillTimerExpiry _ => none
  | .testTimerExpiry _ => none
  | .soakExpiry _ => none
  | .stagingTimerExpiry => none
  | .eot _ _ => none
  | .doorActive => none
  | .doorInactive => none
  | .estopActive => none
  | .estopInactive => none
  | .resetNLow => none
  | .resetNRelease _ => none
  | .powerUp _ => none
  | .byteGapTimeout _ => none

end Sys2Proof
end

