-- ==== Sys2Proof/Machine/CellLink.lean ====
section
/-! DEFINITION. The cell link unit: the owner's answer to each request (Table 11-3), the receive queue and the reply
slot (R175), the transmitter (R175), and reset (R160, R181, R182). -/
namespace Sys2Proof.Machine

/-- The owning block takes a request and gives the payload of its reply (R175, Table 11-3). The effect of RESET comes
when its reply has been sent (R182). -/
def serve (r : Request) (s : State) : State × List Byte :=
  match r with
  | .setupAxis axis k lmax park => serveSetupAxis axis k lmax park s
  | .setupCamera scale x y trims => serveSetupCamera scale x y trims s
  | .setupSocket socket lx ly ux uy tx ty w policy => serveSetupSocket socket lx ly ux uy tx ty w policy s
  | .setupSoak load unload => serveSetupSoak load unload s
  | .setupStation station part => serveSetupStation station part s
  | .setupChute x y => serveSetupChute x y s
  | .lotOpen lot => serveLotOpen lot s
  | .setLot es => serveSetLot es s
  | .setBin es => serveSetBin es s
  | .setCategory es => serveSetCategory es s
  | .lotStart => serveLotStart s
  | .lotPurge => serveLotPurge s
  | .lotClose => serveLotClose s
  | .armInput station mode first count more => serveArmInput station mode first count more s
  | .armOutput station first count => serveArmOutput station first count s
  | .socketEnable socket => serveSocketEnable socket s
  | .socketDisable socket => serveSocketDisable socket s
  | .socketClear socket => serveSocketClear socket s
  | .soakClear position => serveSoakClear position s
  | .unitClear unit => serveUnitClear unit s
  | .hold => serveHold .host s
  | .resume => serveResume s
  | .holdNow => serveHold .holdPoint s
  | .recover mask lp up => serveRecover mask lp up s
  | .setMode mode timeout delay => serveSetMode mode timeout delay s
  | .cycle mask => serveCycle mask s
  | .setHoldpoint i kind value enabled => serveSetHoldpoint i kind value enabled s
  | .setProtect v => serveSetProtect v s
  | .status factor => serveStatus factor s
  | .unitQuery unit place => serveUnitQuery unit place s
  | .socketQuery socket => serveSocketQuery socket s
  | .headQuery head => serveHeadQuery head s
  | .stationQuery station => serveStationQuery station s
  | .lotSummary => serveLotSummary s
  | .logRead count => serveLogRead count s
  | .noticeEnable mask => serveNoticeEnable mask s
  | .noticeClear mask => serveNoticeClear mask s
  | .reset => ({ s with clu := { s.clu with resetRequested := true } }, answer .ok [])

/-! ### Receive queue and reply slot -/

/-- Changes the cell link unit. -/
def modClu (f : Clu → Clu) (s : State) : State := { s with clu := f s.clu }

/-- The reply to a request of a kind and tag: the kind plus 0x80, the tag, the payload (R175). -/
def replyFrame (kind tag : Byte) (payload : List Byte) : Frame := { kind := kind + 0x80, tag := tag, payload := payload }

/-- A reply is placed in the reply slot (R175). -/
def putReply (kind tag : Byte) (payload : List Byte) (s : State) : State :=
  modClu (fun c => { c with replySlot := some (replyFrame kind tag payload) }) s

/-- A request is taken: its owner answers, and the reply is placed in the reply slot (R175, step 3). -/
def takeRequest (tag : Byte) (r : Request) (s : State) : State :=
  putReply r.kind tag (serve r s).2 (serve r s).1

/-- The oldest frame of the queue is taken and judged (R175). -/
def takeFrame (f : Frame) (s : State) : State :=
  match judge f.kind f.payload with
  | .unknownKind => putReply f.kind f.tag (answer .unknownKind []) s
  | .badLength => putReply f.kind f.tag (answer .badLength []) s
  | .request r => takeRequest f.tag r s

/-- CLU takes the oldest frame of the queue when the reply slot is empty (R175). -/
def pump (s : State) : State :=
  match s.clu.replySlot, s.clu.rxQueue with
  | none, f :: fs => takeFrame f (modClu (fun c => { c with rxQueue := fs }) s)
  | _, _ => s

/-- A complete frame joins the queue when fewer than 4 frames wait in it, and is discarded otherwise (R175). -/
def joinQueue (f : Frame) (s : State) : State :=
  if s.clu.rxQueue.length < 4 then modClu (fun c => { c with rxQueue := c.rxQueue ++ [f] }) s else s

/-- A complete frame arrives. -/
def receive (s : State) (f : Frame) : State := s |> joinQueue f |> pump

/-- Bytes from the cell controller: the complete frames arrive in turn (R173, R175). -/
def cellBytes (bytes : List Byte) (s : State) : State :=
  let r := s.clu.rx.take s.now bytes
  r.2.foldl receive (modClu (fun c => { c with rx := r.1 }) s)

/-- A complete frame with a request arrives: it is taken at once when the reply slot is empty and no frame waits, and
joins the queue otherwise (R175, log entry 2). A list without an entry gives BAD_LENGTH. -/
def submit (tag : Byte) (r : Request) (s : State) : State :=
  if s.clu.replySlot = none ∧ s.clu.rxQueue = [] then
    if r.wf then takeRequest tag r s else putReply r.kind tag (answer .badLength []) s
  else receive s { kind := r.kind, tag := tag, payload := r.payload }

/-! ### Transmitter -/

/-- A free line begins the reply in the slot if there is one, and otherwise the oldest notice (R175); after a RESET no
notice is begun (R182). -/
def startTx (s : State) : State :=
  if s.clu.tx ≠ .idle then s
  else if s.clu.replySlot.isSome then modClu (fun c => { c with tx := .reply }) s
  else if s.clu.notices ≠ [] ∧ s.clu.resetRequested = false then modClu (fun c => { c with tx := .notice }) s
  else s

/-- An event that the part takes: none is taken while RESET_N is low (R181). The transmitter follows. -/
def live (f : State → State) (s : State) : State := if s.pins.resetLow then s else startTx (f s)

/-! ### Reset -/

/-- The cell link rate that the RATE strap gives (R172). -/
def rateOf (high : Bool) : Nat := if high then 921600 else 460800

/-- The values of every block after reset, the lines that the part does not drive kept (R181). -/
def resetValues (s : State) : State :=
  { State.reset with
    pending := s.pending
    free := s.free
    pins := { Pins.reset with door := s.pins.door, estop := s.pins.estop, rate := s.pins.rate }
    clu := { Clu.reset with rate := rateOf s.pins.rate } }

/-- RCU reads both lines in the step that ends reset (R160). -/
def readLines (s : State) : State :=
  let s := if s.pins.door then modRcu (fun r => { r with causes := { r.causes with door := true } }) s else s
  if s.pins.estop then enterEstop s else s

/-- The step that ends reset, with the RATE strap sampled at a level (R172, R181). -/
def endReset (rate : Bool) (s : State) : State := readLines (resetValues (modPins (fun p => { p with rate := rate }) s))

/-- The last byte of a reply has been sent: the slot is empty and the next frame is taken, or a RESET takes effect
(R175, R182). RATE is sampled in that step (R172, R181); no command brings its level then, so the level is a free choice
(DESIGN CHOICE, log entry 4). The next frame is taken before the free line chooses what to send, so its reply goes out before
notices that wait already: R175 does not order the two (DESIGN CHOICE, log entry 2). -/
def replyDone (s : State) : State :=
  if s.clu.tx ≠ .reply then s
  else if s.clu.resetRequested then
    match drawBool s with
    | (rate, s) => endReset rate s
  else s |> modClu (fun c => { c with tx := .idle, replySlot := none }) |> pump

/-- The last byte of the oldest notice has been sent: it leaves the queue (R178). -/
def noticeDone (s : State) : State :=
  if s.clu.tx ≠ .notice then s else modClu (fun c => { c with tx := .idle, notices := c.notices.drop 1 }) s

/-- RESET_N goes low: every output is low, and frames in progress are cut off (R181). -/
def holdReset (s : State) : State :=
  s |> modPins (fun p => { p with
        resetLow := true, sot := Vector.replicate 4 false, ld := Vector.replicate 16 false, attn := false })
    |> modClu (fun c => { c with tx := .idle })

/-- RESET_N is released with the RATE strap at a level (R181, R172). -/
def releaseReset (rate : Bool) (s : State) : State :=
  if s.pins.resetLow then endReset rate s else s

/-- Power-up completes with the RATE strap at a level (R181, R172). While RESET_N is low the part takes no event, and the
release of RESET_N ends reset (R181, log entry 8). -/
def completePowerUp (rate : Bool) (s : State) : State := if s.pins.resetLow then s else endReset rate s

/-! ### Byte gap -/

/-- A frame partly received whose byte gap has passed 10 ms is discarded (R173). -/
def LinkRx.gap (now : Time) (rx : LinkRx) : LinkRx := if rx.gapPassed now then .hunting else rx

/-- The byte gap of a link passes (R173, R99). -/
def gapTimeout (l : Link) (s : State) : State :=
  match l with
  | .cell => modClu (fun c => { c with rx := c.rx.gap s.now }) s
  | .drive g => modGsq g (fun q => { q with rx := q.rx.gap s.now }) s

end Sys2Proof.Machine
end

