-- ==== Sys2Proof/Machine/Requests.lean ====
section
/-! DEFINITION. The meaning of each request row: a complete frame with that request arrives (R175). What the owning
block does with it stands in `serve`. -/
namespace Sys2Proof.Machine

/-- SETUP_AXIS: R78. -/
def execSetupAxis (tag : Byte) (axis : Byte) (k : Half) (lmax : Word) (park : Word)
    (s : State) : Host.Outcome State Fault Refusal :=
  .next (live (submit tag (.setupAxis axis k lmax park)) s)

/-- SETUP_CAMERA: R79. -/
def execSetupCamera (tag : Byte) (scale : Half) (x : Word) (y : Word) (trims : Vector TrimArg 4)
    (s : State) : Host.Outcome State Fault Refusal :=
  .next (live (submit tag (.setupCamera scale x y trims)) s)

/-- SETUP_SOCKET: R82. -/
def execSetupSocket (tag : Byte) (socket : Byte) (loadX : Word) (loadY : Word) (unloadX : Word) (unloadY : Word) (tx : Half) (ty : Half) (window : Half) (policy : Byte)
    (s : State) : Host.Outcome State Fault Refusal :=
  .next (live (submit tag (.setupSocket socket loadX loadY unloadX unloadY tx ty window policy)) s)

/-- SETUP_SOAK: R80. -/
def execSetupSoak (tag : Byte) (load : GridArg) (unload : GridArg) (s : State) : Host.Outcome State Fault Refusal :=
  .next (live (submit tag (.setupSoak load unload)) s)

/-- SETUP_STATION: R81. -/
def execSetupStation (tag : Byte) (station : Byte) (part : StationPart)
    (s : State) : Host.Outcome State Fault Refusal :=
  .next (live (submit tag (.setupStation station part)) s)

/-- SETUP_CHUTE: R80. -/
def execSetupChute (tag : Byte) (x : Word) (y : Word) (s : State) : Host.Outcome State Fault Refusal :=
  .next (live (submit tag (.setupChute x y)) s)

/-- LOT_OPEN: R23. -/
def execLotOpen (tag : Byte) (lot : Half) (s : State) : Host.Outcome State Fault Refusal :=
  .next (live (submit tag (.lotOpen lot)) s)

/-- SET_LOT: R25. -/
def execSetLot (tag : Byte) (entries : List ParamArg) (s : State) : Host.Outcome State Fault Refusal :=
  .next (live (submit tag (.setLot entries)) s)

/-- SET_BIN: R145. -/
def execSetBin (tag : Byte) (entries : List BinArg) (s : State) : Host.Outcome State Fault Refusal :=
  .next (live (submit tag (.setBin entries)) s)

/-- SET_CATEGORY: R146. -/
def execSetCategory (tag : Byte) (entries : List CategoryArg) (s : State) : Host.Outcome State Fault Refusal :=
  .next (live (submit tag (.setCategory entries)) s)

/-- LOT_START: R26. -/
def execLotStart (tag : Byte) (s : State) : Host.Outcome State Fault Refusal :=
  .next (live (submit tag .lotStart) s)

/-- LOT_PURGE: R29. -/
def execLotPurge (tag : Byte) (s : State) : Host.Outcome State Fault Refusal :=
  .next (live (submit tag .lotPurge) s)

/-- LOT_CLOSE: R31. -/
def execLotClose (tag : Byte) (s : State) : Host.Outcome State Fault Refusal :=
  .next (live (submit tag .lotClose) s)

/-- ARM_INPUT: R38. -/
def execArmInput (tag : Byte) (station : Byte) (mode : Byte) (first : Half) (count : Half) (more : Byte)
    (s : State) : Host.Outcome State Fault Refusal :=
  .next (live (submit tag (.armInput station mode first count more)) s)

/-- ARM_OUTPUT: R151. -/
def execArmOutput (tag : Byte) (station : Byte) (first : Half) (count : Half)
    (s : State) : Host.Outcome State Fault Refusal :=
  .next (live (submit tag (.armOutput station first count)) s)

/-- SOCKET_ENABLE: R117. -/
def execSocketEnable (tag : Byte) (socket : Byte) (s : State) : Host.Outcome State Fault Refusal :=
  .next (live (submit tag (.socketEnable socket)) s)

/-- SOCKET_DISABLE: R118. -/
def execSocketDisable (tag : Byte) (socket : Byte) (s : State) : Host.Outcome State Fault Refusal :=
  .next (live (submit tag (.socketDisable socket)) s)

/-- SOCKET_CLEAR: R120. -/
def execSocketClear (tag : Byte) (socket : Byte) (s : State) : Host.Outcome State Fault Refusal :=
  .next (live (submit tag (.socketClear socket)) s)

/-- SOAK_CLEAR: R5. -/
def execSoakClear (tag : Byte) (position : Byte) (s : State) : Host.Outcome State Fault Refusal :=
  .next (live (submit tag (.soakClear position)) s)

/-- UNIT_CLEAR: R15. -/
def execUnitClear (tag : Byte) (unit : Word) (s : State) : Host.Outcome State Fault Refusal :=
  .next (live (submit tag (.unitClear unit)) s)

/-- HOLD: R163. -/
def execHold (tag : Byte) (s : State) : Host.Outcome State Fault Refusal :=
  .next (live (submit tag .hold) s)

/-- RESUME: R164. -/
def execResume (tag : Byte) (s : State) : Host.Outcome State Fault Refusal :=
  .next (live (submit tag .resume) s)

/-- HOLD_NOW: R163. -/
def execHoldNow (tag : Byte) (s : State) : Host.Outcome State Fault Refusal :=
  .next (live (submit tag .holdNow) s)

/-- RECOVER: R166. -/
def execRecover (tag : Byte) (mask : Byte) (loadPresence : Byte) (unloadPresence : Byte)
    (s : State) : Host.Outcome State Fault Refusal :=
  .next (live (submit tag (.recover mask loadPresence unloadPresence)) s)

/-- SET_MODE: R171. -/
def execSetMode (tag : Byte) (mode : Byte) (driveTimeout : Half) (settleDelay : Half)
    (s : State) : Host.Outcome State Fault Refusal :=
  .next (live (submit tag (.setMode mode driveTimeout settleDelay)) s)

/-- CYCLE: R127. -/
def execCycle (tag : Byte) (mask : Byte) (s : State) : Host.Outcome State Fault Refusal :=
  .next (live (submit tag (.cycle mask)) s)

/-- SET_HOLDPOINT: R168. -/
def execSetHoldpoint (tag : Byte) (index : Byte) (kind : Byte) (value : Word) (enabled : Byte)
    (s : State) : Host.Outcome State Fault Refusal :=
  .next (live (submit tag (.setHoldpoint index kind value enabled)) s)

/-- SET_PROTECT: R170. -/
def execSetProtect (tag : Byte) (value : Byte) (s : State) : Host.Outcome State Fault Refusal :=
  .next (live (submit tag (.setProtect value)) s)

/-- STATUS: R180. -/
def execStatus (tag : Byte) (factor : Byte) (s : State) : Host.Outcome State Fault Refusal :=
  .next (live (submit tag (.status factor)) s)

/-- UNIT_QUERY: R21. -/
def execUnitQuery (tag : Byte) (unit : Word) (place : Half) (s : State) : Host.Outcome State Fault Refusal :=
  .next (live (submit tag (.unitQuery unit place)) s)

/-- SOCKET_QUERY: R135. -/
def execSocketQuery (tag : Byte) (socket : Byte) (s : State) : Host.Outcome State Fault Refusal :=
  .next (live (submit tag (.socketQuery socket)) s)

/-- HEAD_QUERY: R134. -/
def execHeadQuery (tag : Byte) (head : Byte) (s : State) : Host.Outcome State Fault Refusal :=
  .next (live (submit tag (.headQuery head)) s)

/-- STATION_QUERY: R52. -/
def execStationQuery (tag : Byte) (station : Byte) (s : State) : Host.Outcome State Fault Refusal :=
  .next (live (submit tag (.stationQuery station)) s)

/-- LOT_SUMMARY: R33. -/
def execLotSummary (tag : Byte) (s : State) : Host.Outcome State Fault Refusal :=
  .next (live (submit tag .lotSummary) s)

/-- LOG_READ: R157. -/
def execLogRead (tag : Byte) (count : Byte) (s : State) : Host.Outcome State Fault Refusal :=
  .next (live (submit tag (.logRead count)) s)

/-- NOTICE_ENABLE: R179. -/
def execNoticeEnable (tag : Byte) (mask : Word) (s : State) : Host.Outcome State Fault Refusal :=
  .next (live (submit tag (.noticeEnable mask)) s)

/-- NOTICE_CLEAR: R179. -/
def execNoticeClear (tag : Byte) (mask : Word) (s : State) : Host.Outcome State Fault Refusal :=
  .next (live (submit tag (.noticeClear mask)) s)

/-- RESET: R182. -/
def execReset (tag : Byte) (s : State) : Host.Outcome State Fault Refusal :=
  .next (live (submit tag .reset) s)

end Sys2Proof.Machine
end

