-- ==== Sys2Proof/Machine/Events.lean ====
section
/-! DEFINITION. Timer expiries as events: when each falls due, what an expiry does, and which expiries wait at an instant
(R12, R67, R108, R124, R130, R164, R173). An expiry command that is not due changes nothing (log entry 3). -/
namespace Sys2Proof.Machine

/-- A timer that runs to an instant has expired. -/
def timerDue (now : Time) : Option Time → Bool
  | some e => reached e now
  | none => false

/-- A fill or test timer that runs has reached 0. -/
def HeadTimer.due (now : Time) : HeadTimer → Bool
  | .running e => reached e now
  | _ => false

/-- The drive reply timer of a gantry IN_FLIGHT has expired (R108). -/
def driveDue (g : Gantry) (s : State) : Bool := (gsq g s).state = .inFlight && timerDue s.now (gsq g s).timer

/-- The settle timer has expired in RESUMING (R164). -/
def settleDue (s : State) : Bool := s.rcu.run = .resuming && timerDue s.now s.rcu.settle

/-- The fill timer of a head in FILL has reached 0 (R124). -/
def fillDue (h : HeadIx) (s : State) : Bool := s.hsc.heads[h].state = .fill && s.hsc.heads[h].fill.due s.now

/-- The test timer of a head in TEST has reached 0 (R130). -/
def testDue (h : HeadIx) (s : State) : Bool := s.hsc.heads[h].state = .test && s.hsc.heads[h].test.due s.now

/-- A unit's soak has elapsed (R12). -/
def soakDue (u : UnitNo) (s : State) : Bool := (findUnit u s).any (fun r => soakExpired r s)

/-- The staging timer has expired (R67). -/
def stagingDue (s : State) : Bool := timerDue s.now s.xpl.staging

/-- The receiver of a link. -/
def linkRx (l : Link) (s : State) : LinkRx :=
  match l with
  | .cell => s.clu.rx
  | .drive g => (gsq g s).rx

/-- More than 10 ms have passed inside a frame of a link (R173). -/
def gapDue (l : Link) (s : State) : Bool := (linkRx l s).gapPassed s.now

/-- An event is taken if it has come, and changes nothing otherwise. -/
def whenDue (b : Bool) (f : State → State) (s : State) : State := if b then f s else s

/-- The expiries that have come at this instant. -/
def dueEvents (s : State) : List Instr :=
  [Gantry.load, .unload].filterMap (fun g => if driveDue g s then some (.driveReplyTimerExpiry g) else none)
    ++ (if settleDue s then [.settleTimerExpiry] else [])
    ++ allHeads.filterMap (fun h => if fillDue h s then some (.fillTimerExpiry h) else none)
    ++ allHeads.filterMap (fun h => if testDue h s then some (.testTimerExpiry h) else none)
    ++ s.upt.units.filterMap (fun r => if soakExpired r s then some (.soakExpiry r.no) else none)
    ++ (if stagingDue s then [.stagingTimerExpiry] else [])
    ++ [Link.cell, .drive .load, .drive .unload].filterMap
        (fun l => if gapDue l s then some (.byteGapTimeout l) else none)

/-- One of several expiries that fall in one millisecond comes first: which one is open (log entry 5). -/
def pickEvent (first : Instr) (rest : List Instr) (s : State) : State :=
  match rest with
  | [] => { s with pending := [first] }
  | _ :: _ =>
    let d := drawBelow (rest.length + 1) s
    { d.2 with pending := [(first :: rest).getD d.1 first] }

/-- What a step on an empty queue does: nothing while RESET_N is low; the expiry that has come joins the queue; else one
millisecond passes (log entry 1). -/
def idle (s : State) : State :=
  if s.pins.resetLow then s
  else
    match dueEvents s with
    | [] => { s with now := s.now + 1 }
    | e :: es => pickEvent e es s

end Sys2Proof.Machine
end

