-- ==== Sys2Proof/Machine/Signals.lean ====
section
/-! DEFINITION. The meaning of each event row: bytes and frames, the end of sending, completions, timer expiries, the
tester's edge, and the lines of the board. None is taken while RESET_N is low (R181). -/
namespace Sys2Proof.Machine

/-- CELL_FRAME_RECEIVED: R173. -/
def execCellFrameReceived (bytes : List Byte) (s : State) : Host.Outcome State Fault Refusal :=
  .next (live (cellBytes bytes) s)

/-- UNKNOWN_KIND: R175. -/
def execUnknownKind (tag : Byte) (kind : Byte) (payload : List Byte) (s : State) : Host.Outcome State Fault Refusal :=
  .next (live (fun s => receive s { kind := kind, tag := tag, payload := payload }) s)

/-- REPLY_SENT: R175, and the end of a RESET reply, R182. -/
def execReplySent (s : State) : Host.Outcome State Fault Refusal :=
  .next (live replyDone s)

/-- NOTICE_SENT: R178. -/
def execNoticeSent (s : State) : Host.Outcome State Fault Refusal :=
  .next (live noticeDone s)

/-- DONE: R102. -/
def execDone (g : Gantry) (bytes : List Byte) (s : State) : Host.Outcome State Fault Refusal :=
  .next (live (driveBytes g bytes) s)

/-- DRIVE_REPLY_TIMER_EXPIRY: R108. -/
def execDriveReplyTimerExpiry (g : Gantry) (s : State) : Host.Outcome State Fault Refusal :=
  .next (live (fun s => whenDue (driveDue g s) (driveTimeout g) s) s)

/-- SETTLE_TIMER_EXPIRY: R164. -/
def execSettleTimerExpiry (s : State) : Host.Outcome State Fault Refusal :=
  .next (live (fun s => whenDue (settleDue s) settleExpiry s) s)

/-- FILL_TIMER_EXPIRY: R124. -/
def execFillTimerExpiry (head : Fin 4) (s : State) : Host.Outcome State Fault Refusal :=
  .next (live (fun s => whenDue (fillDue head s) (fillExpiry head) s) s)

/-- TEST_TIMER_EXPIRY: R130. -/
def execTestTimerExpiry (head : Fin 4) (s : State) : Host.Outcome State Fault Refusal :=
  .next (live (fun s => whenDue (testDue head s) (testExpiry head) s) s)

/-- SOAK_EXPIRY: R12. -/
def execSoakExpiry (unit : Word) (s : State) : Host.Outcome State Fault Refusal :=
  .next (live (fun s => whenDue (soakDue unit s) (soakExpiry unit) s) s)

/-- STAGING_TIMER_EXPIRY: R67. -/
def execStagingTimerExpiry (s : State) : Host.Outcome State Fault Refusal :=
  .next (live (fun s => whenDue (stagingDue s) stagingExpiry s) s)

/-- EOT: R129. -/
def execEot (head : Fin 4) (lines : Vector BinLine 4) (s : State) : Host.Outcome State Fault Refusal :=
  .next (live (eotEdge head lines) s)

/-- DOOR_ACTIVE: R162. -/
def execDoorActive (s : State) : Host.Outcome State Fault Refusal :=
  .next (if s.pins.resetLow then modPins (fun p => { p with door := true }) s else startTx (doorOpens s))

/-- DOOR_INACTIVE: R162. -/
def execDoorInactive (s : State) : Host.Outcome State Fault Refusal :=
  .next (if s.pins.resetLow then modPins (fun p => { p with door := false }) s else startTx (doorCloses s))

/-- ESTOP_ACTIVE: R165. -/
def execEstopActive (s : State) : Host.Outcome State Fault Refusal :=
  .next (if s.pins.resetLow then modPins (fun p => { p with estop := true }) s else startTx (estopOn s))

/-- ESTOP_INACTIVE: R165. -/
def execEstopInactive (s : State) : Host.Outcome State Fault Refusal :=
  .next (if s.pins.resetLow then estopOff s else startTx (estopOff s))

/-- RESET_N_LOW: R181. -/
def execResetNLow (s : State) : Host.Outcome State Fault Refusal :=
  .next (holdReset s)

/-- RESET_N_RELEASE: R181. -/
def execResetNRelease (rate : Bool) (s : State) : Host.Outcome State Fault Refusal :=
  .next (releaseReset rate s)

/-- POWER_UP: R181. -/
def execPowerUp (rate : Bool) (s : State) : Host.Outcome State Fault Refusal :=
  .next (completePowerUp rate s)

/-- BYTE_GAP_TIMEOUT: R173. -/
def execByteGapTimeout (link : Link) (s : State) : Host.Outcome State Fault Refusal :=
  .next (live (fun s => whenDue (gapDue link s) (gapTimeout link) s) s)

end Sys2Proof.Machine
end

