-- ==== Sys2Proof/Machine/Dispatch.lean ====
section
/-! DEFINITION. The meaning of a command, one arm for each row of spec/opcode_table.json. -/
namespace Sys2Proof.Machine

def exec (i : Instr) (s : State) : Host.Outcome State Fault Refusal :=
  match i with
  | .cellFrameReceived bytes => Sys2Proof.Machine.execCellFrameReceived bytes s
  | .unknownKind tag kind payload => Sys2Proof.Machine.execUnknownKind tag kind payload s
  | .setupAxis tag axis k lmax park => Sys2Proof.Machine.execSetupAxis tag axis k lmax park s
  | .setupCamera tag scale x y trims => Sys2Proof.Machine.execSetupCamera tag scale x y trims s
  | .setupSocket tag socket loadX loadY unloadX unloadY tx ty window policy => Sys2Proof.Machine.execSetupSocket tag socket loadX loadY unloadX unloadY tx ty window policy s
  | .setupSoak tag load unload => Sys2Proof.Machine.execSetupSoak tag load unload s
  | .setupStation tag station part => Sys2Proof.Machine.execSetupStation tag station part s
  | .setupChute tag x y => Sys2Proof.Machine.execSetupChute tag x y s
  | .lotOpen tag lot => Sys2Proof.Machine.execLotOpen tag lot s
  | .setLot tag entries => Sys2Proof.Machine.execSetLot tag entries s
  | .setBin tag entries => Sys2Proof.Machine.execSetBin tag entries s
  | .setCategory tag entries => Sys2Proof.Machine.execSetCategory tag entries s
  | .lotStart tag => Sys2Proof.Machine.execLotStart tag s
  | .lotPurge tag => Sys2Proof.Machine.execLotPurge tag s
  | .lotClose tag => Sys2Proof.Machine.execLotClose tag s
  | .armInput tag station mode first count more => Sys2Proof.Machine.execArmInput tag station mode first count more s
  | .armOutput tag station first count => Sys2Proof.Machine.execArmOutput tag station first count s
  | .socketEnable tag socket => Sys2Proof.Machine.execSocketEnable tag socket s
  | .socketDisable tag socket => Sys2Proof.Machine.execSocketDisable tag socket s
  | .socketClear tag socket => Sys2Proof.Machine.execSocketClear tag socket s
  | .soakClear tag position => Sys2Proof.Machine.execSoakClear tag position s
  | .unitClear tag unit => Sys2Proof.Machine.execUnitClear tag unit s
  | .hold tag => Sys2Proof.Machine.execHold tag s
  | .resume tag => Sys2Proof.Machine.execResume tag s
  | .holdNow tag => Sys2Proof.Machine.execHoldNow tag s
  | .recover tag mask loadPresence unloadPresence => Sys2Proof.Machine.execRecover tag mask loadPresence unloadPresence s
  | .setMode tag mode driveTimeout settleDelay => Sys2Proof.Machine.execSetMode tag mode driveTimeout settleDelay s
  | .cycle tag mask => Sys2Proof.Machine.execCycle tag mask s
  | .setHoldpoint tag index kind value enabled => Sys2Proof.Machine.execSetHoldpoint tag index kind value enabled s
  | .setProtect tag value => Sys2Proof.Machine.execSetProtect tag value s
  | .status tag factor => Sys2Proof.Machine.execStatus tag factor s
  | .unitQuery tag unit place => Sys2Proof.Machine.execUnitQuery tag unit place s
  | .socketQuery tag socket => Sys2Proof.Machine.execSocketQuery tag socket s
  | .headQuery tag head => Sys2Proof.Machine.execHeadQuery tag head s
  | .stationQuery tag station => Sys2Proof.Machine.execStationQuery tag station s
  | .lotSummary tag => Sys2Proof.Machine.execLotSummary tag s
  | .logRead tag count => Sys2Proof.Machine.execLogRead tag count s
  | .noticeEnable tag mask => Sys2Proof.Machine.execNoticeEnable tag mask s
  | .noticeClear tag mask => Sys2Proof.Machine.execNoticeClear tag mask s
  | .reset tag => Sys2Proof.Machine.execReset tag s
  | .replySent => Sys2Proof.Machine.execReplySent s
  | .noticeSent => Sys2Proof.Machine.execNoticeSent s
  | .done g bytes => Sys2Proof.Machine.execDone g bytes s
  | .driveReplyTimerExpiry g => Sys2Proof.Machine.execDriveReplyTimerExpiry g s
  | .settleTimerExpiry => Sys2Proof.Machine.execSettleTimerExpiry s
  | .fillTimerExpiry head => Sys2Proof.Machine.execFillTimerExpiry head s
  | .testTimerExpiry head => Sys2Proof.Machine.execTestTimerExpiry head s
  | .soakExpiry unit => Sys2Proof.Machine.execSoakExpiry unit s
  | .stagingTimerExpiry => Sys2Proof.Machine.execStagingTimerExpiry s
  | .eot head lines => Sys2Proof.Machine.execEot head lines s
  | .doorActive => Sys2Proof.Machine.execDoorActive s
  | .doorInactive => Sys2Proof.Machine.execDoorInactive s
  | .estopActive => Sys2Proof.Machine.execEstopActive s
  | .estopInactive => Sys2Proof.Machine.execEstopInactive s
  | .resetNLow => Sys2Proof.Machine.execResetNLow s
  | .resetNRelease rate => Sys2Proof.Machine.execResetNRelease rate s
  | .powerUp rate => Sys2Proof.Machine.execPowerUp rate s
  | .byteGapTimeout link => Sys2Proof.Machine.execByteGapTimeout link s

end Sys2Proof.Machine
end

