-- ==== Sys2Proof/Safety.lean ====
section
/-! DEFINITION. The terms in which claims about the part are stated: a cell link that takes a request at once, the state
with a reply placed, and the invariants of the blocks, each with the rule or the law it comes from. -/
namespace Sys2Proof.Machine

/-! ### Requests -/

/-- RESET_N is high, the reply slot is empty and no frame waits: a request that arrives is taken at once (R175). -/
def takesNow (s : State) : Prop := s.pins.resetLow = false ∧ s.clu.replySlot = none ∧ s.clu.rxQueue = []

/-- The state in which a reply to a request of the kind and tag stands in the reply slot, begun if the line is free
(R175). -/
def replied (kind tag : Byte) (payload : List Byte) (s : State) : State :=
  startTx { s with clu := { s.clu with
    replySlot := some { kind := kind + 0x80, tag := tag, payload := payload } } }

/-- The state in which bytes that end a frame have left the receiver of the cell link hunting. -/
def hunted (s : State) : State := { s with clu := { s.clu with rx := { buf := [], last := s.now } } }

/-- The state in which bytes that end a frame have left the receiver of a drive link hunting. -/
def driveHunted (g : Gantry) (s : State) : State :=
  modGsq g (fun q => { q with rx := { buf := [], last := s.now } }) s

/-! ### Reset -/

/-- The commands that the part follows while RESET_N is low: the lines of the board (R181). -/
def lineEvent : Instr → Bool
  | .doorActive => true
  | .doorInactive => true
  | .estopActive => true
  | .estopInactive => true
  | .resetNLow => true
  | .resetNRelease _ => true
  | _ => false

/-- The part after reset with its input lines at their levels: RCU has read both lines (R160, R172, R181). The queue of
commands and the count of free choices are no registers and stay (log entries 1 and 5). -/
def afterReset (door estop rate : Bool) (s : State) : State :=
  let base : State :=
    { State.reset with
      pending := s.pending, free := s.free
      pins := { Pins.reset with door := door, estop := estop, rate := rate }
      clu := { Clu.reset with rate := if rate then 921600 else 460800 } }
  if estop then
    { base with
      rcu := { Rcu.reset with run := .estop }
      clu := { base.clu with raised := Factor.estop.bit, args := base.clu.args.set 21 [1] } }
  else if door then { base with rcu := { Rcu.reset with causes := { HoldCauses.none with door := true } } }
  else base

/-! ### Cell link and notices -/

/-- The first factor of a group, and 26 after the last group (Table 11-4). -/
def groupFirst (g : Nat) : Nat := [0, 3, 6, 10, 16, 19, 22, 26].getD g 26

/-- The cell link keeps its bounds, ATTN shows the summaries, and the line is never free while a frame waits
(R175, R177, R178, R181). While RESET_N is low every output is low. -/
structure LinkInv (s : State) : Prop where
  queue : s.clu.rxQueue.length ≤ 4
  notices : s.clu.notices.length ≤ 16
  raised : s.clu.raised.toNat < 2 ^ 26
  enabled : s.clu.enabled.toNat < 2 ^ 26
  waits : s.clu.rxQueue ≠ [] → s.clu.replySlot.isSome
  reply : s.clu.tx = .reply → s.clu.replySlot.isSome
  notice : s.clu.tx = .notice → s.clu.notices ≠ []
  reset : s.clu.resetRequested = true → s.clu.replySlot.isSome
  free : s.pins.resetLow = false → s.clu.tx = .idle → s.clu.replySlot = none ∧ s.clu.notices = []
  attn : s.pins.attn = (!s.pins.resetLow && s.clu.attention)

/-! ### Placement arithmetic -/

/-- A grid of a request has its values in their ranges (Table 5-1). -/
abbrev GridArgInRange (g : GridArg) : Prop :=
  g.originX.toNat ≤ 1200000 ∧ g.originY.toNat ≤ 1200000 ∧ g.columnPitch.toNat ≤ 100000 ∧ g.rowPitch.toNat ≤ 100000

/-- A taught axis has its values in their ranges and its park position in reach (Table 5-1, R78). -/
def AxisTeach.legal (t : AxisTeach) : Prop :=
  1 ≤ t.k ∧ t.k ≤ 20000 ∧ 1 ≤ t.lmax ∧ t.lmax ≤ 16777215 ∧ t.inReach t.park = true

/-- A taught socket has its values in their ranges and its low end in reach (Table 5-1, R82). -/
def SocketTeach.legal (t : SocketTeach) : Prop :=
  2000 ≤ t.load.x ∧ 2000 ≤ t.load.y ∧ t.window ≤ 2000 ∧ t.tx.natAbs ≤ 2000 ∧ t.ty.natAbs ≤ 2000

/-- Everything taught lies in its range, and every taught position lies in reach on the axes of its frame (R77 to
R82). -/
structure TeachInv (s : State) : Prop where
  axes : ∀ g a t, s.pcu.axis g a = some t → t.legal
  camera : ∀ c, s.pcu.camera = some c →
    500 ≤ c.scale ∧ c.scale ≤ 50000 ∧ ∀ n : NozzleIx, c.trimX[n].natAbs ≤ 2000 ∧ c.trimY[n].natAbs ≤ 2000
  trays : ∀ (i : Fin 10) t, s.pcu.trays[i] = some t →
    1 ≤ t.rows ∧ t.rows ≤ 24 ∧ 1 ≤ t.columns ∧ t.columns ≤ 16
  sockets : ∀ (k : SocketIx) t, s.hsc.sockets[k].teach = some t → t.legal
  reach : ∀ g c, c ∈ taughtOn g s → pointReach g c.2 s = true

/-- The order names a place that its gantry serves, a pocket within its taught tray, and no socket of the load gantry,
whose placements are corrected (Table 5-2). -/
def plainPlace (g : Gantry) (o : Order) (s : State) : Prop :=
  match o.kind, o.place with
  | .inspect, _ => g = .load
  | .park, _ => True
  | _, some (.input st (.pocket p)) => g = .load ∧ ∀ t, s.pcu.trays[st.trayIx] = some t → p.val < t.pockets
  | _, some (.input _ .nest) => g = .load
  | _, some (.output st p) => g = .unload ∧ ∀ t, s.pcu.trays[st.trayIx] = some t → p.val < t.pockets
  | _, some (.soak _) => True
  | _, some (.socket _) => g = .unload
  | _, some .chute => g = .unload
  | _, _ => True

/-! ### Lots and estimates -/

/-- Every lot parameter lies in its range (Table 2-2). -/
def LotParams.legal (p : LotParams) : Prop :=
  p.soakTime ≤ 3600000 ∧ p.retestSoakTime ≤ 3600000
    ∧ 1 ≤ p.nominalTestTime ∧ p.nominalTestTime ≤ 600000 ∧ 100 ≤ p.testTimeout ∧ p.testTimeout ≤ 600000
    ∧ p.fillTimeout ≤ 60000 ∧ 1 ≤ p.maxAttempts ∧ p.maxAttempts ≤ 3 ∧ p.quarantineThreshold ≤ 15
    ∧ p.retestReserve ≤ 8 ∧ p.stageHorizon ≤ 10000 ∧ p.lotTrayCount ≤ 65535

/-- The lot parameters lie in their ranges, and each head's time estimate within 1 and 600,000 ms (Table 2-2, the law of
R61). -/
structure EstimateInv (s : State) : Prop where
  params : s.ltc.params.legal
  estimates : ∀ h : HeadIx, 1 ≤ s.xpl.estimates[h] ∧ s.xpl.estimates[h] ≤ 600000

/-! ### Completion log and order queues -/

/-- Records and reservations of the completion log fill at most its 64 entries, and no unit has two (R155). -/
structure LogInv (s : State) : Prop where
  room : s.srt.log.length + s.srt.reservations.length ≤ 64
  once : s.srt.reservations.Nodup

/-- Each order queue holds at most 8 orders (R53). -/
def QueueInv (s : State) : Prop := s.xpl.loadQueue.length ≤ 8 ∧ s.xpl.unloadQueue.length ≤ 8

/-! ### Run control -/

/-- A fill or test timer that does not count. -/
def HeadTimer.still : HeadTimer → Prop
  | .running _ => False
  | _ => True

/-- The hold causes are empty outside HOLD, the settle timer runs in RESUMING alone, the two settings lie in their ranges,
and no fill or test timer counts outside RUN (R160, R133). -/
structure RunInv (s : State) : Prop where
  causes : s.rcu.run ≠ .hold → s.rcu.causes = .none
  settle : s.rcu.settle.isSome = true ↔ s.rcu.run = .resuming
  delay : s.rcu.settleDelay ≤ 5000
  timeout : 50 ≤ s.rcu.driveTimeout ∧ s.rcu.driveTimeout ≤ 30000
  timers : s.rcu.run ≠ .run → ∀ h : HeadIx, s.hsc.heads[h].fill.still ∧ s.hsc.heads[h].test.still

/-! ### Tester lines and zones -/

/-- SOTh is high exactly while head h is in TEST, unless RESET_N is low, when every output is low; LDh.k is high only while
socket k of head h is TESTING and the head is in TEST (the law of R128, Table 7-2, R181); only a head in START_WAIT has a
standing request for its zone, and a head is in TEST only while it holds its own zone (R126). -/
structure SotInv (s : State) : Prop where
  sot : ∀ h : HeadIx, s.pins.sot[h] = (!s.pins.resetLow && s.hsc.heads[h].state = .test)
  ld : ∀ k : SocketIx, s.pins.ld[k] = true →
    s.hsc.sockets[k].state = .testing ∧ s.hsc.heads[headOf k].state = .test
  request : ∀ h : HeadIx, s.zar[h].head = true → s.hsc.heads[h].state = .startWait
  zone : ∀ h : HeadIx, s.hsc.heads[h].state = .test → s.zar[h].holder = .head

end Sys2Proof.Machine
end

