-- ==== Sys2Proof/Certificates/Slice0/Obligations.lean ====
section
/-! DEFINITION. The statements for the provers, each with the rules of spec/ it formalises. -/

open Sys2Proof Sys2Proof.Machine

/-! ### The queue and the step -/

/-- A step takes the command at the front of the queue and runs it on the state with the queue's rest. -/
def Obligations.StepRunsTheFrontCommand : Prop :=
  ∀ (c : Instr) (cs : List Instr) (s : State), s.pending = c :: cs → step s = exec c { s with pending := cs }

/-- A step on an empty queue: nothing while RESET_N is low, an expiry that has come joins the queue, and otherwise one
millisecond passes. That a step takes one millisecond, and that a due expiry becomes a command, are the model's choice
(log entry 1). -/
def Obligations.EmptyQueueLetsAMillisecondPass : Prop :=
  ∀ s : State, s.pending = [] →
    (s.pins.resetLow = true → step s = .next s)
    ∧ (s.pins.resetLow = false → dueEvents s = [] → step s = .next { s with now := s.now + 1 })
    ∧ (s.pins.resetLow = false → dueEvents s ≠ [] →
        ∃ e ∈ dueEvents s, ∃ n, step s = .next { s with pending := [e], free := n })

/-- No command puts a command into the queue or takes one out: the queue is the sender's. -/
def Obligations.CommandsLeaveTheQueueAlone : Prop :=
  ∀ (c : Instr) (s t : State), exec c s = .next t → t.pending = s.pending

/-! ### Frames and the cell link -/

/-- The payload that Table 11-6 gives a request is read back as that request, and fits a frame (R173, R175, R176). -/
def Obligations.RequestPayloadsAreReadBack : Prop :=
  ∀ r : Request, r.wf = true → judge r.kind r.payload = .request r ∧ r.payload.length ≤ 240

/-- CLU receives bytes as R173 gives: what hunting discards, the length above 240, the check, the byte gap, every byte
of a frame read as data, and a complete frame after which CLU hunts again. That the bytes of one arrival share one
instant, so that the gap is tested before the first of them alone, is the model's choice (log entry 23). -/
def Obligations.ReceiverFollowsTheFrameRule : Prop :=
  (∀ b : Byte, rxByte [] b = if b = 0xA5 then ([b], none) else ([], none))
  ∧ (∀ l m : Byte, 240 < (l ++ m).toNat → rxBytes [0xA5, l] [m] = ([], []))
  ∧ (∀ f : Frame, f.payload.length ≤ 240 → rxBytes [] f.bytes = ([], [f]))
  ∧ (∀ (f : Frame) (check : Half), f.payload.length ≤ 240 → check ≠ crc16 f.body →
      rxBytes [] (0xA5 :: (f.body ++ be16 check)) = ([], []))
  ∧ (∀ (f : Frame) (n : Nat), f.payload.length ≤ 240 → n < f.bytes.length →
      rxBytes [] (f.bytes.take n) = (f.bytes.take n, []))
  ∧ (∀ (rx : LinkRx) (now : Time) (bytes : List Byte), bytes ≠ [] →
      rx.take now bytes =
        if rx.buf ≠ [] ∧ 10 < (now - rx.last).toNat then
          ({ buf := (rxBytes [] bytes).1, last := now }, (rxBytes [] bytes).2)
        else ({ buf := (rxBytes rx.buf bytes).1, last := now }, (rxBytes rx.buf bytes).2))

/-- The bytes of a frame that carries a request act on the part as the request's own row, for every request: no byte of
an operand is dropped between the line and the owning block (R173, R175, Table 11-6). -/
def Obligations.FrameOfARequestActsAsItsRow : Prop :=
  ∀ (r : Request) (tag : Byte) (s : State), r.wf = true → s.pins.resetLow = false → s.clu.rx.buf = [] →
    s.clu.replySlot.isSome ∨ s.clu.rxQueue = [] →
    exec (.cellFrameReceived (Frame.bytes { kind := r.kind, tag := tag, payload := r.payload })) s
        = exec (rowOf tag r) (hunted s)
      ∧ (s.clu.replySlot = none →
        exec (.cellFrameReceived (Frame.bytes { kind := r.kind, tag := tag, payload := r.payload })) s
          = .next (startTx (takeRequest tag r (hunted s))))

/-- While a reply stands in the slot a complete frame joins the receive queue if fewer than 4 wait, and is discarded
otherwise; nothing else changes (R175). -/
def Obligations.BusyReplySlotQueuesFrames : Prop :=
  ∀ s : State, s.pins.resetLow = false → s.clu.replySlot ≠ none →
    (∀ (r : Request) (tag : Byte), exec (rowOf tag r) s
      = .next (startTx (if s.clu.rxQueue.length < 4 then
          { s with clu := { s.clu with
            rxQueue := s.clu.rxQueue ++ [{ kind := r.kind, tag := tag, payload := r.payload }] } } else s)))
    ∧ (∀ (tag kind : Byte) (payload : List Byte), exec (.unknownKind tag kind payload) s
      = .next (startTx (if s.clu.rxQueue.length < 4 then
          { s with clu := { s.clu with
            rxQueue := s.clu.rxQueue ++ [{ kind := kind, tag := tag, payload := payload }] } } else s)))

/-- A kind outside Table 11-3 is answered UNKNOWN_KIND, a length that its kind does not admit BAD_LENGTH, a list count of
0 among them, and nothing but the reply changes (R175). -/
def Obligations.UnknownKindsAndLengthsAreRefused : Prop :=
  (∀ (kind : Byte) (p : List Byte), judge kind p = .unknownKind ↔
    kind.toNat ∉ [1, 2, 3, 4, 5, 6, 8, 9, 10, 11, 12, 13, 14, 16, 17, 18, 19, 20, 21, 22, 24, 25, 26, 27, 28, 29, 30, 31,
      32, 33, 34, 35, 36, 37, 38, 40, 41, 47])
  ∧ (∀ (tag kind : Byte) (payload : List Byte) (s : State), takesNow s → judge kind payload = .unknownKind →
      exec (.unknownKind tag kind payload) s = .next (replied kind tag [1] s))
  ∧ (∀ (f : Frame) (s : State), takesNow s → s.clu.rx.buf = [] → f.payload.length ≤ 240 →
      judge f.kind f.payload = .badLength →
      exec (.cellFrameReceived f.bytes) s = .next (replied f.kind f.tag [2] (hunted s)))
  ∧ (∀ (tag : Byte) (s : State), takesNow s →
      exec (.setLot tag []) s = .next (replied 0x09 tag [2] s)
      ∧ exec (.setBin tag []) s = .next (replied 0x0A tag [2] s)
      ∧ exec (.setCategory tag []) s = .next (replied 0x0B tag [2] s))

/-- The last byte of a reply empties the slot, and the oldest waiting frame is taken; the last byte of a notice takes it
out of the queue. The line then begins the reply in the slot, or else the oldest notice (R175, R178). That the frame is taken,
and its reply formed, before the free line chooses what to send is the model's choice (log entry 2). -/
def Obligations.EndOfSendingFreesTheLine : Prop :=
  ∀ s : State, s.pins.resetLow = false →
    (s.clu.tx = .reply → s.clu.resetRequested = false → s.clu.rxQueue = [] →
      exec .replySent s = .next (startTx { s with clu := { s.clu with tx := .idle, replySlot := none } }))
    ∧ (∀ (f : Frame) (fs : List Frame) (r : Request), s.clu.tx = .reply → s.clu.resetRequested = false →
        s.clu.rxQueue = f :: fs → judge f.kind f.payload = .request r →
        exec .replySent s = .next (startTx (takeRequest f.tag r
          { s with clu := { s.clu with tx := .idle, replySlot := none, rxQueue := fs } })))
    ∧ (s.clu.tx = .notice →
        exec .noticeSent s = .next (startTx { s with clu := { s.clu with
          tx := .idle, notices := s.clu.notices.drop 1 } }))
    ∧ (s.clu.tx = .idle → s.clu.replySlot.isSome → (startTx s).clu.tx = .reply)
    ∧ (s.clu.tx = .idle → s.clu.replySlot = none → s.clu.resetRequested = false → s.clu.notices ≠ [] →
        (startTx s).clu.tx = .notice)
    ∧ (s.clu.tx ≠ .idle → startTx s = s)

/-- Every step keeps the bounds of the cell link, ATTN at the level of the summaries, and no frame waiting at a free
line. -/
def Obligations.StepKeepsTheCellLink : Prop :=
  ∀ s t : State, LinkInv s → step s = .next t → LinkInv t

/-! ### Reset -/

/-- While RESET_N is low every output is low and nothing is being sent; the part takes no event, and of its inputs the
levels of DOOR and ESTOP alone are followed (R181). That their levels are followed is the model's choice (log entry
8). -/
def Obligations.NothingIsTakenWhileResetIsLow : Prop :=
  (∀ s : State, exec .resetNLow s = .next
    { s with
      pins := { s.pins with
        resetLow := true, sot := Vector.replicate 4 false, ld := Vector.replicate 16 false, attn := false }
      clu := { s.clu with tx := .idle } })
  ∧ (∀ (c : Instr) (s : State), s.pins.resetLow = true → lineEvent c = false → exec c s = .next s)
  ∧ (∀ s : State, s.pins.resetLow = true →
      exec .doorActive s = .next { s with pins := { s.pins with door := true } }
      ∧ exec .doorInactive s = .next { s with pins := { s.pins with door := false } }
      ∧ exec .estopActive s = .next { s with pins := { s.pins with estop := true } }
      ∧ exec .estopInactive s = .next { s with pins := { s.pins with estop := false } })

/-- The release of RESET_N, and the completion of power-up with RESET_N high, leave the values after reset, with the rate
that the strap gives; an active DOOR is a hold cause, and an active ESTOP makes the run state ESTOP (R160, R172, R181).
That a power-up ends reset from any state with RESET_N high, and nothing while it is low, is the model's reading (log
entry 8). -/
def Obligations.EndOfResetGivesResetValues : Prop :=
  ∀ (rate : Bool) (s : State),
    (s.pins.resetLow = true → exec (.resetNRelease rate) s = .next (afterReset s.pins.door s.pins.estop rate s))
    ∧ (s.pins.resetLow = false → exec (.powerUp rate) s = .next (afterReset s.pins.door s.pins.estop rate s))
    ∧ (s.pins.resetLow = true → exec (.powerUp rate) s = .next s)

/-- RESET is answered OK and changes nothing yet; when its reply has been sent, reset takes effect, with the RATE strap
sampled in that step (R182, R181, R172). That the level sampled there is a free choice is the model's (log entry 4). -/
def Obligations.ResetTakesEffectAfterItsReply : Prop :=
  ∀ (tag : Byte) (s : State),
    (takesNow s → exec (.reset tag) s
      = .next (replied 0x2F tag [0] { s with clu := { s.clu with resetRequested := true } }))
    ∧ (s.pins.resetLow = false → s.clu.tx = .reply → s.clu.resetRequested = true →
        exec .replySent s
          = .next (afterReset s.pins.door s.pins.estop (drawBool s).1 { s with free := s.free + 1 }))

/-- The values after reset that the chapters give: the run state HOLD with no causes and its settings, the lot IDLE with
default parameters, no unit and every place empty, table room 128, estimates 1000 ms, every socket OFF, every head IDLE,
every zone free, the bin map not set and the categories unmapped, every input and output station EMPTY with its counts 0,
no current station and nothing starved or blocked, an empty log, all factors clear and disabled, and the outputs low: ATTN,
every SOT line and every LD line (R20, R35, R36, R53, R93, R113, R122, R128, R136, R144, R150, R155, R160, R181). -/
def Obligations.ResetLeavesTheValuesOfEachChapter : Prop :=
  State.reset.now = 0 ∧ State.reset.rcu.run = .hold ∧ State.reset.rcu.causes = .none
  ∧ State.reset.rcu.settle = none ∧ State.reset.rcu.settleDelay = 500 ∧ State.reset.rcu.driveTimeout = 5000
  ∧ State.reset.rcu.mode = .continuous ∧ State.reset.rcu.clearInHold = false
  ∧ State.reset.ltc.state = .idle ∧ State.reset.ltc.lot = none ∧ State.reset.ltc.params = .defaults
  ∧ State.reset.ltc.closed = none
  ∧ State.reset.upt.units = [] ∧ tableRoom State.reset = 128 ∧ freeCount State.reset = 64
  ∧ (∀ sp : Spot, unitAt sp State.reset = 0)
  ∧ (∀ h : HeadIx, State.reset.xpl.estimates[h] = 1000 ∧ State.reset.hsc.heads[h].state = .idle
      ∧ State.reset.zar[h].holder = .none)
  ∧ (∀ k : SocketIx, State.reset.hsc.sockets[k].state = .off ∧ State.reset.hsc.sockets[k].teach = none)
  ∧ (∀ g : Gantry, (gsq g State.reset).state = .idle ∧ queue g State.reset = [] ∧ parked g State.reset = false)
  ∧ State.reset.fsc.current = none ∧ State.reset.srt.log = [] ∧ State.reset.srt.chuteTotal = 0
  ∧ (∀ b : BinCode, State.reset.srt.binMap[b] = none)
  ∧ (∀ c : Category, State.reset.srt.categories[c] = .unmapped)
  ∧ (∀ st : Side, inStation st State.reset =
      { state := .empty, mode := none, first := 0, armed := 0, next := 0, remaining := 0, more := false, pending := 0,
        picked := 0, empties := 0, unused := 0, noPartRun := 0, endCause := none })
  ∧ State.reset.fsc.starved = false ∧ State.reset.fsc.trayCounter = 0 ∧ State.reset.fsc.counted = false
  ∧ (∀ st : OutStation, outStation st State.reset =
      { state := .empty, first := 0, armed := 0, next := 0, remaining := 0, pending := 0, filled := 0, skipped := 0 })
  ∧ (∀ p : PairIx, State.reset.srt.pairs[p] = { current := none, blocked := false })
  ∧ State.reset.clu.raised = 0 ∧ State.reset.clu.enabled = 0 ∧ State.reset.pins.attn = false
  ∧ (∀ h : HeadIx, State.reset.pins.sot[h] = false) ∧ (∀ k : SocketIx, State.reset.pins.ld[k] = false)

/-- The state after reset meets every invariant of the model. -/
def Obligations.ResetMeetsTheInvariants : Prop :=
  LinkInv State.reset ∧ TeachInv State.reset ∧ EstimateInv State.reset ∧ LogInv State.reset
    ∧ QueueInv State.reset ∧ RunInv State.reset ∧ SotInv State.reset

/-! ### Notices -/

/-- Raising a factor sets its pending flag and its argument, makes a NOTICE frame when the factor is enabled and fewer
than 16 wait, and ATTN follows; nothing else changes (R178). -/
def Obligations.RaisingAFactorMakesItsNotice : Prop :=
  ∀ (f : Factor) (arg : List Byte) (s : State),
    raise f arg s =
      { s with
        clu := { s.clu with
          raised := s.clu.raised ||| BitVec.twoPow 32 f.number.val
          args := s.clu.args.set f.number.val arg
          notices :=
            if s.clu.enabled.getLsbD f.number.val = true ∧ s.clu.notices.length < 16 then
              s.clu.notices ++
                [{ kind := 0xC0, tag := 0, payload := BitVec.ofNat 8 f.number.val :: (be32 s.now ++ arg) }]
            else s.clu.notices }
        pins := { s.pins with
          attn := decide ((s.clu.raised ||| BitVec.twoPow 32 f.number.val) &&& s.clu.enabled &&& 0x03FFFFFF ≠ 0) } }

/-- NOTICE_ENABLE replaces the enable set, NOTICE_CLEAR clears the named factors but for a condition factor whose
condition holds, each with its refusals in their order, and ATTN follows (R179). -/
def Obligations.NoticeRequestsFollowTheirRule : Prop :=
  ∀ (tag : Byte) (m : Word) (s : State), takesNow s →
    (m.toNat < 2 ^ 26 → exec (.noticeEnable tag m) s
      = .next (replied 0x28 tag (0 :: be32 m) (setAttn { s with clu := { s.clu with enabled := m } })))
    ∧ (2 ^ 26 ≤ m.toNat → exec (.noticeEnable tag m) s = .next (replied 0x28 tag [3] s))
    ∧ (2 ^ 26 ≤ m.toNat → exec (.noticeClear tag m) s = .next (replied 0x29 tag [3] s))
    ∧ (m.toNat < 2 ^ 26 → s.rcu.causes.holdPoint = true → s.rcu.clearInHold = false →
        exec (.noticeClear tag m) s = .next (replied 0x29 tag [6] s))
    ∧ (m.toNat < 2 ^ 26 → s.rcu.causes.holdPoint = false ∨ s.rcu.clearInHold = true →
        ∃ set : Word, exec (.noticeClear tag m) s
            = .next (replied 0x29 tag (0 :: be32 set) (setAttn { s with clu := { s.clu with raised := set } }))
          ∧ ∀ i : Fin 32, set.getLsbD i.val =
              (s.clu.raised.getLsbD i.val && (!m.getLsbD i.val || (i.val = 8 && s.srt.log.length ≠ 0)
                || (i.val = 9 && s.srt.log.length = 64))))

/-! ### Requests that read -/

/-- STATUS, UNIT_QUERY, SOCKET_QUERY, STATION_QUERY and LOT_SUMMARY change nothing but the reply slot, and are answered
with the status that their rules give (R180, R21, R135, R52, R159, R33). -/
def Obligations.ReadingRequestsChangeNothing : Prop :=
  ∀ (tag : Byte) (s : State), takesNow s →
    (∀ factor : Byte, ∃ p, exec (.status tag factor) s = .next (replied 0x20 tag p s)
      ∧ p.head? = some (if factor = 0xFF ∨ factor.toNat < 26 then 0 else 3))
    ∧ (∀ (u : Word) (place : Half), ∃ p, exec (.unitQuery tag u place) s = .next (replied 0x21 tag p s)
      ∧ p.head? = some (if u ≠ 0 then (if (findUnit u s).isSome then 0 else 5)
          else if (Place.ofCode place).isSome then 0 else 3))
    ∧ (∀ socket : Byte, ∃ p, exec (.socketQuery tag socket) s = .next (replied 0x22 tag p s)
      ∧ p.head? = some (if socket.toNat < 16 then 0 else 3))
    ∧ (∀ station : Byte, ∃ p, exec (.stationQuery tag station) s = .next (replied 0x24 tag p s)
      ∧ p.head? = some (if station.toNat < 10 then 0 else 3))
    ∧ (∃ p, exec (.lotSummary tag) s = .next (replied 0x25 tag p s)
      ∧ p.head? = some (if s.ltc.state = .idle ∧ s.ltc.closed = none then 5 else 0))

/-- A STATUS reply without a factor holds its 28 bytes in the places of Table 11-5. -/
def Obligations.StatusReplyHasItsLayout : Prop :=
  ∀ (tag : Byte) (s : State), takesNow s →
    ∃ p : List Byte, exec (.status tag 0xFF) s = .next (replied 0x20 tag p s) ∧ p.length = 28
      ∧ rd8 p 0 = 0
      ∧ (∀ g : Fin 7, (rd8 p 1).getLsbD g.val = true ↔ ∃ f : Fin 26, groupFirst g.val ≤ f.val
          ∧ f.val < groupFirst (g.val + 1) ∧ s.clu.raised.getLsbD f.val = true ∧ s.clu.enabled.getLsbD f.val = true)
      ∧ (rd8 p 1).toNat < 128 ∧ rd32 p 2 = s.clu.raised ∧ rd32 p 6 = s.clu.enabled
      ∧ (rd8 p 10).toNat = s.ltc.state.code ∧ (rd8 p 11).toNat = s.rcu.run.code
      ∧ (rd8 p 12).toNat = s.rcu.causes.code ∧ (rd8 p 13).toNat = s.rcu.mode.code
      ∧ (∀ h : HeadIx, (rd8 p 14).toNat / 4 ^ h.val % 4 = s.hsc.heads[h].state.code)
      ∧ (rd8 p 15).toNat = s.gsqL.state.code ∧ (rd8 p 16).toNat = s.gsqU.state.code
      ∧ (rd8 p 17).toNat = (if s.fsc.current = none then 0 else if s.fsc.current = some .a then 1 else 2)
          + (if s.fsc.starved then 4 else 0)
      ∧ (s.srt.log.length ≤ 64 → (rd8 p 18).toNat = s.srt.log.length)
      ∧ (∀ z : HeadIx, (rd8 p (19 + z.val)).toNat = s.zar[z].holder.code + (if s.zar[z].head then 4 else 0)
          + (if s.zar[z].unload then 8 else 0) + (if s.zar[z].load then 16 else 0))
      ∧ rd32 p 23 = s.now ∧ rd8 p 27 = 0xFF

/-- HEAD_QUERY clears the fresh flag and LOG_READ removes the records it returns, but for flag protection, under which
both leave the state as it is (R134, R157, R170). That a reply's fields stand in the order of the rule is DEDUCED (log
entry 10); that the reply counts the reservations before the planner uses the room gained, and gives the number returned
as the count byte of the list, is the model's choice (log entry 11). -/
def Obligations.ReadsThatConsumeFollowProtection : Prop :=
  ∀ (tag : Byte) (s : State), takesNow s →
    (∀ head : Byte, 4 ≤ head.toNat → exec (.headQuery tag head) s = .next (replied 0x23 tag [3] s))
    ∧ (∀ h : HeadIx, exec (.headQuery tag (BitVec.ofNat 8 h.val)) s
        = .next (replied 0x23 tag (0 :: headFields h s)
            (if s.rcu.causes.holdPoint = true ∧ s.rcu.clearInHold = false then s
             else modHead h (fun r => { r with fresh := false }) s)))
    ∧ (∀ count : Byte, count.toNat < 1 ∨ 4 < count.toNat →
        exec (.logRead tag count) s = .next (replied 0x26 tag [3] s))
    ∧ (∀ count : Byte, 1 ≤ count.toNat → count.toNat ≤ 4 →
        (s.rcu.causes.holdPoint = true → s.rcu.clearInHold = false →
          exec (.logRead tag count) s = .next (replied 0x26 tag
            (0 :: (listField LogRec.bytes (s.srt.log.take count.toNat) ++ n8 s.srt.log.length
              ++ n8 s.srt.reservations.length)) s))
        ∧ (s.rcu.causes.holdPoint = false ∨ s.rcu.clearInHold = true →
          exec (.logRead tag count) s = .next (replied 0x26 tag
            (0 :: (listField LogRec.bytes (s.srt.log.take count.toNat) ++ n8 (s.srt.log.length - count.toNat)
              ++ n8 s.srt.reservations.length))
            (settle { s with srt := { s.srt with log := s.srt.log.drop count.toNat } }))))

/-! ### Teach requests and placement arithmetic -/

/-- Outside lot IDLE each of the six teach requests is refused with WRONG_STATE and stores nothing (R77, step 1). -/
def Obligations.TeachRequestsNeedLotIdle : Prop :=
  ∀ (r : Request) (tag : Byte) (s : State), takesNow s → r.wf = true → r.kind.toNat < 7 → s.ltc.state ≠ .idle →
    exec (rowOf tag r) s = .next (replied r.kind tag [4] s)

/-- SETUP_AXIS in lot IDLE with values in range stores the axis when its park position and every position taught on it
lie in reach with the new values, and otherwise stores nothing and answers with the lowest place code that fails; with a
value out of range it is refused (R77, R78). -/
def Obligations.SetupAxisChecksEveryTaughtPosition : Prop :=
  (∀ (tag axis : Byte) (k : Half) (lmax park : Word) (s : State), takesNow s → s.ltc.state = .idle →
    4 ≤ axis.toNat ∨ k.toNat < 1 ∨ 20000 < k.toNat ∨ lmax.toNat < 1 ∨ 16777215 < lmax.toNat ∨ 1200000 < park.toNat →
    exec (.setupAxis tag axis k lmax park) s = .next (replied 0x01 tag [3] s))
  ∧ ∀ (tag axis : Byte) (g : Gantry) (a : Axis) (k : Half) (lmax park : Word) (t : AxisTeach) (s : State), takesNow s →
    s.ltc.state = .idle → axisOf axis = some (g, a) →
    t = { k := k.toNat, lmax := lmax.toNat, park := park.toNat } →
    1 ≤ t.k → t.k ≤ 20000 → 1 ≤ t.lmax → t.lmax ≤ 16777215 → t.park ≤ 1200000 →
    ((t.inReach t.park = true → (∀ c ∈ taughtOn g s, t.inReach (c.2.coord a) = true) →
        exec (.setupAxis tag axis k lmax park) s
          = .next (replied 0x01 tag [0] { s with pcu := s.pcu.setAxis g a t }))
      ∧ (∀ code : Half,
          (∃ c ∈ (noPlace, t.park) :: (taughtOn g s).map (fun c => (c.1, c.2.coord a)),
            c.1 = code ∧ t.inReach c.2 = false) →
          (∀ c ∈ (noPlace, t.park) :: (taughtOn g s).map (fun c => (c.1, c.2.coord a)),
            t.inReach c.2 = false → code.toNat ≤ c.1.toNat) →
          exec (.setupAxis tag axis k lmax park) s = .next (replied 0x01 tag (3 :: be16 code) s)))

/-- SETUP_CAMERA, SETUP_SOAK and SETUP_CHUTE in lot IDLE store their item and answer OK when their values lie in range,
their axes are taught and their positions are in reach; the first of these that fails gives BAD_ARG, NO_SUCH, or BAD_ARG
with the place code, and nothing is stored (R77, R79, R80). -/
def Obligations.SetupCameraSoakAndChuteStoreTheirItem : Prop :=
  ∀ (tag : Byte) (s : State), takesNow s → s.ltc.state = .idle →
    (∀ (scale : Half) (x y : Word) (trims : Vector TrimArg 4) (c : CameraTeach),
      c = { scale := scale.toNat, x := x.toNat, y := y.toNat, trimX := trims.map (fun t => t.x.toInt),
            trimY := trims.map (fun t => t.y.toInt) } →
      exec (.setupCamera tag scale x y trims) s = .next (
        if scale.toNat < 500 ∨ 50000 < scale.toNat ∨ 1200000 < x.toNat ∨ 1200000 < y.toNat
            ∨ ∃ n : NozzleIx, 2000 < trims[n].x.toInt.natAbs ∨ 2000 < trims[n].y.toInt.natAbs then
          replied 0x02 tag [3] s
        else if s.pcu.loadX = none ∨ s.pcu.loadY = none then replied 0x02 tag [5] s
        else if pointReach .load { x := x.toNat, y := y.toNat } s = false then
          replied 0x02 tag (3 :: be16 noPlace) s
        else replied 0x02 tag [0] { s with pcu := { s.pcu with camera := some c } }))
    ∧ (∀ load unload : GridArg,
      exec (.setupSoak tag load unload) s = .next (
        if ¬GridArgInRange load ∨ ¬GridArgInRange unload then replied 0x04 tag [3] s
        else if axesTaught s = false then replied 0x04 tag [5] s
        else if pointReach .load ((gridOf load).cell 7 7) s = false
            ∨ pointReach .unload ((gridOf unload).cell 7 7) s = false then
          replied 0x04 tag (3 :: be16 (Place.soak 63).code) s
        else replied 0x04 tag [0]
          { s with pcu := { s.pcu with soak := some { load := gridOf load, unload := gridOf unload } } }))
    ∧ (∀ x y : Word,
      exec (.setupChute tag x y) s = .next (
        if 1200000 < x.toNat ∨ 1200000 < y.toNat then replied 0x06 tag [3] s
        else if s.pcu.unloadX = none ∨ s.pcu.unloadY = none then replied 0x06 tag [5] s
        else if pointReach .unload { x := x.toNat, y := y.toNat } s = false then
          replied 0x06 tag (3 :: be16 Place.chute.code) s
        else replied 0x06 tag [0] { s with pcu := { s.pcu with chute := some { x := x.toNat, y := y.toNat } } }))

/-- SETUP_STATION and SETUP_SOCKET in lot IDLE store their item and answer OK when their names and values lie in range,
their axes are taught and their positions are in reach; the first of these that fails gives BAD_ARG, NO_SUCH, or BAD_ARG
with the place code, and nothing is stored. A NEST is refused for an output station (R77, R81, R82). -/
def Obligations.SetupStationAndSocketStoreTheirItem : Prop :=
  ∀ (tag : Byte) (s : State), takesNow s → s.ltc.state = .idle →
    (∀ (station rows columns : Byte) (grid : GridArg), 10 ≤ station.toNat →
      exec (.setupStation tag station (.tray rows columns grid)) s = .next (replied 0x05 tag [3] s))
    ∧ (∀ (i : Fin 10) (rows columns : Byte) (grid : GridArg) (t : TrayTeach),
      t = { rows := rows.toNat, columns := columns.toNat, grid := gridOf grid } →
      exec (.setupStation tag (BitVec.ofNat 8 i.val) (.tray rows columns grid)) s = .next (
        if t.rows < 1 ∨ 24 < t.rows ∨ t.columns < 1 ∨ 16 < t.columns ∨ ¬GridArgInRange grid then replied 0x05 tag [3] s
        else if frameTaught (stationGantry i) s = false then replied 0x05 tag [5] s
        else if pointReach (stationGantry i) (t.grid.cell (t.rows - 1) (t.columns - 1)) s = false then
          replied 0x05 tag (3 :: be16 (BitVec.ofNat 16 (i.val * 4096 + (t.rows * t.columns - 1)))) s
        else replied 0x05 tag [0] { s with pcu := { s.pcu with trays := s.pcu.trays.set i.val (some t) } }))
    ∧ (∀ (i : Fin 2) (part : Byte) (x y : Word), part ≠ 0 →
      exec (.setupStation tag (BitVec.ofNat 8 i.val) (.other part x y)) s = .next (
        if part ≠ 1 ∨ 1200000 < x.toNat ∨ 1200000 < y.toNat then replied 0x05 tag [3] s
        else if frameTaught .load s = false then replied 0x05 tag [5] s
        else if pointReach .load { x := x.toNat, y := y.toNat } s = false then
          replied 0x05 tag (3 :: be16 (BitVec.ofNat 16 (i.val * 4096 + 4095))) s
        else replied 0x05 tag [0]
          { s with pcu := { s.pcu with nests := s.pcu.nests.set i.val (some { x := x.toNat, y := y.toNat }) } }))
    ∧ (∀ (station part : Byte) (x y : Word), 2 ≤ station.toNat → part ≠ 0 →
      exec (.setupStation tag station (.other part x y)) s = .next (replied 0x05 tag [3] s))
    ∧ (∀ (socket : Byte) (lx ly ux uy : Word) (tx ty w : Half) (policy : Byte),
      16 ≤ socket.toNat ∨ 2 ≤ policy.toNat →
      exec (.setupSocket tag socket lx ly ux uy tx ty w policy) s = .next (replied 0x03 tag [3] s))
    ∧ (∀ (k : SocketIx) (lx ly ux uy : Word) (tx ty w : Half) (policy : Byte) (t : SocketTeach),
      policy.toNat < 2 →
      t = { load := { x := lx.toNat, y := ly.toNat }, unload := { x := ux.toNat, y := uy.toNat }, tx := tx.toInt,
            ty := ty.toInt, window := w.toNat, policy := if policy = 0 then .strict else .lenient } →
      exec (.setupSocket tag (BitVec.ofNat 8 k.val) lx ly ux uy tx ty w policy) s = .next (
        if 1200000 < t.load.x ∨ 1200000 < t.load.y ∨ 1200000 < t.unload.x ∨ 1200000 < t.unload.y
            ∨ 2000 < t.tx.natAbs ∨ 2000 < t.ty.natAbs ∨ 2000 < t.window then replied 0x03 tag [3] s
        else if axesTaught s = false then replied 0x03 tag [5] s
        else if t.load.x < 2000 ∨ t.load.y < 2000
            ∨ pointReach .load { x := t.load.x + 2000, y := t.load.y + 2000 } s = false
            ∨ pointReach .unload t.unload s = false then
          replied 0x03 tag (3 :: be16 (Place.socket k).code) s
        else replied 0x03 tag [0] { s with hsc := { s.hsc with
          sockets := s.hsc.sockets.set k.val { s.hsc.sockets[k] with teach := some t } } }))

/-- A correction used for a socket placement has magnitude not greater than the socket's capture window (the law of
R87), and each policy treats a correction outside the window and a VOID or absent offset as R87 and R88 give. A divert
raises its factor, releases the socket, which becomes EMPTY, or OFF if it is off-pending, and the load gantry's zone, and
counts a realign of the unit, at most 2, and of the lot; a unit whose count is already 2 becomes a realign reject; its
attempts, excluded set and other route stay (R90, R92). Its PLACE is replaced by one onto the lowest FREE soak position,
reserved with purpose realign, or is removed when none is FREE, and the unit is RETURN_WAIT without a target (R91). That the
replacing PLACE is a new order is the model's choice (log entry 12); that a socket which becomes OFF keeps its off-pending
flag is DEDUCED (log entry 9). -/
def Obligations.CorrectionsKeepTheCaptureWindow : Prop :=
  (∀ (o : Order) (k : SocketIx) (voided : Bool) (s : State), o.placeSocket = some k →
    correction o.unitNo k o.nozzle s = .divert voided → coordinateLoad o s = (false, divert o o.unitNo k voided s))
  ∧ (∀ (o : Order) (u : UnitNo) (k : SocketIx) (voided : Bool) (r : UnitRec) (s t : State), findUnit u s = some r →
    t = divert o u k voided s →
    (gsq .load t).state = .idle ∧ t.clu.raised.getLsbD (if voided then 23 else 24) = true
    ∧ (s.hsc.sockets[k].state = .reserved → t.hsc.sockets[k] = { s.hsc.sockets[k] with
        state := if s.hsc.sockets[k].offPending.isSome then .off else .empty, unit := 0 })
    ∧ (s.zar[headOf k].holder = .load → t.zar[headOf k].holder ≠ .load)
    ∧ t.upt.counters = { s.upt.counters with realigns := satInc s.upt.counters.realigns }
    ∧ (r.realigns = 2 → t.clu.raised.getLsbD 25 = true)
    ∧ ∃ r', findUnit u t = some r' ∧ r'.realigns = min 2 (r.realigns + 1)
      ∧ r'.route = (if r.realigns = 2 then some .realignReject else r.route)
      ∧ r'.attempts = r.attempts ∧ r'.excluded = r.excluded ∧ r'.place = r.place
      ∧ (∀ p : SoakIx, s.upt.soak[p].state = .free → (∀ q : SoakIx, q < p → s.upt.soak[q].state ≠ .free) →
        t.upt.soak = s.upt.soak.set p.val { s.upt.soak[p] with state := .reserved, reservedFor := u }
        ∧ r'.target = some (.soak p)
        ∧ ∃ i, queue .load t = (queue .load s).map (fun q => if q.id = o.id then
            { o with
              id := i, place := some (.soak p), reservation := .soak p, purpose := some .realign, status := .queued }
          else q))
      ∧ ((∀ p : SoakIx, s.upt.soak[p].state ≠ .free) →
        t.upt.soak = s.upt.soak ∧ r'.target = none ∧ r'.state = .returnWait
        ∧ queue .load t = (queue .load s).filter (fun q => q.id ≠ o.id)))
  ∧ ∀ (t : SocketTeach) (nx ny : Int),
    (∀ (off : Option Offset) (cx cy : Int) (clamped voided : Bool),
      correct t nx ny off = .coordinates cx cy clamped voided →
      cx.natAbs ≤ t.window ∧ cy.natAbs ≤ t.window ∧ (t.policy = .strict → clamped = false ∧ voided = false))
    ∧ (∀ mx my : Int, (t.tx + nx - mx).natAbs ≤ t.window → (t.ty + ny - my).natAbs ≤ t.window →
      correct t nx ny (some (.um mx my)) = .coordinates (t.tx + nx - mx) (t.ty + ny - my) false false)
    ∧ (∀ mx my : Int, t.window < (t.tx + nx - mx).natAbs ∨ t.window < (t.ty + ny - my).natAbs →
      (t.policy = .strict → correct t nx ny (some (.um mx my)) = .divert false)
      ∧ (t.policy = .lenient → ∃ cx cy, correct t nx ny (some (.um mx my)) = .coordinates cx cy true false
          ∧ (t.window < (t.tx + nx - mx).natAbs →
              cx = if t.tx + nx - mx < 0 then -(t.window : Int) else (t.window : Int))
          ∧ ((t.tx + nx - mx).natAbs ≤ t.window → cx = t.tx + nx - mx)
          ∧ (t.window < (t.ty + ny - my).natAbs →
              cy = if t.ty + ny - my < 0 then -(t.window : Int) else (t.window : Int))
          ∧ ((t.ty + ny - my).natAbs ≤ t.window → cy = t.ty + ny - my)))
    ∧ (∀ off : Option Offset, off = none ∨ off = some .void →
      (t.policy = .strict → correct t nx ny off = .divert true)
      ∧ (t.policy = .lenient → ∃ cx cy,
          correct t nx ny off = .coordinates cx cy
            (decide (t.window < (t.tx + nx).natAbs ∨ t.window < (t.ty + ny).natAbs)) true
          ∧ (t.window < (t.tx + nx).natAbs → cx = if t.tx + nx < 0 then -(t.window : Int) else (t.window : Int))
          ∧ ((t.tx + nx).natAbs ≤ t.window → cx = t.tx + nx)
          ∧ (t.window < (t.ty + ny).natAbs → cy = if t.ty + ny < 0 then -(t.window : Int) else (t.window : Int))
          ∧ ((t.ty + ny).natAbs ≤ t.window → cy = t.ty + ny)))

/-- Where everything taught is in reach, the counts of every order that is not corrected lie within 0 and the limits of
the axes (the law of R84). -/
def Obligations.PlainPlacesConvertWithinLimits : Prop :=
  ∀ (g : Gantry) (o : Order) (p : Point) (ax ay : AxisTeach) (s : State), TeachInv s → plainPlace g o s →
    taughtPosition g o s = some p → s.pcu.axis g .x = some ax → s.pcu.axis g .y = some ay →
    0 ≤ (orderCounts g o s).1 ∧ (orderCounts g o s).1 ≤ ax.lmax
      ∧ 0 ≤ (orderCounts g o s).2 ∧ (orderCounts g o s).2 ≤ ay.lmax

/-- Where everything taught is in reach, the counts of every corrected socket placement lie within 0 and the limits of
the load axes (the law of R84, R82). -/
def Obligations.CorrectedPlacementsConvertWithinLimits : Prop :=
  ∀ (u : UnitNo) (k : SocketIx) (n : NozzleIx) (cx cy : Int) (clamped voided : Bool) (ax ay : AxisTeach) (s : State),
    TeachInv s → s.pcu.loadX = some ax → s.pcu.loadY = some ay →
    correction u k n s = .coordinates cx cy clamped voided →
    0 ≤ (correctedCounts k cx cy s).1 ∧ (correctedCounts k cx cy s).1 ≤ ax.lmax
      ∧ 0 ≤ (correctedCounts k cx cy s).2 ∧ (correctedCounts k cx cy s).2 ≤ ay.lmax

/-- Every step keeps everything taught in its range and in reach. -/
def Obligations.StepKeepsEverythingTaughtInReach : Prop :=
  ∀ s t : State, TeachInv s → step s = .next t → TeachInv t

/-! ### Places -/

/-- A place code is the kind in the upper 4 bits and the index in the lower 12; the code of a place is read back as it,
a code that is read names exactly its place, and kind 15 names none (R174, R1). -/
def Obligations.PlaceCodesNameTheirPlace : Prop :=
  (∀ p : Place, p.code.toNat = p.kindIndex.1 * 4096 + p.kindIndex.2 ∧ p.kindIndex.1 < 15 ∧ p.kindIndex.2 < 4096
    ∧ Place.ofCode p.code = some p)
  ∧ (∀ (c : Half) (p : Place), Place.ofCode c = some p → p.code = c)
  ∧ (∀ c : Half, c.toNat / 4096 = 15 → Place.ofCode c = none)

/-! ### Lots -/

/-- LOT_OPEN in lot IDLE opens the lot with its defaults, the next unit number at 1, the counters at 0, the bin map not
set and every category unmapped, and discards the closed summary; in any other lot state it is refused (R23, R19, R144,
R146). -/
def Obligations.LotOpenPreparesTheLot : Prop :=
  ∀ (tag : Byte) (lot : Half) (s : State), takesNow s →
    exec (.lotOpen tag lot) s = .next (if s.ltc.state = .idle then
      replied 0x08 tag [0]
        { s with
          ltc := { state := .opened, lot := some lot, params := .defaults,
                   times := { LotTimes.absent with opened := some s.now }, captures := .zero, closed := none }
          upt := { s.upt with nextUnit := 1, counters := .zero }
          srt := { s.srt with
            binMap := Vector.replicate 34 none, categories := Vector.replicate 8 .unmapped } }
      else replied 0x08 tag [4] s)

/-- SET_LOT, SET_BIN and SET_CATEGORY in lot OPEN store every entry of a list whose entries all lie in range and name
nothing twice, and otherwise store nothing and answer BAD_ARG; outside lot OPEN they are refused (R25, R145, R146). -/
def Obligations.LotTablesAreStoredWholeOrNotAtAll : Prop :=
  ∀ (tag : Byte) (s : State), takesNow s →
    (∀ es : List ParamArg, 1 ≤ es.length → es.length ≤ 47 →
      (s.ltc.state ≠ .opened → exec (.setLot tag es) s = .next (replied 0x09 tag [4] s))
      ∧ (s.ltc.state = .opened → (∀ e ∈ es, paramOk e = true) → (es.map ParamArg.number).Nodup →
          exec (.setLot tag es) s = .next (replied 0x09 tag [0]
            { s with ltc := { s.ltc with params := es.foldl LotParams.store s.ltc.params } }))
      ∧ (s.ltc.state = .opened → (∃ e ∈ es, paramOk e = false) ∨ ¬(es.map ParamArg.number).Nodup →
          exec (.setLot tag es) s = .next (replied 0x09 tag [3] s)))
    ∧ (∀ es : List BinArg, 1 ≤ es.length → es.length ≤ 8 →
      (s.ltc.state ≠ .opened → exec (.setBin tag es) s = .next (replied 0x0A tag [4] s))
      ∧ (s.ltc.state = .opened → (∀ e ∈ es, (binOf e).isSome) → (es.map BinArg.bin).Nodup →
          exec (.setBin tag es) s = .next (replied 0x0A tag [0]
            { s with srt := { s.srt with binMap := es.foldl storeBin s.srt.binMap } }))
      ∧ (s.ltc.state = .opened → (∃ e ∈ es, binOf e = none) ∨ ¬(es.map BinArg.bin).Nodup →
          exec (.setBin tag es) s = .next (replied 0x0A tag [3] s)))
    ∧ (∀ es : List CategoryArg, 1 ≤ es.length → es.length ≤ 119 →
      (s.ltc.state ≠ .opened → exec (.setCategory tag es) s = .next (replied 0x0B tag [4] s))
      ∧ (s.ltc.state = .opened → (∀ e ∈ es, (categoryOf e).isSome) → (es.map CategoryArg.category).Nodup →
          exec (.setCategory tag es) s = .next (replied 0x0B tag [0]
            { s with srt := { s.srt with categories := es.foldl storeCategory s.srt.categories } }))
      ∧ (s.ltc.state = .opened → (∃ e ∈ es, categoryOf e = none) ∨ ¬(es.map CategoryArg.category).Nodup →
          exec (.setCategory tag es) s = .next (replied 0x0B tag [3] s)))

/-- LOT_START in lot OPEN starts a lot that passes the five checks of Table 2-3, names the first check that fails
otherwise, and is refused outside lot OPEN (R26, R27, R47, R48, R61). -/
def Obligations.LotStartTakesACheckedLot : Prop :=
  ∀ (tag : Byte) (s : State), takesNow s →
    (s.ltc.state ≠ .opened → exec (.lotStart tag) s = .next (replied 0x0C tag [4] s))
    ∧ (s.ltc.state = .opened → (∃ k : SocketIx, s.hsc.sockets[k].active = true) →
      (∀ b : BinCode, ∃ e, s.srt.binMap[b] = some e ∧ s.srt.categories[e.category] ≠ .unmapped
        ∧ (e.condition ≠ .none → s.srt.categories[e.alternate] ≠ .unmapped)) →
      s.srt.categories[s.ltc.params.purgeCategory] ≠ .unmapped →
      s.ltc.params.nominalTestTime ≤ s.ltc.params.testTimeout → s.ltc.params.retestReserve ≤ 64 →
      exec (.lotStart tag) s = .next (replied 0x0C tag [0] (settle (headsFollow s
        { s with
          ltc := { s.ltc with state := .running, times := { s.ltc.times with started := some s.now } }
          xpl := { s.xpl with estimates := Vector.replicate 4 s.ltc.params.nominalTestTime }
          fsc := { s.fsc with
            trayCounter := BitVec.ofNat 16 s.ltc.params.lotTrayCount
            counted := decide (0 < s.ltc.params.lotTrayCount) } }))))
    ∧ (s.ltc.state = .opened → (∀ k : SocketIx, s.hsc.sockets[k].active = false) →
      exec (.lotStart tag) s = .next (replied 0x0C tag [3, 1] s))
    ∧ (s.ltc.state = .opened → (∃ k : SocketIx, s.hsc.sockets[k].active = true) →
      (∃ b : BinCode, s.srt.binMap[b] = none) → exec (.lotStart tag) s = .next (replied 0x0C tag [3, 2] s))
    ∧ (s.ltc.state = .opened → (∃ k : SocketIx, s.hsc.sockets[k].active = true) →
      (∀ b : BinCode, s.srt.binMap[b] ≠ none) →
      ((∃ (b : BinCode) (e : BinEntry), s.srt.binMap[b] = some e ∧ (s.srt.categories[e.category] = .unmapped
          ∨ (e.condition ≠ .none ∧ s.srt.categories[e.alternate] = .unmapped)))
        ∨ s.srt.categories[s.ltc.params.purgeCategory] = .unmapped) →
      exec (.lotStart tag) s = .next (replied 0x0C tag [3, 3] s))
    ∧ (s.ltc.state = .opened → (∃ k : SocketIx, s.hsc.sockets[k].active = true) →
      (∀ b : BinCode, ∃ e, s.srt.binMap[b] = some e ∧ s.srt.categories[e.category] ≠ .unmapped
        ∧ (e.condition ≠ .none → s.srt.categories[e.alternate] ≠ .unmapped)) →
      s.srt.categories[s.ltc.params.purgeCategory] ≠ .unmapped →
      (s.ltc.params.testTimeout < s.ltc.params.nominalTestTime →
        exec (.lotStart tag) s = .next (replied 0x0C tag [3, 4] s))
      ∧ (s.ltc.params.nominalTestTime ≤ s.ltc.params.testTimeout → 64 < s.ltc.params.retestReserve →
        exec (.lotStart tag) s = .next (replied 0x0C tag [3, 5] s)))

/-- LOT_PURGE is taken in RUNNING and DRAINING, and LOT_CLOSE in DRAINED and OPEN. The purge sets its time and lot PURGING,
or DRAINED when the machine is empty; it leaves no input station STANDBY or ACTIVE, no input PICK QUEUED, STARVED clear
and the staging timer stopped. The close leaves lot IDLE with its closed summary, the counters at 0 and no LOST record;
positions and log stay; a run state RUN or RESUMING becomes HOLD (R29, R50, R74, R31, R34, R19, R51). That the close sets
mode, more flag and end cause of the input stations to their values after reset is DEDUCED (log entry 15). -/
def Obligations.LotPurgeAndLotCloseEndALot : Prop :=
  ∀ (tag : Byte) (s : State), takesNow s →
    exec (.lotPurge tag) s = .next (if s.ltc.state = .running ∨ s.ltc.state = .draining then
        replied 0x0D tag [0] (settle (headsFollow s (purgeLot s))) else replied 0x0D tag [4] s)
    ∧ exec (.lotClose tag) s = .next (if s.ltc.state = .drained ∨ s.ltc.state = .opened then
        replied 0x0E tag [0] (settle (headsFollow s (closeLot s))) else replied 0x0E tag [4] s)
    ∧ (purgeLot s).ltc.times.purge = some s.now
    ∧ ((purgeLot s).ltc.state = .purging ∨ (purgeLot s).ltc.state = .drained)
    ∧ (machineEmpty (purgeLot s) = true → (purgeLot s).ltc.state = .drained)
    ∧ (purgeLot s).xpl.staging = none ∧ (purgeLot s).fsc.starved = false
    ∧ (∀ st : Side, (inStation st (purgeLot s)).state ≠ .standby ∧ (inStation st (purgeLot s)).state ≠ .active)
    ∧ ((s.xpl.loadQueue.map Order.id).Nodup →
        ∀ o ∈ (purgeLot s).xpl.loadQueue, o.isInputPick = true → o.status ≠ .queued)
    ∧ (closeLot s).ltc.state = .idle ∧ (closeLot s).ltc.closed = some (closedSummary s)
    ∧ (closeLot s).upt.counters = .zero ∧ (closeLot s).upt.soak = s.upt.soak
    ∧ (∀ r, r ∈ (closeLot s).upt.units ↔ r ∈ s.upt.units ∧ r.state ≠ .lost)
    ∧ (closeLot s).fsc = .reset ∧ (closeLot s).srt.log = s.srt.log
    ∧ (closeLot s).rcu.run = (if s.rcu.run = .run ∨ s.rcu.run = .resuming then .hold else s.rcu.run)

/-- At a purge every unit that is neither TESTING nor LOST has a route: one that had none is routed to the purge category
with flag PURGED (R149). -/
def Obligations.PurgeRoutesEveryUnit : Prop :=
  ∀ s : State, (s.upt.units.map UnitRec.no).Nodup →
    (∀ r ∈ (purgeRoutes s).upt.units, r.state ≠ .testing → r.state ≠ .lost → r.route ≠ none)
    ∧ (∀ r ∈ s.upt.units, r.state ≠ .testing → r.state ≠ .lost → r.route = none →
        findUnit r.no (purgeRoutes s) = some { r with route := some (.final s.ltc.params.purgeCategory true) })
    ∧ (∀ r ∈ s.upt.units, r.state = .testing ∨ r.state = .lost → findUnit r.no (purgeRoutes s) = some r)

/-- The time to end of a head in TEST is the estimate less the time since SOT, 0 where that is below 0, and a head that is
not in TEST has none (R62). -/
def Obligations.TimeToEndCountsFromSot : Prop :=
  ∀ (h : HeadIx) (t : Time) (s : State),
    (s.hsc.heads[h].state = .test → s.hsc.heads[h].sot = some t →
      timeToEnd h s = some (if (s.now - t).toNat ≤ s.xpl.estimates[h] then s.xpl.estimates[h] - (s.now - t).toNat
        else 0))
    ∧ (s.hsc.heads[h].state ≠ .test → timeToEnd h s = none)

/-- An update of an estimate adds one eighth of the difference, rounded up, and clamps the sum to 1 to 600,000; the other
heads' estimates stay (R61, steps 1 to 3). -/
def Obligations.EstimateMovesByAnEighth : Prop :=
  ∀ est d : Nat, ∃ inc : Int,
    (d : Int) - est ≤ 8 * inc ∧ 8 * inc < (d : Int) - est + 8
    ∧ (1 ≤ est + inc → est + inc ≤ 600000 → (nextEstimate est d : Int) = est + inc)
    ∧ (est + inc < 1 → nextEstimate est d = 1)
    ∧ (600000 < est + inc → nextEstimate est d = 600000)
    ∧ ∀ (h i : HeadIx) (s : State), s.xpl.estimates[h] = est →
        (updateEstimate h d s).xpl.estimates[i] = if i = h then nextEstimate est d else s.xpl.estimates[i]

/-- Every step keeps the lot parameters in their ranges and each head's estimate within 1 and 600,000 ms. -/
def Obligations.StepKeepsParametersAndEstimates : Prop :=
  ∀ s t : State, EstimateInv s → step s = .next t → EstimateInv t

/-! ### Stations -/

/-- ARM_INPUT and ARM_OUTPUT take an EMPTY, taught station with a first pocket and a count inside its tray, fill its
record, and make it ACTIVE or STANDBY; each refusal stands in the order of its rule (R38, R39, R151). That an arming with
mode OPEN leaves first pocket and armed count as they were is the model's choice (log entry 34). A pocket of an output pair
is the next of its ACTIVE station, which counts it as pending, and none is given without one; a station left without a
pocket becomes FINISHING and makes its hand-over: a STANDBY partner becomes ACTIVE and current, and otherwise the pair is
blocked and CATEGORY_BLOCKED raised for each category mapped to it, ascending (R152). A log entry is reserved for a unit
exactly when records and reservations are fewer than 64 and none names the unit (R155). -/
def Obligations.ArmingFillsTheStation : Prop :=
  (∀ (tag : Byte) (first count : Half) (s : State), takesNow s →
    (∀ station mode more : Byte, 2 ≤ station.toNat ∨ 2 ≤ mode.toNat ∨ 2 ≤ more.toNat →
      exec (.armInput tag station mode first count more) s = .next (replied 0x10 tag [3] s))
    ∧ (∀ (st : Side) (m : FeedMode) (more : Bool),
      exec (.armInput tag (BitVec.ofNat 8 st.inputKind) (BitVec.ofNat 8 m.code) first count (if more then 1 else 0)) s
        = .next (
          if (s.ltc.state ≠ .opened ∧ s.ltc.state ≠ .running) ∨ (inStation st s).state ≠ .empty then
            replied 0x10 tag [4] s
          else if taughtFor st m s = false then replied 0x10 tag [5] s
          else if m = .counted ∧ pocketsOk s.pcu.trays[st.trayIx] first.toNat count.toNat = false then
            replied 0x10 tag [3] s
          else replied 0x10 tag [0] (settle (armInput st m first.toNat count.toNat more s)))
      ∧ (armInput st m first.toNat count.toNat more s).fsc.current
          = (if s.fsc.current = none ∨ s.fsc.starved = true then some st else s.fsc.current)
      ∧ inStation st (armInput st m first.toNat count.toNat more s) =
          { state := if s.fsc.current = none ∨ s.fsc.starved = true then .active else .standby
            mode := some m, more := more, endCause := none
            first := if m = .counted then first.toNat else (inStation st s).first
            armed := if m = .counted then count.toNat else (inStation st s).armed
            next := if m = .counted then first.toNat else 0
            remaining := if m = .counted then count.toNat else 0
            pending := 0, picked := 0, empties := 0, unused := 0, noPartRun := 0 }
      ∧ (armInput st m first.toNat count.toNat more s).fsc.starved = false
      ∧ inStation st.other (armInput st m first.toNat count.toNat more s) = inStation st.other s
      ∧ { armInput st m first.toNat count.toNat more s with fsc := s.fsc } = s)
    ∧ (∀ station : Byte, station.toNat < 2 ∨ 10 ≤ station.toNat →
      exec (.armOutput tag station first count) s = .next (replied 0x11 tag [3] s))
    ∧ (∀ st : OutStation,
      exec (.armOutput tag (BitVec.ofNat 8 st.kind) first count) s
        = .next (
          if s.ltc.state = .idle ∨ s.ltc.state = .drained ∨ (outStation st s).state ≠ .empty then
            replied 0x11 tag [4] s
          else if s.pcu.trays[st.trayIx] = none then replied 0x11 tag [5] s
          else if pocketsOk s.pcu.trays[st.trayIx] first.toNat count.toNat = false then replied 0x11 tag [3] s
          else replied 0x11 tag [0] (settle (armOutput st first.toNat count.toNat s)))
      ∧ outStation st (armOutput st first.toNat count.toNat s)
          = { state := if (activeOut st.pair s).isSome then .standby else .active, first := first.toNat,
              armed := count.toNat, next := first.toNat, remaining := count.toNat, pending := 0, filled := 0,
              skipped := 0 }
      ∧ (activeOut st.pair s = none → (armOutput st first.toNat count.toNat s).srt.pairs[st.pair]
          = { current := some st.side, blocked := false })))
  ∧ (∀ (p : PairIx) (s : State),
    ((∀ st : OutStation, st.pair = p → (outStation st s).state ≠ .active) → takePocket p s = none)
    ∧ ∀ (st other : OutStation) (q : Pocket), st.pair = p → other = { pair := p, side := st.side.other } →
      (outStation st s).state = .active → (outStation other s).state ≠ .active → (outStation st s).next = q.val →
      ∃ t, takePocket p s = some (st, q, t)
        ∧ (∀ v : OutStation, v ≠ st → v ≠ other → outStation v t = outStation v s)
        ∧ (∀ v : PairIx, v ≠ p → t.srt.pairs[v] = s.srt.pairs[v])
        ∧ (1 < (outStation st s).remaining → { t with srt := s.srt } = s ∧ outStation other t = outStation other s
          ∧ t.srt.pairs[p] = s.srt.pairs[p] ∧ outStation st t = { outStation st s with
              next := q.val + 1, pending := (outStation st s).pending + 1
              remaining := (outStation st s).remaining - 1 })
        ∧ ((outStation st s).remaining = 1 →
          outStation st t = { outStation st s with
            state := .finishing, next := q.val + 1, pending := (outStation st s).pending + 1, remaining := 0 }
          ∧ ((outStation other s).state = .standby → { t with srt := s.srt } = s
            ∧ outStation other t = { outStation other s with state := .active }
            ∧ t.srt.pairs[p] = { s.srt.pairs[p] with current := some other.side })
          ∧ ((outStation other s).state ≠ .standby → outStation other t = outStation other s
            ∧ t.srt.pairs[p] = { s.srt.pairs[p] with blocked := true }
            ∧ ∃ s1 : State, { s1 with srt := s.srt } = s
              ∧ t = ((List.finRange 8).filter (fun c => s.srt.categories[c] = .pair p)).foldl
                (fun v c => raise .categoryBlocked [BitVec.ofNat 8 c.val] v) s1)))
  ∧ (∀ (u : UnitNo) (s : State) (granted : Prop),
    (granted ↔ s.srt.log.length + s.srt.reservations.length < 64 ∧ (∀ r ∈ s.srt.log, r.no ≠ u)
      ∧ u ∉ s.srt.reservations) →
    (granted → reserveLog u s
      = some { s with srt := { s.srt with reservations := s.srt.reservations ++ [u] } })
    ∧ (¬granted → reserveLog u s = none))

/-- FSC answers with a place from an ACTIVE current station alone. A COUNTED station answers with its next pocket, which it
consumes: next pocket and pending count rise by 1 and remaining falls by 1, and a station left without a pocket becomes
FINISHING with end cause SPENT and makes its hand-over (R40, R44). An OPEN station answers with the nest when no nest pick
is pending, and with none while one is; its state stays (R41). -/
def Obligations.InputPicksTakeTheNextPlace : Prop :=
  (∀ s : State, (∀ st : Side, s.fsc.current = some st → (inStation st s).state ≠ .active) → planInputPick s = none)
  ∧ ∀ (st : Side) (s : State), s.fsc.current = some st → (inStation st s).state = .active →
    ((inStation st s).mode = some .opened →
      ((inStation st s).pending = 0 →
        ∃ t, planInputPick s = some (st, .nest, t) ∧ inStation st t = { inStation st s with pending := 1 }
          ∧ inStation st.other t = inStation st.other s ∧ { t with fsc := s.fsc } = s)
      ∧ ((inStation st s).pending ≠ 0 → planInputPick s = none)
      ∧ InSlot.nest.index = 4095)
    ∧ ∀ p : Pocket, (inStation st s).mode = some .counted → (inStation st s).next = p.val →
      ∃ t, planInputPick s = some (st, .pocket p, t)
        ∧ (1 < (inStation st s).remaining →
          inStation st t = { inStation st s with
            next := p.val + 1, pending := (inStation st s).pending + 1, remaining := (inStation st s).remaining - 1 }
          ∧ inStation st.other t = inStation st.other s ∧ t.fsc.current = some st ∧ { t with fsc := s.fsc } = s)
        ∧ ((inStation st s).remaining = 1 →
          inStation st t = { inStation st s with
            next := p.val + 1, pending := (inStation st s).pending + 1, remaining := 0
            state := .finishing, endCause := some .spent }
          ∧ ∀ limit : Prop, (limit ↔ s.fsc.counted = true ∧
              s.fsc.trayCounter.toNat ≤ if (inStation st.other s).state = .finishing then 2 else 1) →
            ((inStation st s).more = false →
              inStation st.other t = inStation st.other s ∧ t.fsc.current = some st ∧ t.fsc.starved = s.fsc.starved
              ∧ (s.ltc.state = .running → t.ltc.state = .draining ∨ t.ltc.state = .drained))
            ∧ ((inStation st s).more = true → t.ltc = s.ltc)
            ∧ ((inStation st s).more = true → limit →
              inStation st.other t = inStation st.other s ∧ t.fsc.current = some st ∧ t.fsc.starved = s.fsc.starved)
            ∧ ((inStation st s).more = true → ¬limit → (inStation st.other s).state = .standby →
              inStation st.other t = { inStation st.other s with state := .active } ∧ t.fsc.current = some st.other)
            ∧ ((inStation st s).more = true → ¬limit → (inStation st.other s).state ≠ .standby →
              inStation st.other t = inStation st.other s ∧ t.fsc.current = some st ∧ t.fsc.starved = true
              ∧ t.clu.raised.getLsbD 4 = true))

/-- SOCKET_ENABLE, SOCKET_DISABLE and SOCKET_CLEAR act on the socket by its state, with the refusals of their rules
(R117, R118, R120). That a socket which SOCKET_CLEAR turns OFF keeps its off-pending flag is DEDUCED (log entry 9). That the empty report
of SOCKET_DISABLE, and so DRAINED, comes after its cancellations, made in queue order, is the model's choice (log entry
22). -/
def Obligations.SocketRequestsActByTheSocketsState : Prop :=
  ∀ (tag : Byte) (s : State), takesNow s →
    (∀ socket : Byte, 16 ≤ socket.toNat →
      exec (.socketEnable tag socket) s = .next (replied 0x12 tag [3] s)
      ∧ exec (.socketDisable tag socket) s = .next (replied 0x13 tag [3] s)
      ∧ exec (.socketClear tag socket) s = .next (replied 0x14 tag [3] s))
    ∧ ∀ (k : SocketIx) (put : SocketRec → State),
      (∀ r, put r = { s with hsc := { s.hsc with sockets := s.hsc.sockets.set k.val r } }) →
      exec (.socketEnable tag (BitVec.ofNat 8 k.val)) s = .next (
        if s.hsc.sockets[k].state ≠ .off then replied 0x12 tag [4] s
        else if readyToEnable k s = false then replied 0x12 tag [5] s
        else replied 0x12 tag [0] (settle (headsFollow s
          (put { s.hsc.sockets[k] with state := .empty, offPending := none, fails := 0 }))))
      ∧ exec (.socketDisable tag (BitVec.ofNat 8 k.val)) s = .next (
        if s.hsc.sockets[k].state = .off then replied 0x13 tag [4] s
        else replied 0x13 tag [0] (settle (headsFollow s (checkEmpty (disableSocket k s)))))
      ∧ (s.hsc.sockets[k].state = .empty → disableSocket k s = put { s.hsc.sockets[k] with state := .off })
      ∧ (s.hsc.sockets[k].state = .reserved → disableSocket k s =
          cancelWhere .load (fun o => o.placeSocket = some k)
            (put { s.hsc.sockets[k] with offPending := some .host }))
      ∧ (s.hsc.sockets[k].state = .loaded → disableSocket k s =
          evict k (put { s.hsc.sockets[k] with offPending := some .host }))
      ∧ (s.hsc.sockets[k].state = .testing ∨ s.hsc.sockets[k].state = .done ∨ s.hsc.sockets[k].state = .jammed →
          disableSocket k s = put { s.hsc.sockets[k] with offPending := some .host })
      ∧ exec (.socketClear tag (BitVec.ofNat 8 k.val)) s = .next (
        if s.hsc.sockets[k].state ≠ .jammed then replied 0x14 tag [4] s
        else replied 0x14 tag [0] (settle (headsFollow s (put { s.hsc.sockets[k] with
          state := if s.hsc.sockets[k].offPending.isSome then .off else .empty, unit := 0 }))))

/-! ### Units and places -/

/-- SOAK_CLEAR makes a BLOCKED position FREE, and UNIT_CLEAR removes a LOST record, each with its refusals; neither
touches anything else before the planner is told (R5, R15). -/
def Obligations.SoakClearAndUnitClearFollowTheirRules : Prop :=
  ∀ (tag : Byte) (s : State), takesNow s →
    (∀ position : Byte, 64 ≤ position.toNat →
      exec (.soakClear tag position) s = .next (replied 0x15 tag [3] s))
    ∧ (∀ p : SoakIx, exec (.soakClear tag (BitVec.ofNat 8 p.val)) s = .next (
        if s.upt.soak[p].state = .blocked then
          replied 0x15 tag [0] (settle
            { s with upt := { s.upt with soak := s.upt.soak.set p.val { s.upt.soak[p] with state := .free } } })
        else replied 0x15 tag [4] s))
    ∧ exec (.unitClear tag 0) s = .next (replied 0x16 tag [3] s)
    ∧ (∀ u : Word, u ≠ 0 → (∀ r ∈ s.upt.units, r.no ≠ u) →
        exec (.unitClear tag u) s = .next (replied 0x16 tag [5] s))
    ∧ (∀ (u : Word) (r : UnitRec), u ≠ 0 → findUnit u s = some r →
        exec (.unitClear tag u) s = .next (
          if r.state ≠ .lost then replied 0x16 tag [4] s
          else replied 0x16 tag [0] (settle
            { s with upt := { s.upt with units := s.upt.units.filter (fun r => r.no ≠ u) } })))

/-- UPT answers a request for a soak position with the FREE position of lowest index, RESERVED for the unit, unless none
is FREE or a fresh unit would take one of the last r FREE positions; an answer "none" changes nothing (R4). -/
def Obligations.SoakRequestsKeepTheRetestReserve : Prop :=
  ∀ (purpose : Purpose) (u : UnitNo) (s : State),
    (∀ (p : SoakIx) (t : State), reserveSoak purpose u s = some (p, t) →
      s.upt.soak[p].state = .free ∧ (∀ q : SoakIx, q < p → s.upt.soak[q].state ≠ .free)
        ∧ t = { s with upt := { s.upt with
            soak := s.upt.soak.set p.val { s.upt.soak[p] with state := .reserved, reservedFor := u } } }
        ∧ freeCount t + 1 = freeCount s
        ∧ (purpose = .fresh → retestReserve s ≤ freeCount t))
    ∧ (reserveSoak purpose u s = none ↔
        (∀ p : SoakIx, s.upt.soak[p].state ≠ .free) ∨ (purpose = .fresh ∧ freeCount s ≤ retestReserve s))

/-- A PLACE onto a soak position that is done moves the unit there and sets its record from the purpose of the
reservation, by the table of R11. -/
def Obligations.SoakArrivalSetsTheRecord : Prop :=
  ∀ (u : UnitNo) (p : SoakIx) (purpose : Purpose) (r : UnitRec) (s : State), findUnit u s = some r →
    ∃ r', findUnit u (arriveSoak u p purpose s) = some r'
      ∧ r'.place = some (.soak p) ∧ r'.soakStart = some s.now ∧ r'.target = none
      ∧ (purpose = .fresh → r'.soakTarget = s.ltc.params.soakTime
          ∧ r'.state = if s.ltc.params.soakTime = 0 then .ready else .soaking)
      ∧ (purpose = .retest → r'.soakTarget = s.ltc.params.retestSoakTime
          ∧ r'.state = if s.ltc.params.retestSoakTime = 0 then .ready else .soaking)
      ∧ (purpose = .giveBack → r'.soakTarget = 0 ∧ r'.state = .ready)
      ∧ (purpose = .realign → r'.soakTarget = 0
          ∧ r'.state = if r.route = some .realignReject then .rejectWait else .ready)
      ∧ (arriveSoak u p purpose s).upt.soak[p].state = .occupied
      ∧ (arriveSoak u p purpose s).upt.soak[p].unit = u

/-- A unit that becomes LOST keeps its record with its last place and no place and no target; UNIT_LOST is raised, and no
other unit's record number is lost (R14). -/
def Obligations.LossKeepsTheRecord : Prop :=
  ∀ (u : UnitNo) (r : UnitRec) (s : State), findUnit u s = some r → r.state ≠ .lost →
    findUnit u (loseUnit u s) = some { r with state := .lost, lastPlace := r.place, place := none, target := none }
    ∧ (loseUnit u s).upt.counters.lost = satInc s.upt.counters.lost
    ∧ (loseUnit u s).clu.raised.getLsbD 17 = true
    ∧ u ∉ (loseUnit u s).xpl.readyList
    ∧ (loseUnit u s).upt.units.map UnitRec.no = s.upt.units.map UnitRec.no

/-- A unit that is retired leaves the table and its spot, its completion record takes the place of its reservation at the
end of the log, and the counter of its destination rises (R16, R156). -/
def Obligations.RetirementMovesTheRecordToTheLog : Prop :=
  ∀ (u : UnitNo) (r : UnitRec) (dest : Place) (s : State), findUnit u s = some r → u ∈ s.srt.reservations →
    (retire u dest s).srt.log = s.srt.log ++ [r.logRec dest s.now]
    ∧ u ∉ (retire u dest s).srt.reservations
    ∧ findUnit u (retire u dest s) = none
    ∧ (∀ sp, r.place = some sp → unitAt sp (retire u dest s) = 0)
    ∧ (dest = .chute → (retire u dest s).upt.counters.chute = satInc s.upt.counters.chute)
    ∧ (∀ (st : OutStation) (pocket : Pocket) (c : Category) (purged : Bool), dest = .output st pocket →
        r.route = some (.final c purged) →
        (retire u dest s).upt.counters.binned[c] = satInc s.upt.counters.binned[c])
    ∧ (retire u dest s).upt.counters.created = s.upt.counters.created
    ∧ (retire u dest s).upt.counters.lost = s.upt.counters.lost

/-- Every step keeps the records and reservations of the completion log within its 64 entries, and each order queue within
8 orders. -/
def Obligations.StepKeepsTheLogAndTheQueues : Prop :=
  ∀ s t : State, step s = .next t → (LogInv s → LogInv t) ∧ (QueueInv s → QueueInv t)

/-! ### Run control -/

/-- HOLD, HOLD_NOW and DOOR by run state, and what an entry to HOLD does: waiting requests are withdrawn, timers pause
with what remains, zones keep their holders, and no order, unit or place changes (R97, R126, R133, R161, R162, R163). Check
2 of an issue attempt passes an order that the pass grant names, which is used up, and one that no enabled hold point
matches, where a grant that names another order becomes none. An order that one matches is recorded as its gantry's held
order and stays as it is, its gantry is HELD, and HOLD is entered with cause HOLD_POINT, and HOLD_ENTERED with the lowest
matching entry, gantry, kind, place and unit (R96, R169). That orders are told apart by numbers of the model's own is its
choice (log entry 12). -/
def Obligations.HoldStopsWithoutCancelling : Prop :=
  (∀ (tag : Byte) (s : State), takesNow s →
    exec (.hold tag) s = .next (match s.rcu.run with
      | .estop => replied 0x18 tag [4] s
      | .hold => replied 0x18 tag [0] { s with rcu := { s.rcu with causes := { s.rcu.causes with host := true } } }
      | _ => replied 0x18 tag [0] (enterHold { HoldCauses.none with host := true } [] s))
    ∧ exec (.holdNow tag) s = .next (match s.rcu.run with
      | .estop => replied 0x1A tag [4] s
      | .hold => replied 0x1A tag [0]
          { s with rcu := { s.rcu with causes := { s.rcu.causes with holdPoint := true } } }
      | _ => replied 0x1A tag [0] (enterHold { HoldCauses.none with holdPoint := true } [] s)))
  ∧ (∀ s : State, s.pins.resetLow = false → s.pins.door = false →
    exec .doorActive s = .next (startTx (
      let d : State := { s with pins := { s.pins with door := true } }
      match s.rcu.run with
      | .estop => d
      | .hold => { d with rcu := { s.rcu with causes := { s.rcu.causes with door := true } } }
      | _ => enterHold { HoldCauses.none with door := true } [] d)))
  ∧ (∀ s : State, s.pins.resetLow = false → exec .doorInactive s = .next (startTx (
      let d : State := { s with pins := { s.pins with door := false } }
      match s.rcu.run with
      | .hold => { d with rcu := { s.rcu with causes := { s.rcu.causes with door := false } } }
      | _ => d)))
  ∧ (∀ (c : HoldCauses) (arg : List Byte) (s t : State), t = enterHold c arg s →
    t.rcu = { s.rcu with run := .hold, causes := c, settle := none }
    ∧ t.clu.raised.getLsbD 19 = true ∧ t.clu.args[19] = BitVec.ofNat 8 c.code :: arg
    ∧ (∀ g : Gantry, (gsq g t).state = if (gsq g s).state = .zoneWait then .held else (gsq g s).state)
    ∧ (∀ z : HeadIx, t.zar[z] = { holder := s.zar[z].holder, head := false, unload := false, load := false })
    ∧ (∀ h : HeadIx, t.hsc.heads[h].fill = s.hsc.heads[h].fill.pause s.now
        ∧ t.hsc.heads[h].test = s.hsc.heads[h].test.pause s.now
        ∧ t.hsc.heads[h].state = s.hsc.heads[h].state)
    ∧ t.hsc.sockets = s.hsc.sockets ∧ t.upt = s.upt ∧ t.xpl = s.xpl ∧ t.fsc = s.fsc ∧ t.ltc = s.ltc ∧ t.srt = s.srt
    ∧ t.pcu = s.pcu ∧ t.now = s.now)
  ∧ (∀ (g : Gantry) (o : Order) (s granted : State) (hit : Fin 4 → Prop),
    granted = (match g with
      | .load => { s with rcu := { s.rcu with grantLoad := none } }
      | .unload => { s with rcu := { s.rcu with grantUnload := none } }) →
    (∀ i : Fin 4, hit i ↔ s.rcu.holdPoints[i].enabled = true ∧ (o.kind = .pick ∨ o.kind = .place)
      ∧ ((∃ p, o.place = some p ∧ s.rcu.holdPoints[i].what = .place p.code)
        ∨ s.rcu.holdPoints[i].what = .unit (match o.unit with
          | .unit u => u
          | _ => 0))) →
    (passGrant g s = some o.id → checkHoldPoint g o s = (true, granted))
    ∧ (passGrant g s ≠ some o.id → (∀ i, ¬hit i) → checkHoldPoint g o s = (true, granted))
    ∧ (∀ (i : Fin 4) (p : Place), passGrant g s ≠ some o.id → hit i → (∀ j : Fin 4, j < i → ¬hit j) →
      o.place = some p → ∃ t, checkHoldPoint g o s = (false, t)
        ∧ t.rcu = { granted.rcu with
            run := .hold, causes := { HoldCauses.none with holdPoint := true }, settle := none
            heldLoad := if g = .load then some o.id else s.rcu.heldLoad
            heldUnload := if g = .unload then some o.id else s.rcu.heldUnload }
        ∧ gsq g t = { gsq g s with state := .held }
        ∧ t.clu.raised.getLsbD 19 = true
        ∧ t.clu.args[19] = [4, BitVec.ofNat 8 i.val, BitVec.ofNat 8 (gantryCode g), if o.kind = .pick then 1 else 3]
            ++ be16 p.code ++ be32 (match o.unit with
              | .unit u => u
              | _ => 0)
        ∧ (∀ z : HeadIx, t.zar[z].holder = s.zar[z].holder ∧ t.zar[z].head = false ∧ t.zar[z].unload = false
            ∧ t.zar[z].load = false)
        ∧ t.xpl = s.xpl ∧ t.upt = s.upt ∧ t.hsc.sockets = s.hsc.sockets
        ∧ (canAttempt g s = true → headOrder g s = some o → s.rcu.run = .run → attempt g s = t)))

/-- RESUME is judged in the order of R164; when it passes, the held orders become the pass grants, the causes are cleared
and the settle timer runs; with a delay of 0 the run state goes on to RUN in the same step. -/
def Obligations.ResumeStartsTheSettleTimer : Prop :=
  ∀ (tag : Byte) (s r : State), takesNow s →
    r = { s with rcu := { s.rcu with
      run := .resuming, causes := .none, settle := some (s.now + BitVec.ofNat 32 s.rcu.settleDelay)
      grantLoad := s.rcu.heldLoad.or s.rcu.grantLoad, grantUnload := s.rcu.heldUnload.or s.rcu.grantUnload
      heldLoad := none, heldUnload := none } } →
    exec (.resume tag) s = .next (
      if s.pins.estop then replied 0x19 tag [7] s
      else if s.rcu.run ≠ .hold then replied 0x19 tag [4] s
      else if s.pins.door then replied 0x19 tag [7] s
      else if s.ltc.state ≠ .running ∧ s.ltc.state ≠ .draining ∧ s.ltc.state ≠ .purging then replied 0x19 tag [4] s
      else if s.rcu.settleDelay = 0 then replied 0x19 tag [0] (returnToRun r)
      else replied 0x19 tag [0] r)

/-- Plans are made in RUN alone. Outside RUN what closes a step plans and issues nothing, and only turns a gantry whose
queue waits into HELD (R57, R95, R96). In RUN a gantry is evaluated exactly when R57 lets it be, both in either order, and
what closes a step begins with these evaluations, in rounds that are DEDUCED (log entry 6). The socket chosen for a unit
is eligible and of lowest index in the fullest head, the lowest head on a tie, and none is chosen only where none is
eligible (R60). Of the trips, the first legs of these are stated: a nozzle trip begins with the lowest nozzle whose unit
has a placement by the table of R64, where a STAGED unit that an earlier examination left without a socket goes back to
the plate (R70, log entry 18); a socket trip takes the first unit of the ready list that has a socket, passing over those
before it (R65); an input trip under soak takes the next pocket of the ACTIVE station with the soak position granted
(R66); an unload nozzle trip begins with the lowest nozzle whose unit's destination accepts it, and a pickup trip with the
first candidate whose destination accepts it, passing over those before it: the units in DONE sockets, heads in order of
capture, and then those on the plate with a final route and no PICK planned (R68), each with the destination and the
reservation of R69. Where no trip plans a leg the evaluation ends in a PARK alone, if the parked flag is clear and the
queue empty, and plans nothing otherwise (R57). The legs after the first, trips under soak bypass and staging trips (R66,
R67) are not stated. -/
def Obligations.PlansAreMadeInRunWithTheseFirstLegs : Prop :=
  (∀ s : State, s.rcu.run ≠ .run → ∃ n, settle s =
    { s with
      free := n
      gsqL := if canAttempt .load s then { s.gsqL with state := .held } else s.gsqL
      gsqU := if canAttempt .unload s then { s.gsqU with state := .held } else s.gsqU })
  ∧ (∀ (g : Gantry) (s : State) (atRest : Prop),
    (atRest ↔ queue g s = [] ∨ ∃ o, queue g s = [o] ∧ o.kind = .park ∧ o.status = .queued) →
    (atRest → (gsq g s).state ≠ .fault → s.rcu.run = .run →
        s.ltc.state = .running ∨ s.ltc.state = .draining ∨ s.ltc.state = .purging → evaluate g s = plan g s)
    ∧ (¬(atRest ∧ (gsq g s).state ≠ .fault ∧ s.rcu.run = .run
        ∧ (s.ltc.state = .running ∨ s.ltc.state = .draining ∨ s.ltc.state = .purging)) → evaluate g s = s))
  ∧ (∀ s : State, ∃ n,
    evaluateBoth s = evaluate .unload (evaluate .load { s with free := n })
    ∨ evaluateBoth s = evaluate .load (evaluate .unload { s with free := n }))
  ∧ (∀ s : State, settle s = issueRound s (evaluateBoth s)
    ∨ ∃ n, settle s = rounds n (issueRound s (evaluateBoth s)))
  ∧ (∀ (ex : BitVec 16) (s : State) (ok : SocketIx → Prop),
    (∀ k, ok k ↔ s.hsc.sockets[k].state = .empty ∧ s.hsc.sockets[k].offPending = none ∧ ex.getLsbD k.val = false
      ∧ s.hsc.heads[headOf k].state = .fill ∧ s.hsc.heads[headOf k].fillExpired = false) →
    (∀ k, chooseSocket ex s = some k → ok k ∧ ∀ j, ok j →
      countSockets (headOf j) .loaded s < countSockets (headOf k) .loaded s
      ∨ (countSockets (headOf j) .loaded s = countSockets (headOf k) .loaded s ∧ k ≤ j))
    ∧ (chooseSocket ex s = none ↔ ∀ k, ¬ok k))
  ∧ (∀ (s t : State), t = plan .load s → (∀ n : NozzleIx, s.upt.loadNozzles[n] = 0) → findUnit 0 s = none →
    queue .load s = [] →
    (∀ (pre us : List UnitNo) (u : UnitNo) (r : UnitRec) (q : SoakIx) (k : SocketIx),
      s.ltc.state = .running ∨ s.ltc.state = .draining → s.xpl.readyList = pre ++ u :: us → u ∉ pre → u ∉ us →
      (∀ v ∈ pre, ∀ w, findUnit v s = some w → chooseSocket w.excluded s = none) → findUnit u s = some r →
      r.place = some (.soak q) → chooseSocket r.excluded s = some k →
      (∃ o, headOrder .load t = some o ∧ o.kind = .pick ∧ o.unit = .unit u ∧ o.place = some (.soak q) ∧ o.nozzle = 0
        ∧ o.status = .queued)
      ∧ (∃ o ∈ queue .load t, o.kind = .place ∧ o.unit = .unit u ∧ o.place = some (.socket k) ∧ o.nozzle = 0
        ∧ o.reservation = .socket k ∧ o.status = .queued)
      ∧ (∃ o ∈ queue .load t, o.kind = .inspect ∧ o.mask.getLsbD 0 = true)
      ∧ (queue .load t).length ≤ 7
      ∧ t.hsc.sockets[k].state = .reserved ∧ u ∉ t.xpl.readyList
      ∧ findUnit u t = some { r with target := some (.socket k) })
    ∧ (∀ (st : Side) (p : Pocket) (q : SoakIx) (s' : State),
      s.ltc.state = .running → s.xpl.readyList = [] → s.fsc.current = some st → (inStation st s).state = .active →
      (inStation st s).mode = some .counted → (inStation st s).next = p.val → 0 < tableRoom s →
      0 < s.ltc.params.soakTime → reserveSoak .fresh 0 s = some (q, s') →
      (∃ o, headOrder .load t = some o ∧ o.kind = .pick ∧ o.unit = .none ∧ o.place = some (.input st (.pocket p))
        ∧ o.nozzle = 0 ∧ o.status = .queued)
      ∧ (∃ o ∈ queue .load t, o.kind = .place ∧ o.unit = .created ∧ o.place = some (.soak q) ∧ o.nozzle = 0
        ∧ o.reservation = .soak q ∧ o.purpose = some .fresh)
      ∧ t.upt.soak[q].state = .reserved ∧ s.upt.pendingCreations < t.upt.pendingCreations))
  ∧ (∀ (g : Gantry) (s : State),
    (parked g s = false → queue g s = [] →
      ∃ o, queue g (planPark g s) = [o] ∧ o.kind = .park ∧ o.status = .queued ∧ o.reservation = .none)
    ∧ (parked g s = true ∨ queue g s ≠ [] → planPark g s = s))
  ∧ (∀ s s1 s2 : State, nozzleLegs nozzleLeg allNozzles s = ([], s1) →
    (if lotTesting s1 then socketLegs s1.xpl.readyList (freeNozzles .load s1) 3 s1 else ([], s1)) = ([], s2) →
    inputTrip s2 = none → (stagingTrip s2).1 = false → plan .load s = planPark .load (stagingTrip s2).2)
  ∧ (∀ s s1 s2 : State, nozzleLegs unloadNozzleLeg allNozzles s = ([], s1) →
    pickupLegs (doneUnits s1 ++ plateUnits s1) (freeNozzles .unload s1) s1 = ([], s2) →
    plan .unload s = planPark .unload s2)
  ∧ (∀ (n : NozzleIx) (l : Leg) (s s' : State),
    ((∀ m : NozzleIx, m < n → nozzleLeg m s = (none, s)) → nozzleLeg n s = (some l, s') →
      ∃ o, headOrder .load (plan .load s) = some o ∧ o.kind = .place ∧ o.unit = l.unit ∧ o.place = l.dest ∧ o.nozzle = n
        ∧ o.reservation = l.reservation ∧ o.purpose = l.purpose ∧ o.status = .queued)
    ∧ ((∀ m : NozzleIx, m < n → unloadNozzleLeg m s = (none, s)) → unloadNozzleLeg n s = (some l, s') →
      ∃ o, headOrder .unload (plan .unload s) = some o ∧ o.kind = .place ∧ o.unit = l.unit ∧ o.place = l.dest
        ∧ o.nozzle = n ∧ o.reservation = l.reservation ∧ o.purpose = l.purpose ∧ o.status = .queued))
  ∧ (∀ (n : NozzleIx) (r : UnitRec) (s : State), findUnit (nozzleUnit .load n s) s = some r →
    (r.state = .staged → s.ltc.state ≠ .purging → r.hasFinal = false → r.noSocket = false →
      (∀ k, chooseSocket r.excluded s = some k → nozzleLeg n s =
        (some { nozzle := n, unit := .unit r.no, source := none, dest := some (.socket k), reservation := .socket k
                purpose := none }, setTarget r.no (some (.socket k)) (reserveSocket k s)))
      ∧ (chooseSocket r.excluded s = none → nozzleLeg n s = (none, examineRetest r.no s)))
    ∧ (∀ purpose : Purpose,
      (r.state = .staged ∧ (s.ltc.state = .purging ∨ r.hasFinal = true ∨ r.noSocket = true) ∧ purpose = .giveBack)
      ∨ (r.state = .returnWait ∧ purpose = .giveBack)
      ∨ (r.state = .onLoad ∧ r.target = none ∧ purpose = if r.soakStart = none ∧ 0 < s.ltc.params.soakTime
          ∧ (s.ltc.state = .running ∨ s.ltc.state = .draining) then .fresh else .giveBack) →
      (∀ p t, reserveSoak purpose r.no s = some (p, t) → nozzleLeg n s =
        (some { nozzle := n, unit := .unit r.no, source := none, dest := some (.soak p), reservation := .soak p,
                purpose := some purpose }, setTarget r.no (some (.soak p)) t))
      ∧ (reserveSoak purpose r.no s = none → nozzleLeg n s = (none, s)))
    ∧ (r.state ≠ .staged → r.state ≠ .returnWait → r.state ≠ .onLoad ∨ r.target ≠ none → nozzleLeg n s = (none, s)))
  ∧ (∀ (n : NozzleIx) (r : UnitRec) (s : State), findUnit (nozzleUnit .unload n s) s = some r →
    (∀ l t, unloadLeg n r none s = some (l, t) → unloadNozzleLeg n s = (some l, t))
    ∧ (unloadLeg n r none s = none → unloadNozzleLeg n s = (none, s)))
  ∧ (∀ (n : NozzleIx) (r : UnitRec) (source : Option Place) (s : State) (leg : Place → Reservation → Option Purpose → Leg),
    (∀ p v purpose, leg p v purpose =
      { nozzle := n, unit := .unit r.no, source := source, dest := some p, reservation := v, purpose := purpose }) →
    (∀ (c : Category) (purged : Bool) (p : PairIx), r.route = some (.final c purged) → s.srt.categories[c] = .pair p →
      (reserveLog r.no s = none → unloadLeg n r source s = none)
      ∧ (∀ s', reserveLog r.no s = some s' → takePocket p s' = none → unloadLeg n r source s = none)
      ∧ (∀ s' st i t, reserveLog r.no s = some s' → takePocket p s' = some (st, i, t) →
        unloadLeg n r source s = some (leg (.output st i) (.pocket st i) none, t)))
    ∧ (r.route = some .realignReject
        ∨ (∃ c purged, r.route = some (.final c purged) ∧ s.srt.categories[c] = .chute) →
      (reserveLog r.no s = none → unloadLeg n r source s = none)
      ∧ (∀ t, reserveLog r.no s = some t → unloadLeg n r source s = some (leg .chute .log none, t)))
    ∧ (∀ purpose : Purpose, (r.route = some .retest ∧ r.state ≠ .evict ∧ purpose = .retest)
        ∨ ((r.route = some .retest ∨ r.route = none) ∧ r.state = .evict ∧ purpose = .giveBack) →
      (reserveSoak purpose r.no s = none → unloadLeg n r source s = none)
      ∧ (∀ p t, reserveSoak purpose r.no s = some (p, t) → unloadLeg n r source s
        = some (leg (.soak p) (.soak p) (some purpose), setTarget r.no (some (.soak p)) t))))
  ∧ (∀ (s t s' : State) (pre us : List UnitNo) (u : UnitNo) (r : UnitRec) (sp : Spot) (l : Leg), t = plan .unload s →
    (∀ n : NozzleIx, s.upt.unloadNozzles[n] = 0) → findUnit 0 s = none → queue .unload s = [] →
    doneUnits s ++ plateUnits s = pre ++ u :: us →
    (∀ v ∈ pre, ∀ w, findUnit v s = some w → unloadLeg 0 w (w.place.map Spot.toPlace) s = none) →
    findUnit u s = some r → r.place = some sp → unloadLeg 0 r (some sp.toPlace) s = some (l, s') →
    (∃ o, headOrder .unload t = some o ∧ o.kind = .pick ∧ o.unit = .unit u ∧ o.place = some sp.toPlace ∧ o.nozzle = 0
      ∧ o.status = .queued)
    ∧ ∃ o ∈ queue .unload t, o.kind = .place ∧ o.unit = .unit u ∧ o.place = l.dest ∧ o.nozzle = 0
      ∧ o.reservation = l.reservation ∧ o.purpose = l.purpose ∧ o.status = .queued)
  ∧ (∀ (s : State) (age : HeadIx → Nat),
    (∀ h, age h = match s.hsc.heads[h].capture with
      | some v => (s.now - v).toNat
      | none => 2 ^ 32) →
    (headsByCapture s).Perm [0, 1, 2, 3]
    ∧ (headsByCapture s).Pairwise (fun a b => age b < age a ∨ (age b = age a ∧ a < b))
    ∧ doneUnits s = ((headsByCapture s).flatMap socketsOf).filterMap (fun k =>
      if s.hsc.sockets[k].state = .done then some s.hsc.sockets[k].unit else none)
    ∧ plateUnits s = (List.finRange 64).filterMap (fun p =>
      (findUnit s.upt.soak[p].unit s).bind (fun r =>
        if r.hasFinal = true ∧ pickPlanned r.no s = false then some r.no else none)))

/-- An active ESTOP line makes the run state ESTOP, with the causes cleared, the settle timer stopped, the factor raised
with the run state left and the pass grants kept; its release changes the level alone (R165). Each sequencer acts by the
table of R109: a gantry in ZONE_WAIT becomes HELD, one IN_FLIGHT becomes HELD with its order UNCERTAIN and its timer
stopped, and the others stay. Every head in TEST has its test voided: lines low, timer stopped, its TESTING sockets and
their units LOADED, its zone free, FILL, and one more voided test, while cycle number, summary and estimates stay; the
other heads and sockets stay, and no timer counts (R132, R133). Every waiting request is withdrawn, and the other holders
keep their zones (R141); that the withdrawals come before the voids is the model's choice (log entry 36), and so is that
a TESTING socket which is off-pending or purged becomes LOADED like any other (log entry 35). -/
def Obligations.EstopVoidsEveryTest : Prop :=
  (∀ s : State, s.pins.resetLow = false → s.pins.estop = false → ∃ t, exec .estopActive s = .next (startTx t)
    ∧ t.pins.estop = true ∧ t.rcu.run = .estop
    ∧ t.clu.raised.getLsbD 21 = true ∧ t.clu.args[21] = [BitVec.ofNat 8 s.rcu.run.code]
    ∧ t.rcu.grantLoad = s.rcu.grantLoad ∧ t.rcu.grantUnload = s.rcu.grantUnload
    ∧ (s.rcu.run = .estop → t.rcu = s.rcu ∧ t.hsc = s.hsc ∧ t.zar = s.zar ∧ t.xpl = s.xpl ∧ t.upt = s.upt)
    ∧ (s.rcu.run ≠ .estop → t.rcu.causes = .none ∧ t.rcu.settle = none
        ∧ (∀ h : HeadIx, t.hsc.heads[h].state ≠ .test ∧ t.hsc.heads[h].fill.still ∧ t.hsc.heads[h].test.still)
        ∧ (∀ g : Gantry,
            ((gsq g s).state = .zoneWait →
              gsq g t = { gsq g s with state := .held } ∧ queue g t = queue g s)
            ∧ (∀ o, (gsq g s).state = .inFlight → inFlight g s = some o →
              gsq g t = { gsq g s with timer := none, state := .held }
              ∧ queue g t = (queue g s).map (fun q => if q.id = o.id then { q with status := .uncertain } else q))
            ∧ ((gsq g s).state ≠ .zoneWait → (gsq g s).state ≠ .inFlight →
              gsq g t = gsq g s ∧ queue g t = queue g s))
        ∧ (∀ z : HeadIx, t.zar[z] =
            { holder := if s.hsc.heads[z].state = .test ∧ s.zar[z].holder = .head then .none else s.zar[z].holder
              head := false, unload := false, load := false })
        ∧ (∀ k : SocketIx, t.hsc.sockets[k] =
            if s.hsc.heads[headOf k].state = .test ∧ s.hsc.sockets[k].state = .testing then
              { s.hsc.sockets[k] with state := .loaded }
            else s.hsc.sockets[k])
        ∧ t.upt = { s.upt with units := s.upt.units.map (fun r =>
            if ∃ k : SocketIx, s.hsc.heads[headOf k].state = .test ∧ s.hsc.sockets[k].state = .testing
                ∧ s.hsc.sockets[k].unit = r.no then { r with state := .loaded } else r) }
        ∧ (∀ h : HeadIx, t.hsc.heads[h].cycle = s.hsc.heads[h].cycle ∧ t.hsc.heads[h].summary = s.hsc.heads[h].summary
            ∧ (s.hsc.heads[h].state ≠ .test → t.hsc.heads[h].state = s.hsc.heads[h].state)
            ∧ (s.hsc.heads[h].state = .test → t.hsc.heads[h].state = .fill ∧ t.hsc.heads[h].test = .stopped
              ∧ t.pins.sot[h] = false ∧ ∀ k : SocketIx, headOf k = h → t.pins.ld[k] = false))
        ∧ t.ltc = { s.ltc with captures := { s.ltc.captures with
            voided := (allHeads.filter (fun h => s.hsc.heads[h].state = .test)).foldl (fun c _ => satInc c)
              s.ltc.captures.voided } }
        ∧ t.xpl.estimates = s.xpl.estimates))
  ∧ (∀ s : State, s.pins.resetLow = false → exec .estopInactive s
      = .next (startTx { s with pins := { s.pins with estop := false } }))

/-- RECOVER is judged in the order of R166 and recovers each gantry it names; a recovery from ESTOP enters HOLD with cause
HOST, and DOOR where the line is active (R166, R167). A gantry recovered is IDLE with an empty queue, where no unload order
is an INSPECT (R55), its timer stopped, its fault cause and parked flag clear, and it holds no zone (R112, steps 2, 4 and
5). Units left on its nozzles have no target (R112); that this holds of a unit which a cancellation has made STAGED too is
DEDUCED (log entry 37). Where both gantries are named, that the load gantry is recovered before the unload gantry is the
model's choice (log entry 38), and so are the two bytes, gantry and nozzle, of the refusal of check 4 (log entry 11). -/
def Obligations.RecoverLeavesEstopForHold : Prop :=
  (∀ (g : Gantry) (mask : Byte) (s : State),
    (gsq g (recoverGantry g mask s)).state = .idle ∧ (gsq g (recoverGantry g mask s)).timer = none
    ∧ (gsq g (recoverGantry g mask s)).cause = none ∧ parked g (recoverGantry g mask s) = false
    ∧ ((∀ o ∈ (queue g s).drop 1, o.status = .queued) → (∀ o ∈ s.xpl.unloadQueue, o.kind ≠ .inspect) →
        queue g (recoverGantry g mask s) = [])
    ∧ (∀ r ∈ (recoverGantry g mask s).upt.units, ∀ n : NozzleIx, r.place = some (nozzleSpot g n) → r.target = none)
    ∧ ((∀ z : HeadIx, (g = .load → s.zar[z].load = false) ∧ (g = .unload → s.zar[z].unload = false)) →
        ∀ z : HeadIx, (recoverGantry g mask s).zar[z].holder ≠ gantryHolder g))
  ∧ ∀ (tag mask lp up : Byte) (s : State), takesNow s →
    (mask = 0 ∨ 4 ≤ mask.toNat ∨ (mask.getLsbD 0 = true ∧ 16 ≤ lp.toNat) ∨ (mask.getLsbD 1 = true ∧ 16 ≤ up.toNat) →
      exec (.recover tag mask lp up) s = .next (replied 0x1B tag [3] s))
    ∧ (¬(mask = 0 ∨ 4 ≤ mask.toNat ∨ (mask.getLsbD 0 = true ∧ 16 ≤ lp.toNat)
          ∨ (mask.getLsbD 1 = true ∧ 16 ≤ up.toNat)) →
      exec (.recover tag mask lp up) s = .next (
        if s.rcu.run = .estop ∧ s.pins.estop = true then replied 0x1B tag [7] s
        else if s.rcu.run = .estop ∧ ((mustRecover .load s = true ∧ mask.getLsbD 0 = false)
            ∨ (mustRecover .unload s = true ∧ mask.getLsbD 1 = false)) then replied 0x1B tag [3] s
        else if s.rcu.run ≠ .estop ∧ ((mask.getLsbD 0 = true ∧ s.gsqL.state ≠ .fault)
            ∨ (mask.getLsbD 1 = true ∧ s.gsqU.state ≠ .fault)) then replied 0x1B tag [4] s
        else match firstUnaccounted mask lp up s with
          | some (g, n) => replied 0x1B tag [3, BitVec.ofNat 8 (gantryCode g), BitVec.ofNat 8 n.val] s
          | none =>
            let s1 := if mask.getLsbD 0 then recoverGantry .load lp s else s
            let s2 := if mask.getLsbD 1 then recoverGantry .unload up s1 else s1
            replied 0x1B tag [0] (settle (if s2.rcu.run = .estop then
              enterHold { HoldCauses.none with host := true, door := s2.pins.door } [] s2 else s2))))

/-- SET_MODE, CYCLE, SET_HOLDPOINT and SET_PROTECT store what they carry when it lies in range, and otherwise store nothing
and answer BAD_ARG (R171, R127, R168, R170). The run mode becomes the one named; a change to SINGLE clears every start credit
and withdraws every head's request, a change to CONTINUOUS changes no credit and lets each head in START_WAIT request its
zone in RUN, and the mode in force changes nothing (R171, R126). A credit is set for a named head alone; one in START_WAIT
thereby requests its zone in RUN, and a start consumes the credit (R127, R126). -/
def Obligations.ModeAndHoldPointRequestsStoreTheirValues : Prop :=
  ∀ (tag : Byte) (s : State), takesNow s →
    (∀ (mode : Byte) (timeout delay : Half),
      exec (.setMode tag mode timeout delay) s = .next (
        if mode.toNat < 2 ∧ 50 ≤ timeout.toNat ∧ timeout.toNat ≤ 30000 ∧ delay.toNat ≤ 5000 then
          replied 0x1C tag [0] (settle (headsFollow s
            (setRunMode (if mode = 0 then .continuous else .single)
              { s with rcu := { s.rcu with driveTimeout := timeout.toNat, settleDelay := delay.toNat } })))
        else replied 0x1C tag [3] s))
    ∧ (∀ mask : Byte, exec (.cycle tag mask) s = .next (
        if mask = 0 ∨ 16 ≤ mask.toNat then replied 0x1D tag [3] s
        else if s.rcu.mode ≠ .single then replied 0x1D tag [4] s
        else replied 0x1D tag [0] (settle (headsFollow s (allHeads.foldl (giveCredit mask) s)))))
    ∧ (∀ m : RunMode, (setRunMode m s).rcu = { s.rcu with mode := m }
      ∧ (s.rcu.mode = m → setRunMode m s = s)
      ∧ (s.rcu.mode = .continuous → m = .single → setRunMode m s = { s with
          rcu := { s.rcu with mode := .single }
          hsc := { s.hsc with heads := s.hsc.heads.map (fun h => { h with credit := false }) }
          zar := s.zar.map (fun z => { z with head := false }) })
      ∧ (s.rcu.mode = .single → m = .continuous → ∀ h : HeadIx,
          (setRunMode m s).hsc.heads[h].credit = s.hsc.heads[h].credit
          ∧ (s.hsc.heads[h].state ≠ .startWait ∨ s.rcu.run ≠ .run →
            (setRunMode m s).hsc.heads[h] = s.hsc.heads[h] ∧ (setRunMode m s).zar[h] = s.zar[h])
          ∧ (s.hsc.heads[h].state = .startWait → s.rcu.run = .run → s.zar[h].holder = .none →
            (setRunMode m s).hsc.heads[h].state = .test ∧ (setRunMode m s).zar[h].holder = .head)
          ∧ (s.hsc.heads[h].state = .startWait → s.rcu.run = .run → s.zar[h].holder = .load ∨ s.zar[h].holder = .unload →
            (setRunMode m s).hsc.heads[h] = s.hsc.heads[h] ∧ (setRunMode m s).zar[h] = { s.zar[h] with head := true })))
    ∧ (∀ (mask : Byte) (h : HeadIx) (t : State), t = giveCredit mask s h →
      (mask.getLsbD h.val = false → t = s)
      ∧ (∀ j : HeadIx, j ≠ h → t.hsc.heads[j] = s.hsc.heads[j] ∧ t.zar[j] = s.zar[j])
      ∧ (mask.getLsbD h.val = true → s.hsc.heads[h].state ≠ .startWait ∨ s.rcu.run ≠ .run →
        t = { s with hsc := { s.hsc with heads := s.hsc.heads.set h.val { s.hsc.heads[h] with credit := true } } })
      ∧ (mask.getLsbD h.val = true → s.hsc.heads[h].state = .startWait → s.rcu.run = .run →
        (s.zar[h].holder = .none → t.hsc.heads[h].state = .test ∧ t.zar[h].holder = .head
          ∧ (s.rcu.mode = .single → t.hsc.heads[h].credit = false))
        ∧ (s.zar[h].holder = .load ∨ s.zar[h].holder = .unload →
          t.hsc.heads[h] = { s.hsc.heads[h] with credit := true } ∧ t.zar[h] = { s.zar[h] with head := true })))
    ∧ (∀ (i kind enabled : Byte) (value : Word),
      (4 ≤ i.toNat ∨ 3 ≤ kind.toNat ∨ 2 ≤ enabled.toNat
          ∨ (kind = 1 ∧ (65536 ≤ value.toNat ∨ Place.ofCode (value.setWidth 16) = none))
          ∨ (kind = 2 ∧ value = 0) ∨ (kind = 0 ∧ enabled = 1) →
        exec (.setHoldpoint tag i kind value enabled) s = .next (replied 0x1E tag [3] s)))
    ∧ (∀ (i : Fin 4) (enabled : Bool) (m : HoldMatch) (kind : Byte) (value : Word),
      (kind = 0 ∧ enabled = false ∧ m = .none)
          ∨ (kind = 1 ∧ value.toNat < 65536 ∧ (Place.ofCode (value.setWidth 16)).isSome
              ∧ m = .place (value.setWidth 16))
          ∨ (kind = 2 ∧ value ≠ 0 ∧ m = .unit value) →
        exec (.setHoldpoint tag (BitVec.ofNat 8 i.val) kind value (if enabled then 1 else 0)) s
          = .next (replied 0x1E tag [0] { s with rcu := { s.rcu with
              holdPoints := s.rcu.holdPoints.set i.val { what := m, enabled := enabled } } }))
    ∧ (∀ v : Byte, exec (.setProtect tag v) s = .next (
        if v.toNat < 2 then
          replied 0x1F tag [0] { s with rcu := { s.rcu with clearInHold := decide (v = 1) } }
        else replied 0x1F tag [3] s))

/-- Every step keeps the hold causes empty outside HOLD, the settle timer running in RESUMING alone, the settings in range
and every fill and test timer still outside RUN. -/
def Obligations.StepKeepsTheRunState : Prop :=
  ∀ s t : State, RunInv s → step s = .next t → RunInv t

/-! ### Zones, orders and completions -/

/-- A request for a free zone is granted and one for a zone held by another waits; a release by the holder grants the zone
to the head first, to the unload gantry next and to the load gantry last, which then sends its order, and a release by
another changes nothing (R137, R138). A head requests its zone in START_WAIT, in RUN, with its credit present, and not
otherwise (R126). A head granted its zone starts its test in the same step: cycle number and SOT time, each LOADED socket
and its unit TESTING with the LD line high, SOT high, the test timer with the lot's test timeout, the credit consumed in
SINGLE, TEST; no other head, socket or line changes (R126). Before that, a head whose sockets, fill-expired flag, lot state
or drain report a step has changed is reviewed, in an order that is DEDUCED (log entry 6): IDLE goes to FILL in an active
lot with an active socket (R123); START_WAIT goes back to FILL where a socket is DONE, its request withdrawn (R126), with
the fill timer afresh where a socket is LOADED (R124); FILL goes to IDLE in a DRAINED lot, or without an active, RESERVED,
LOADED or DONE socket (R123); FILL without a LOADED socket has its fill timer stopped and fill-expired cleared (R124); and
FILL goes to START_WAIT when the start condition holds, its timer stopped and cleared likewise, and asks for its zone
(R125). -/
def Obligations.ZonesAreGrantedInOrder : Prop :=
  ∀ (z : HeadIx) (s : State) (put : Zone → State),
    (∀ r, put r = { s with zar := s.zar.set z.val r }) →
    (s.zar[z].holder = .none →
      requestZone .load z s = (true, put { s.zar[z] with holder := .load, load := false })
      ∧ requestZone .unload z s = (true, put { s.zar[z] with holder := .unload, unload := false }))
    ∧ (s.zar[z].holder ≠ .none → s.zar[z].holder ≠ .load →
        requestZone .load z s = (false, put { s.zar[z] with load := true }))
    ∧ (s.zar[z].holder ≠ .none → s.zar[z].holder ≠ .unload →
        requestZone .unload z s = (false, put { s.zar[z] with unload := true }))
    ∧ (∀ h : Holder, s.zar[z].holder ≠ h → releaseZone h z s = s)
    ∧ (s.zar[z].head = false → s.zar[z].unload = false → s.zar[z].load = false →
        releaseZone s.zar[z].holder z s = put { s.zar[z] with holder := .none })
    ∧ (s.zar[z].head = true → releaseZone s.zar[z].holder z s
        = startTest z (put { s.zar[z] with holder := .head, head := false }))
    ∧ (s.zar[z].head = false → s.zar[z].unload = true →
        (releaseZone s.zar[z].holder z s).zar[z] = { s.zar[z] with holder := .unload, unload := false })
    ∧ (∀ (o : Order) (t : State), s.zar[z].head = false → s.zar[z].unload = true → headOrder .unload s = some o →
        t = releaseZone s.zar[z].holder z s → (gsq .unload t).state = .inFlight ∧ headOrder .unload t
          = some { o with status := .issued })
    ∧ (∀ (o : Order) (k : SocketIx) (cx cy : Int) (clamped voided : Bool) (t : State),
        s.zar[z].head = false → s.zar[z].unload = false → s.zar[z].load = true → headOrder .load s = some o →
        o.placeSocket = some k → correction o.unitNo k o.nozzle s = .coordinates cx cy clamped voided →
        t = releaseZone s.zar[z].holder z s →
        t.zar[z] = { s.zar[z] with holder := .load, load := false } ∧ (gsq .load t).state = .inFlight
          ∧ headOrder .load t = some { o with status := .issued })
    ∧ (s.hsc.heads[z].state ≠ .startWait ∨ s.rcu.run ≠ .run
          ∨ (s.rcu.mode = .single ∧ s.hsc.heads[z].credit = false) → requestHead z s = s)
    ∧ (s.hsc.heads[z].state = .startWait → s.rcu.run = .run →
        s.rcu.mode = .continuous ∨ s.hsc.heads[z].credit = true →
        (s.zar[z].holder = .none →
          requestHead z s = startTest z (put { s.zar[z] with holder := .head, head := false }))
        ∧ (s.zar[z].holder = .head → requestHead z s = s)
        ∧ (s.zar[z].holder = .load ∨ s.zar[z].holder = .unload →
          requestHead z s = put { s.zar[z] with head := true }))
    ∧ (∀ t : State, t = startTest z s →
        t.hsc.heads[z] = { s.hsc.heads[z] with
          state := .test, cycle := s.hsc.heads[z].cycle + 1, sot := some s.now
          test := if s.rcu.run = .run then .running (s.now + BitVec.ofNat 32 s.ltc.params.testTimeout)
            else .paused (BitVec.ofNat 32 s.ltc.params.testTimeout)
          credit := if s.rcu.mode = .single then false else s.hsc.heads[z].credit }
        ∧ t.pins.sot[z] = true
        ∧ (∀ j : HeadIx, j ≠ z → t.hsc.heads[j] = s.hsc.heads[j] ∧ t.pins.sot[j] = s.pins.sot[j])
        ∧ (∀ k : SocketIx, headOf k = z → s.hsc.sockets[k].state = .loaded →
          t.hsc.sockets[k] = { s.hsc.sockets[k] with state := .testing } ∧ t.pins.ld[k] = true
          ∧ ∀ r, findUnit s.hsc.sockets[k].unit s = some r →
            findUnit s.hsc.sockets[k].unit t = some { r with state := .testing })
        ∧ (∀ k : SocketIx, headOf k ≠ z ∨ s.hsc.sockets[k].state ≠ .loaded →
          t.hsc.sockets[k] = s.hsc.sockets[k] ∧ t.pins.ld[k] = s.pins.ld[k])
        ∧ t.zar = s.zar ∧ t.xpl = s.xpl ∧ t.ltc = s.ltc ∧ t.rcu = s.rcu ∧ t.clu = s.clu ∧ t.now = s.now)
    ∧ (∀ (active : SocketIx → Prop) (has : SocketState → Prop) (putHead : HeadRec → State),
      (∀ k, active k ↔ s.hsc.sockets[k].state ≠ .off ∧ s.hsc.sockets[k].state ≠ .jammed
        ∧ s.hsc.sockets[k].offPending = none) →
      (∀ v, has v ↔ ∃ k : SocketIx, headOf k = z ∧ s.hsc.sockets[k].state = v) →
      (∀ r, putHead r = { s with hsc := { s.hsc with heads := s.hsc.heads.set z.val r } }) →
      (startCondition z s = true ↔ s.hsc.heads[z].state = .fill
        ∧ (s.ltc.state = .running ∨ s.ltc.state = .draining)
        ∧ (∃ k : SocketIx, headOf k = z ∧ active k ∧ s.hsc.sockets[k].state = .loaded) ∧ ¬has .reserved ∧ ¬has .done
        ∧ ((∀ k : SocketIx, headOf k = z → active k → s.hsc.sockets[k].state = .loaded)
          ∨ s.hsc.heads[z].fillExpired = true
          ∨ (s.ltc.state = .draining ∧ s.upt.pendingCreations = 0 ∧ ∀ r ∈ s.upt.units, r.state ≠ .soaking
            ∧ r.state ≠ .ready ∧ r.state ≠ .staged ∧ r.state ≠ .onLoad ∧ r.state ≠ .returnWait)))
      ∧ (startCondition z s = true → startIfReady z s
          = requestHead z (putHead { s.hsc.heads[z] with state := .startWait, fill := .stopped, fillExpired := false }))
      ∧ (startCondition z s = false → startIfReady z s = s)
      ∧ (∀ go : Prop, (go ↔ s.hsc.heads[z].state = .idle
          ∧ (s.ltc.state = .running ∨ s.ltc.state = .draining ∨ s.ltc.state = .purging)
          ∧ ∃ k : SocketIx, headOf k = z ∧ active k) →
        (go → idleToFill z s = putHead { s.hsc.heads[z] with state := .fill }) ∧ (¬go → idleToFill z s = s))
      ∧ (∀ go : Prop, (go ↔ s.hsc.heads[z].state = .fill ∧ (s.ltc.state = .drained
          ∨ ((∀ k : SocketIx, headOf k = z → ¬active k) ∧ ¬has .reserved ∧ ¬has .loaded ∧ ¬has .done))) →
        (go → fillToIdle z s
          = putHead { s.hsc.heads[z] with state := .idle, fill := .stopped, fillExpired := false })
        ∧ (¬go → fillToIdle z s = s))
      ∧ (∀ go : Prop, (go ↔ s.hsc.heads[z].state = .fill ∧ ¬has .loaded) →
        (go → fillUnloaded z s = putHead { s.hsc.heads[z] with fill := .stopped, fillExpired := false })
        ∧ (¬go → fillUnloaded z s = s))
      ∧ (∀ go : Prop, (go ↔ s.hsc.heads[z].state = .startWait ∧ has .done) →
        (∀ t : State, go → t = startWaitBack z s → t.zar = (put { s.zar[z] with head := false }).zar
          ∧ (¬has .loaded → t.hsc = (putHead { s.hsc.heads[z] with state := .fill }).hsc)
          ∧ (has .loaded → t.hsc = (putHead { s.hsc.heads[z] with
              state := .fill, fillExpired := false
              fill := if s.ltc.params.fillTimeout = 0 then .stopped
                else if s.rcu.run = .run then .running (s.now + BitVec.ofNat 32 s.ltc.params.fillTimeout)
                else .paused (BitVec.ofNat 32 s.ltc.params.fillTimeout) }).hsc)
          ∧ { t with zar := s.zar, hsc := s.hsc } = s)
        ∧ (¬go → startWaitBack z s = s))
      ∧ reviewHead z s = startIfReady z (fillUnloaded z (fillToIdle z (startWaitBack z (idleToFill z s)))))
    ∧ (∀ before : State, headsFollow before s = allHeads.foldl
        (fun s h => if headView h before = headView h s then s else reviewHead h s) (examineActive before s))

/-- A send takes the next issue tag, never 0, marks the order ISSUED, starts the reply timer with the drive timeout, enters
IN_FLIGHT, and sends an ORDER with that tag, whose ten bytes are the kind, the nozzle, the counts, the height class and
the INSPECT mask (R98 check 5, R100, Table 6-2, R55). A DONE with that tag, result OK and the presence bit that the result
asks for ends a PICK, PLACE or PARK as done (R101, R102). -/
def Obligations.SendingAnOrderStartsItsTimer : Prop :=
  (∀ (g : Gantry) (o : Order) (x y : Int) (s t : State), t = sendOrder g o (x, y) s →
    (gsq g t).state = .inFlight
    ∧ (gsq g t).tag = (if (gsq g s).tag = 255 then 1 else (gsq g s).tag + 1) ∧ (gsq g t).tag ≠ 0
    ∧ (gsq g t).timer = some (s.now + BitVec.ofNat 32 s.rcu.driveTimeout)
    ∧ (∃ f, (gsq g t).lastOrder = some f ∧ f.kind = 0x21 ∧ f.tag = (gsq g t).tag ∧ f.payload.length = 10
      ∧ rd8 f.payload 0 = (match o.kind with
          | .pick => 1
          | .inspect => 2
          | .place => 3
          | .park => 4)
      ∧ (rd8 f.payload 1).toNat = (if o.kind = .inspect ∨ o.kind = .park then 0 else o.nozzle.val)
      ∧ (0 ≤ x → x < 2 ^ 24 → (65536 * (rd8 f.payload 2).toNat + 256 * (rd8 f.payload 3).toNat
          + (rd8 f.payload 4).toNat : Nat) = x)
      ∧ (0 ≤ y → y < 2 ^ 24 → (65536 * (rd8 f.payload 5).toNat + 256 * (rd8 f.payload 6).toNat
          + (rd8 f.payload 7).toNat : Nat) = y)
      ∧ (o.kind = .inspect ∨ o.kind = .park → rd8 f.payload 8 = 0)
      ∧ (o.kind = .pick ∨ o.kind = .place →
          (∀ st slot, o.place = some (.input st slot) → rd8 f.payload 8 = 0)
          ∧ (∀ st pocket, o.place = some (.output st pocket) → rd8 f.payload 8 = 0)
          ∧ (∀ p, o.place = some (.soak p) → rd8 f.payload 8 = 1)
          ∧ (∀ k, o.place = some (.socket k) → rd8 f.payload 8 = 2)
          ∧ (o.place = some .chute → rd8 f.payload 8 = 3))
      ∧ (rd8 f.payload 9).toNat = (if o.kind = .inspect then o.mask.toNat else 0))
    ∧ queue g t = (queue g s).map (fun q => if q.id = o.id then { q with status := .issued } else q)
    ∧ parked g t = (if o.kind = .park then parked g s else false)
    ∧ t.upt = s.upt ∧ t.hsc = s.hsc ∧ t.zar = s.zar ∧ t.srt = s.srt ∧ t.fsc = s.fsc)
  ∧ (∀ (g : Gantry) (o : Order) (f : Frame) (mask : Byte) (s : State), s.pins.resetLow = false →
    (gsq g s).rx.buf = [] → f.kind = 0xA1 → f.payload = [0, mask] → headOrder g s = some o → o.status = .issued →
    f.tag = (gsq g s).tag →
    (o.kind = .pick ∧ mask.getLsbD o.nozzle.val = true) ∨ (o.kind = .place ∧ mask.getLsbD o.nozzle.val = false)
      ∨ o.kind = .park →
    exec (.done g f.bytes) s = .next (startTx (complete g o [0, mask] .done (driveHunted g s))))

/-- A DONE with the tag of the ISSUED order completes it with its result, or faults the gantry when the drive reports a
fault or the message is malformed; where no unload order is an INSPECT (R55), a gantry in FAULT keeps no QUEUED order (R101,
R102, R110, R73). A DONE of any other admitted result completes normally. A completion goes through the steps of R102: timer
and gantry, the effect of the result, the zone, the presence comparison, the queue with the evaluation, the next attempt. The
effects of the results are those of R103 to R105 with R9, and an order not done changes nothing but its status (R107): a PICK
creates or moves its unit and empties its source, a PLACE fills its destination or retires its unit, an INSPECT stores offsets
and makes units STAGED (R75), a PARK sets the parked flag, and a PICK that finds nothing or a PLACE dropped at a socket makes
its unit LOST. A record created in a PURGING lot has the purge category, flagged PURGED, as its route (R74, R149). No result
moves a TESTING socket (R128). A done order leaves the queue, and one not done is QUEUED again at its head. The model's
choices: bits 4 to 7 of a presence mask make no message malformed (log entry 21); the empty report comes after the effect of
the result, and the orders of a LOST unit are cancelled within the loss (log entry 22); a position left FREE or BLOCKED names
unit 0 (log entry 25); a record created past the last unit number takes number 0 (log entry 33). DEDUCED: an off-pending
socket keeps its flag in OFF (log entry 9); an INSPECT done sets the model's own `inspected`, and a unit is STAGED with the
head kept with its nozzle, `stageHead` (log entry 16); a presence mismatch faults the gantry after these steps (log entry 29);
a TESTING socket stays as it is (log entry 39). -/
def Obligations.DoneEndsTheOrderInFlight : Prop :=
  (∀ (g : Gantry) (o : Order) (f : Frame) (s : State), s.pins.resetLow = false → (gsq g s).rx.buf = [] →
    f.kind = 0xA1 → f.payload.length ≤ 240 → headOrder g s = some o → o.status = .issued → f.tag = (gsq g s).tag →
    exec (.done g f.bytes) s = .next (startTx (match readDone o f.payload with
      | none => settle (headsFollow (driveHunted g s) (enterFault g .badDone (driveHunted g s)))
      | some .fault => settle (headsFollow (driveHunted g s) (enterFault g .drive (driveHunted g s)))
      | some r => complete g o f.payload (r.fate o (rd8 f.payload 1)) (driveHunted g s))))
  ∧ (∀ (g : Gantry) (o : Order) (f : Frame) (r : DoneResult) (s : State), s.pins.resetLow = false →
    (gsq g s).rx.buf = [] → f.kind = 0xA1 → f.payload.length ≤ 240 → headOrder g s = some o → o.status = .issued →
    f.tag = (gsq g s).tag → readDone o f.payload = some r → r ≠ .fault →
    exec (.done g f.bytes) s
      = .next (startTx (complete g o f.payload (r.fate o (rd8 f.payload 1)) (driveHunted g s))))
  ∧ (∀ (g : Gantry) (c : FaultCause) (s : State), ((queue g s).map Order.id).Nodup →
    (∀ o ∈ s.xpl.unloadQueue, o.kind ≠ .inspect) →
    (gsq g (enterFault g c s)).state = .fault ∧ (gsq g (enterFault g c s)).timer = none
    ∧ (gsq g (enterFault g c s)).cause = some c ∧ (∀ o ∈ queue g (enterFault g c s), o.status ≠ .queued))
  ∧ (∀ (o : Order) (mask : Byte), o.kind = .pick →
    readDone o [0, mask] = if mask.getLsbD o.nozzle.val then some .ok else none)
  ∧ (∀ (o : Order) (mask : Byte), o.kind = .place →
    readDone o [0, mask] = if mask.getLsbD o.nozzle.val then none else some .ok)
  ∧ (∀ (g : Gantry) (o : Order) (p : List Byte) (f : Fate) (s : State), ∃ s1 s2 s3 s4 s5 : State,
    s1 = modGsq g (fun q => { q with timer := none, state := .idle }) s
    ∧ s2 = headsFollow s1 (checkEmpty (applyFate g o p f s1))
    ∧ (∀ z, o.zone = some z → s3 = releaseZone (gantryHolder g) z s2) ∧ (o.zone = none → s3 = s2)
    ∧ s4 = loseMissing g (rd8 p 1) (comparedNozzles (some o)) s3
    ∧ s5 = evaluateBoth (headsFollow s3 (checkEmpty (requeue g o f s4)))
    ∧ (mismatch g (rd8 p 1) (comparedNozzles (some o)) s3 = false → complete g o p f s = settle (headsFollow s5 s5))
    ∧ (mismatch g (rd8 p 1) (comparedNozzles (some o)) s3 = true →
      complete g o p f s = settle (headsFollow s5 (enterFault g .presence s5))))
  ∧ (∀ (o : Order) (p : List Byte) (st : Side) (slot : InSlot) (u : UnitNo) (s t : State), u = s.upt.nextUnit →
    o.kind = .pick → o.place = some (.input st slot) → t = applyFate .load o p .done s →
    (∃ r : UnitRec, t.upt.units = s.upt.units ++ [r] ∧ r.no = u ∧ (∀ lot, s.ltc.lot = some lot → r.lot = lot)
      ∧ r.origin = { st := st, slot := slot } ∧ r.state = .onLoad ∧ r.place = some (.loadNozzle o.nozzle)
      ∧ r.lastPlace = none ∧ r.created = s.now ∧ r.soakStart = none ∧ r.soakTarget = 0 ∧ r.offset = none
      ∧ r.clamped = false ∧ r.voided = false ∧ r.realigns = 0 ∧ r.attempts = [] ∧ r.excluded = 0
      ∧ r.route = (if s.ltc.state = .purging then some (.final s.ltc.params.purgeCategory true) else none)
      ∧ ∀ q : Option Order, q = s.xpl.loadQueue.find? (fun q => q.kind = .place && q.nozzle = o.nozzle) →
        (q = none → r.target = none)
        ∧ (∀ (v : Order) (k : SocketIx), q = some v → v.reservation = .socket k → r.target = some (.socket k))
        ∧ (∀ (v : Order) (i : SoakIx), q = some v → v.reservation = .soak i → r.target = some (.soak i)))
    ∧ t.upt.nextUnit = u + 1 ∧ t.upt.pendingCreations = s.upt.pendingCreations - 1
    ∧ t.upt.loadNozzles = s.upt.loadNozzles.set o.nozzle.val u
    ∧ t.upt.counters.created = satInc s.upt.counters.created
    ∧ (inStation st t).pending = (inStation st s).pending - 1
    ∧ (inStation st t).picked = min 65535 ((inStation st s).picked + 1) ∧ (inStation st t).noPartRun = 0)
  ∧ (∀ (g : Gantry) (o : Order) (p : List Byte) (u : UnitNo) (r : UnitRec) (s t : State), o.kind = .pick →
    o.unit = .unit u → findUnit u s = some r → t = applyFate g o p .done s →
    o.place.bind Place.spot = r.place →
    (∀ i : SoakIx, o.place = some (.soak i) → t.upt.soak[i] = { state := .free, unit := 0, reservedFor := 0 })
    ∧ (∀ k : SocketIx, o.place = some (.socket k) → s.hsc.sockets[k].state ≠ .testing →
      t.hsc.sockets[k] = { s.hsc.sockets[k] with
        state := if s.hsc.sockets[k].offPending.isSome then .off else .empty, unit := 0 })
    ∧ ((∃ i, o.place = some (.soak i)) ∨ (∃ k, o.place = some (.socket k)) →
      nozzleUnit g o.nozzle t = u
      ∧ findUnit u t = some { r with
          state := (match g with
            | .load => .onLoad
            | .unload => .onUnload)
          place := some (nozzleSpot g o.nozzle) }
      ∧ ∀ v, v ≠ u → findUnit v t = findUnit v s))
  ∧ (∀ (g : Gantry) (o : Order) (p : List Byte) (u : UnitNo) (r : UnitRec) (s t : State), o.kind = .place →
    o.unit = .unit u → findUnit u s = some r → r.place = some (nozzleSpot g o.nozzle) → t = applyFate g o p .done s →
    (∀ k : SocketIx, o.place = some (.socket k) →
      nozzleUnit g o.nozzle t = 0 ∧ t.hsc.sockets[k].unit = u
      ∧ (s.hsc.sockets[k].offPending = none → s.ltc.state ≠ .purging →
        (s.hsc.sockets[k].state ≠ .testing → t.hsc.sockets[k].state = .loaded)
        ∧ findUnit u t = some { r with state := .loaded, place := some (.socket k), target := none })
      ∧ (s.hsc.sockets[k].offPending.isSome ∨ s.ltc.state = .purging →
        (s.hsc.sockets[k].state ≠ .testing → t.hsc.sockets[k].state = .done)
        ∧ findUnit u t = some { r with state := .evict, place := some (.socket k), target := none }))
    ∧ (∀ (i : SoakIx) (purpose : Purpose), o.place = some (.soak i) → o.purpose = some purpose →
      t = arriveSoak u i purpose s ∧ nozzleUnit g o.nozzle t = 0)
    ∧ (∀ (st : OutStation) (pocket : Pocket), o.place = some (.output st pocket) →
      t = endOutPlace st true (retire u (.output st pocket) s)
      ∧ (outStation st t).filled = (outStation st s).filled + 1
      ∧ (outStation st t).pending = (outStation st s).pending - 1
      ∧ (outStation st t).skipped = (outStation st s).skipped)
    ∧ (o.place = some .chute →
      t = countChute (retire u .chute s) ∧ t.srt.chuteTotal = satInc s.srt.chuteTotal))
  ∧ (∀ (o : Order) (p : List Byte) (s t : State), o.kind = .inspect → t = applyFate .load o p .done s →
    t.xpl.inspected = true
    ∧ ∀ (n : NozzleIx) (u : UnitNo) (r : UnitRec) (c : CameraTeach), o.mask.getLsbD n.val = true →
      s.upt.loadNozzles[n] = u → u ≠ 0 → findUnit u s = some r → s.pcu.camera = some c →
      (∀ m : NozzleIx, m ≠ n → s.upt.loadNozzles[m] ≠ u) →
      ∀ offset : Offset, offset = (if (rd8 p 2).getLsbD n.val then
          .um (stage1 c.scale (rd16 p (3 + 4 * n.val)).toInt) (stage1 c.scale (rd16 p (5 + 4 * n.val)).toInt)
        else .void) →
      (∀ h : HeadIx, s.xpl.stageHead[n] = some h ∨ (s.xpl.stageHead[n] = none ∧ r.target = some (.head h)) →
        findUnit u t = some { r with offset := some offset, state := .staged, target := some (.head h) })
      ∧ (s.xpl.stageHead[n] = none → (∀ h : HeadIx, r.target ≠ some (.head h)) →
        findUnit u t = some { r with offset := some offset }))
  ∧ (∀ (g : Gantry) (o : Order) (p : List Byte) (s : State),
    (o.kind = .park → applyFate g o p .done s = setParked g true s) ∧ applyFate g o p .notDone s = s)
  ∧ (∀ (g : Gantry) (o : Order) (p : List Byte) (u : UnitNo) (r lost : UnitRec) (s : State), o.unit = .unit u →
    findUnit u s = some r → r.state ≠ .lost →
    lost = { r with state := .lost, lastPlace := r.place, place := none, target := none } →
    (∀ i : SoakIx, o.place = some (.soak i) → findUnit u (applyFate g o p .noPart s) = some lost
      ∧ (applyFate g o p .noPart s).upt.soak[i] = { state := .blocked, unit := 0, reservedFor := 0 })
    ∧ (∀ (k : SocketIx) (f : Fate), o.place = some (.socket k) → f = .noPart ∨ f = .dropped →
      findUnit u (applyFate g o p f s) = some lost
      ∧ (s.hsc.sockets[k].state ≠ .testing →
        (applyFate g o p f s).hsc.sockets[k].state = .jammed ∧ (applyFate g o p f s).hsc.sockets[k].unit = 0)
      ∧ (applyFate g o p f s).clu.raised.getLsbD 11 = true))
  ∧ (∀ (g : Gantry) (o : Order) (p : List Byte) (f : Fate) (k : SocketIx) (s : State),
    s.hsc.sockets[k].state = .testing → (applyFate g o p f s).hsc.sockets[k].state = .testing)
  ∧ (∀ (g : Gantry) (o : Order) (os : List Order) (f : Fate) (s : State), queue g s = o :: os →
    ((o :: os).map Order.id).Nodup →
    (f = .notDone → queue g (requeue g o f s) = { o with status := .queued } :: os)
    ∧ (f ≠ .notDone → queue g (requeue g o f s) = os)
    ∧ ∀ v : Gantry, v ≠ g → queue v (requeue g o f s) = queue v s)

/-- A DONE taken while its gantry has no order ISSUED, or with another tag than that of the ISSUED order, is stray:
STRAY_DONE is raised with the gantry and the tag, and nothing else changes (R111). -/
def Obligations.StrayDoneIsIgnored : Prop :=
  ∀ (g : Gantry) (f : Frame) (s : State), s.pins.resetLow = false → (gsq g s).rx.buf = [] →
    f.kind = 0xA1 → f.payload.length ≤ 240 →
    (∀ o, headOrder g s = some o → o.status = .issued → f.tag ≠ (gsq g s).tag) →
    exec (.done g f.bytes) s
      = .next (startTx (raise .strayDone [BitVec.ofNat 8 (gantryCode g), f.tag] (driveHunted g s)))

/-! ### Timers and tests -/

/-- An expiry that has come does what its rule gives, and one that has not come changes nothing (R108, R164, R124, R72,
R130, R12, R67, R173). That an expiry command which is not due changes nothing is the model's choice (log entry 3), and so
are that the fill timer is stopped once it has expired (log entry 31) and that the PLACEs cancelled at a fill expiry are
cancelled in queue order (log entry 22). At the settle timer's expiry the run state becomes
RUN, the settle timer is stopped, RESUMED is raised with argument 0 and every paused timer resumes with what remains; then
heads, issue attempts and evaluations follow in an order that is open (DEDUCED, log entry 7), and unless a hold point stops
an order the part stays in RUN (R164, R133). A unit that becomes READY takes the next ready sequence number (R59); that this is the value
before the count is increased is the model's choice (log entry 14). -/
def Obligations.ExpiriesActWhenTheyHaveCome : Prop :=
  ∀ s : State, s.pins.resetLow = false →
    (∀ g : Gantry, exec (.driveReplyTimerExpiry g) s = .next (startTx (if driveDue g s then
        settle (headsFollow s (enterFault g .noReply s)) else s)))
    ∧ exec .settleTimerExpiry s = .next (startTx (if settleDue s then returnToRun s else s))
    ∧ (∀ h : HeadIx, exec (.fillTimerExpiry h) s = .next (startTx (if fillDue h s then
        settle (headsFollow s (checkEmpty (cancelWhere .load (fun o => o.placeSocket.map headOf = some h)
          (modHead h (fun r => { r with fill := .stopped, fillExpired := true }) s)))) else s)))
    ∧ (∀ h : HeadIx, exec (.testTimerExpiry h) s = .next (startTx (if testDue h s then
        settle (headsFollow s (timeoutCapture h s)) else s)))
    ∧ (∀ u : UnitNo, exec (.soakExpiry u) s = .next (startTx (if soakDue u s then
        settle (headsFollow s (becomeReady u s)) else s)))
    ∧ exec .stagingTimerExpiry s = .next (startTx (if stagingDue s then
        settle { s with xpl := { s.xpl with staging := none } } else s))
    ∧ (∀ l : Link, gapDue l s = false → exec (.byteGapTimeout l) s = .next (startTx s))
    ∧ (gapDue .cell s = true →
        exec (.byteGapTimeout .cell) s = .next (startTx { s with clu := { s.clu with rx := .hunting } }))
    ∧ (∀ g : Gantry, gapDue (.drive g) s = true →
        exec (.byteGapTimeout (.drive g)) s = .next (startTx (modGsq g (fun q => { q with rx := .hunting }) s)))
    ∧ (∀ (u : UnitNo) (r : UnitRec), findUnit u s = some r → ∃ r', findUnit u (becomeReady u s) = some r'
        ∧ r'.state = .ready ∧ r'.readySeq = s.xpl.readySeq ∧ (becomeReady u s).xpl.readySeq = s.xpl.readySeq + 1)
    ∧ (∃ t, returnToRun s = settle (inEitherOrder headsReturn (inEitherOrder attemptBoth evaluateBoth) t)
      ∧ t.rcu = { s.rcu with run := .run, settle := none }
      ∧ t.clu.raised.getLsbD 20 = true ∧ t.clu.args[20] = [0]
      ∧ (∀ h : HeadIx, t.hsc.heads[h] = { s.hsc.heads[h] with
          fill := (match s.hsc.heads[h].fill with
            | .paused r => .running (s.now + r)
            | f => f)
          test := (match s.hsc.heads[h].test with
            | .paused r => .running (s.now + r)
            | f => f) })
      ∧ t.hsc.sockets = s.hsc.sockets ∧ t.upt = s.upt ∧ t.ltc = s.ltc ∧ t.fsc = s.fsc ∧ t.xpl = s.xpl ∧ t.pcu = s.pcu
      ∧ t.gsqL = s.gsqL ∧ t.gsqU = s.gsqU ∧ t.zar = s.zar ∧ t.srt = s.srt ∧ t.now = s.now)
    ∧ (returnToRun s).clu.raised.getLsbD 20 = true ∧ (returnToRun s).clu.args[20] = [0]
    ∧ (returnToRun s).rcu.settle = none
    ∧ ((∀ i : Fin 4, s.rcu.holdPoints[i].enabled = false) →
      (returnToRun s).rcu.run = .run ∧ (returnToRun s).rcu.causes = s.rcu.causes)

/-- A rising edge on EOTh outside TEST is stray; in TEST it captures the head, updates its estimate from the measured
duration and counts a capture. A timeout capture counts a capture and a timeout and leaves every estimate (R129, R130,
R131, R61, R32). Both record by steps 1 to 5 of R129 and then release the zone and enter FILL: each TESTING socket is DONE
with its counts and its quarantine (R121); its unit is TESTED with one more attempt (R13) and the route of R147; SOT and
the LD lines are low; the latest capture time is now, the fresh flag is set, and the cycle summary holds cycle number, SOT
time, duration or timeout, and for each socket the bin captured or none where it was not tested (R134). The bins are the sampled ones at an edge, 33 where the valid line is low, and 32 at a timeout. -/
def Obligations.EotCapturesAHeadInTest : Prop :=
  ∀ (h : HeadIx) (s : State),
    (∀ lines : Vector BinLine 4, s.pins.resetLow = false →
      (s.hsc.heads[h].state ≠ .test →
        exec (.eot h lines) s = .next (startTx (raise .strayEot [BitVec.ofNat 8 h.val] s)))
      ∧ (s.hsc.heads[h].state = .test →
        exec (.eot h lines) s = .next (startTx (settle (headsFollow s (endOfTest h lines s))))))
    ∧ (∀ lines : Vector BinLine 4,
      (∃ s1 : State, s1.upt = s.upt ∧ s1.hsc.sockets = s.hsc.sockets ∧ s1.srt = s.srt ∧ s1.ltc = s.ltc ∧ s1.now = s.now
        ∧ s1.hsc.heads[h] = { s.hsc.heads[h] with test := .stopped }
        ∧ (∀ j : Fin 4, s.hsc.sockets[headSocket h j].state = .testing → lines[j].valid = false →
            s1.clu.raised.getLsbD 15 = true)
        ∧ (∀ j : Fin 4, s.hsc.sockets[headSocket h j].state ≠ .testing → lines[j].valid = true →
            s1.clu.raised.getLsbD 14 = true)
        ∧ endOfTest h lines s = enterFill h (releaseZone .head h (captureUnits h false (sampledBin lines) s1)))
      ∧ ∀ j : Fin 4, (sampledBin lines (headSocket h j)).val = if lines[j].valid then lines[j].code.toNat else 33)
    ∧ (∃ s1 : State, s1.upt = s.upt ∧ s1.hsc.sockets = s.hsc.sockets ∧ s1.srt = s.srt ∧ s1.ltc = s.ltc ∧ s1.now = s.now
        ∧ s1.hsc.heads[h] = { s.hsc.heads[h] with test := .stopped } ∧ s1.clu = s.clu
        ∧ timeoutCapture h s = raise .headTimeout (BitVec.ofNat 8 h.val :: be16 s.hsc.heads[h].cycle)
            (enterFill h (releaseZone .head h (captureUnits h true (fun _ => 32) s1))))
    ∧ (∀ (timeout : Bool) (bin : SocketIx → BinCode) (t : State), t = captureUnits h timeout bin s →
      t.pins.sot[h] = false ∧ t.zar = s.zar
      ∧ (∀ i : HeadIx, i ≠ h → t.hsc.heads[i] = s.hsc.heads[i])
      ∧ (∀ sot : Time, s.hsc.heads[h].sot = some sot → ∃ v : CycleSummary,
        t.hsc.heads[h] = { s.hsc.heads[h] with capture := some s.now, fresh := true, summary := some v }
        ∧ v.cycle = s.hsc.heads[h].cycle ∧ v.sot = sot ∧ v.duration = (if timeout then none else some (s.now - sot))
        ∧ ∀ j : Fin 4, v.bins[j] =
          if s.hsc.sockets[headSocket h j].state = .testing then some (bin (headSocket h j)) else none)
      ∧ ∀ k : SocketIx, (headOf k = h → t.pins.ld[k] = false)
        ∧ (¬(headOf k = h ∧ s.hsc.sockets[k].state = .testing) → t.hsc.sockets[k] = s.hsc.sockets[k])
        ∧ ∀ e : BinEntry, headOf k = h → s.hsc.sockets[k].state = .testing → s.srt.binMap[bin k] = some e →
          (∀ (n q : Nat), n = (if e.fail then (if s.hsc.sockets[k].fails < 15 then s.hsc.sockets[k].fails + 1 else 15)
              else 0) → q = s.ltc.params.quarantineThreshold →
            t.hsc.sockets[k] = { s.hsc.sockets[k] with
              state := .done, tests := satInc s.hsc.sockets[k].tests
              passes := if e.pass then satInc s.hsc.sockets[k].passes else s.hsc.sockets[k].passes
              fails := n
              offPending := if 0 < q ∧ q ≤ n ∧ s.hsc.sockets[k].offPending = none then some .quarantine
                else s.hsc.sockets[k].offPending })
          ∧ ∀ (r : UnitRec) (sot : Time), findUnit s.hsc.sockets[k].unit s = some r → s.hsc.heads[h].sot = some sot →
            (∀ j : SocketIx, j ≠ k → headOf j = h → s.hsc.sockets[j].state = .testing →
              s.hsc.sockets[j].unit ≠ s.hsc.sockets[k].unit) →
            findUnit s.hsc.sockets[k].unit t = some (
              let attempts := r.attempts
                ++ [{ socket := k, cycle := s.hsc.heads[h].cycle, bin := bin k, duration := s.now - sot }]
              if s.ltc.state ≠ .purging ∧ e.retest = true ∧ attempts.length < s.ltc.params.maxAttempts then
                { r with
                  state := .tested, attempts := attempts, route := some .retest
                  excluded := r.excluded ||| BitVec.twoPow 16 k.val }
              else
                { r with
                  state := .tested, attempts := attempts
                  route := some (.final (match e.condition with
                    | .none => e.category
                    | .alignClean => if r.clamped = true ∨ r.voided = true then e.alternate else e.category
                    | .firstAttempt => if attempts.length = 1 then e.category else e.alternate) false) }))
    ∧ (∀ (lines : Vector BinLine 4) (t : Time), s.hsc.heads[h].sot = some t →
      (endOfTest h lines s).xpl.estimates
        = s.xpl.estimates.set h.val (nextEstimate s.xpl.estimates[h] (s.now - t).toNat)
      ∧ (endOfTest h lines s).ltc.captures = { s.ltc.captures with
          captures := s.ltc.captures.captures.set h.val (satInc s.ltc.captures.captures[h]) }
      ∧ (endOfTest h lines s).hsc.heads[h].state = .fill)
    ∧ (timeoutCapture h s).xpl.estimates = s.xpl.estimates
    ∧ (timeoutCapture h s).ltc.captures = { s.ltc.captures with
        captures := s.ltc.captures.captures.set h.val (satInc s.ltc.captures.captures[h])
        timeouts := s.ltc.captures.timeouts.set h.val (satInc s.ltc.captures.timeouts[h]) }
    ∧ (timeoutCapture h s).clu.raised.getLsbD 12 = true

/-- Every step keeps SOTh high exactly while head h is in TEST, and LDh.k high only while socket k of head h is TESTING,
with its head in TEST, or all of them low while RESET_N is low (the law of R128, R181); it keeps standing requests of heads
to those in START_WAIT, and a head in TEST only while it holds its own zone (the law of R126). -/
def Obligations.StepKeepsSotAtTheTest : Prop :=
  ∀ s t : State, SotInv s → step s = .next t → SotInv t
end

