-- ==== Sys2Proof/Laws/Keeps.lean ====
section
/-! SUPPORT. What the operations of the blocks leave as it is. `Keeps r s` says that s came from r by such operations: the
queue of commands, the time base, the taught items, the input lines, the frames of the cell link, the lot parameters and
the estimates are those of r, and the bounds of notices, log, order queues and run state that held in r hold in s. Each
operation has one lemma, in a form that chains: from `Keeps r s` to `Keeps r` of the state after it. -/
namespace Sys2Proof.Machine

/-- What every operation of the blocks keeps between two states. -/
structure Keeps (r s : State) : Prop where
  pending : s.pending = r.pending
  now : s.now = r.now
  pcu : s.pcu = r.pcu
  teach : ∀ k : SocketIx, s.hsc.sockets[k].teach = r.hsc.sockets[k].teach
  lines : s.pins.door = r.pins.door ∧ s.pins.estop = r.pins.estop ∧ s.pins.rate = r.pins.rate
    ∧ s.pins.resetLow = r.pins.resetLow
  link : s.clu.rx = r.clu.rx ∧ s.clu.rxQueue = r.clu.rxQueue ∧ s.clu.replySlot = r.clu.replySlot
    ∧ s.clu.resetRequested = r.clu.resetRequested ∧ s.clu.tx = r.clu.tx ∧ s.clu.enabled = r.clu.enabled
    ∧ s.clu.rate = r.clu.rate
  notices : r.clu.notices <+: s.clu.notices
  noticeRoom : r.clu.notices.length ≤ 16 → s.clu.notices.length ≤ 16
  raised : ∀ i, r.clu.raised.getLsbD i = true → s.clu.raised.getLsbD i = true
  raisedRoom : r.clu.raised.toNat < 2 ^ 26 → s.clu.raised.toNat < 2 ^ 26
  attn : r.pins.attn = r.clu.attention → s.pins.attn = s.clu.attention
  params : s.ltc.params = r.ltc.params
  estimates : (∀ k : HeadIx, 1 ≤ r.xpl.estimates[k] ∧ r.xpl.estimates[k] ≤ 600000) →
    ∀ k : HeadIx, 1 ≤ s.xpl.estimates[k] ∧ s.xpl.estimates[k] ≤ 600000
  tables : s.srt.binMap = r.srt.binMap ∧ s.srt.categories = r.srt.categories
  settings : s.rcu.settleDelay = r.rcu.settleDelay ∧ s.rcu.driveTimeout = r.rcu.driveTimeout
    ∧ s.rcu.mode = r.rcu.mode ∧ s.rcu.clearInHold = r.rcu.clearInHold ∧ s.rcu.holdPoints = r.rcu.holdPoints
  log : LogInv r → LogInv s
  queues : QueueInv r → QueueInv s
  run : RunInv r → RunInv s

theorem Keeps.refl (s : State) : Keeps s s := by
  constructor <;> first | exact id | simp

theorem Keeps.trans {r s t : State} (a : Keeps r s) (b : Keeps s t) : Keeps r t where
  pending := b.pending.trans a.pending
  now := b.now.trans a.now
  pcu := b.pcu.trans a.pcu
  teach k := (b.teach k).trans (a.teach k)
  lines := by have := a.lines; have := b.lines; simp_all
  link := by have := a.link; have := b.link; simp_all
  notices := a.notices.trans b.notices
  noticeRoom h := b.noticeRoom (a.noticeRoom h)
  raised i h := b.raised i (a.raised i h)
  raisedRoom h := b.raisedRoom (a.raisedRoom h)
  attn h := b.attn (a.attn h)
  params := b.params.trans a.params
  estimates h := b.estimates (a.estimates h)
  tables := by have := a.tables; have := b.tables; simp_all
  settings := by have := a.settings; have := b.settings; simp_all
  log h := b.log (a.log h)
  queues h := b.queues (a.queues h)
  run h := b.run (a.run h)

/-- The run-state invariant reads the run control unit and the timers of the heads alone. -/
theorem RunInv.congr {s t : State} (hr : t.rcu = s.rcu)
    (hh : s.rcu.run ≠ .run → ∀ h : HeadIx, (s.hsc.heads[h].fill.still ∧ s.hsc.heads[h].test.still) →
      t.hsc.heads[h].fill.still ∧ t.hsc.heads[h].test.still) (i : RunInv s) : RunInv t where
  causes := by rw [hr]; exact i.causes
  settle := by rw [hr]; exact i.settle
  delay := by rw [hr]; exact i.delay
  timeout := by rw [hr]; exact i.timeout
  timers := by rw [hr]; exact fun h k => hh h k (i.timers h k)

/-! ### Changes of one block -/

variable {r s : State}

theorem Keeps.onUpt (h : Keeps r s) (v : Upt) : Keeps r { s with upt := v } :=
  h.trans { Keeps.refl s with run := RunInv.congr rfl (fun _ _ h => h), log := fun i => ⟨i.room, i.once⟩ }

theorem Keeps.onFsc (h : Keeps r s) (v : Fsc) : Keeps r { s with fsc := v } :=
  h.trans { Keeps.refl s with run := RunInv.congr rfl (fun _ _ h => h), log := fun i => ⟨i.room, i.once⟩ }

theorem Keeps.onGsqL (h : Keeps r s) (v : Gsq) : Keeps r { s with gsqL := v } :=
  h.trans { Keeps.refl s with run := RunInv.congr rfl (fun _ _ h => h), log := fun i => ⟨i.room, i.once⟩ }

theorem Keeps.onGsqU (h : Keeps r s) (v : Gsq) : Keeps r { s with gsqU := v } :=
  h.trans { Keeps.refl s with run := RunInv.congr rfl (fun _ _ h => h), log := fun i => ⟨i.room, i.once⟩ }

theorem Keeps.onZar (h : Keeps r s) (v : Vector Zone 4) : Keeps r { s with zar := v } :=
  h.trans { Keeps.refl s with run := RunInv.congr rfl (fun _ _ h => h), log := fun i => ⟨i.room, i.once⟩ }

theorem Keeps.onFree (h : Keeps r s) (v : Nat) : Keeps r { s with free := v } :=
  h.trans { Keeps.refl s with run := RunInv.congr rfl (fun _ _ h => h), log := fun i => ⟨i.room, i.once⟩ }

theorem Keeps.onLtc (h : Keeps r s) (v : Ltc) (hv : v.params = s.ltc.params) : Keeps r { s with ltc := v } :=
  h.trans { Keeps.refl s with run := RunInv.congr rfl (fun _ _ h => h), log := fun i => ⟨i.room, i.once⟩, params := hv }

theorem Keeps.onXpl (h : Keeps r s) (v : Xpl) (he : v.estimates = s.xpl.estimates)
    (hl : s.xpl.loadQueue.length ≤ 8 → v.loadQueue.length ≤ 8)
    (hu : s.xpl.unloadQueue.length ≤ 8 → v.unloadQueue.length ≤ 8) : Keeps r { s with xpl := v } :=
  h.trans { Keeps.refl s with
    run := RunInv.congr rfl (fun _ _ h => h), log := fun i => ⟨i.room, i.once⟩, estimates := fun e => by simpa [he] using e, queues := fun q => ⟨hl q.1, hu q.2⟩ }

theorem Keeps.onSrt (h : Keeps r s) (v : Srt) (hb : v.binMap = s.srt.binMap) (hc : v.categories = s.srt.categories)
    (hl : LogInv s → LogInv { s with srt := v }) : Keeps r { s with srt := v } :=
  h.trans { Keeps.refl s with run := RunInv.congr rfl (fun _ _ h => h), tables := ⟨hb, hc⟩, log := hl }

theorem Keeps.onHsc (h : Keeps r s) (v : Hsc)
    (ht : ∀ k : SocketIx, v.sockets[k].teach = s.hsc.sockets[k].teach)
    (hr : s.rcu.run ≠ .run → ∀ h : HeadIx, (s.hsc.heads[h].fill.still ∧ s.hsc.heads[h].test.still) →
      v.heads[h].fill.still ∧ v.heads[h].test.still) : Keeps r { s with hsc := v } :=
  h.trans { Keeps.refl s with run := RunInv.congr rfl hr, log := fun i => ⟨i.room, i.once⟩, teach := ht }

theorem Keeps.onSotLd (h : Keeps r s) (a : Vector Bool 4) (b : Vector Bool 16) :
    Keeps r { s with pins := { s.pins with sot := a, ld := b } } :=
  h.trans { Keeps.refl s with run := RunInv.congr rfl (fun _ _ h => h), log := fun i => ⟨i.room, i.once⟩ }

theorem Keeps.onRcu (h : Keeps r s) (v : Rcu)
    (hs : v.settleDelay = s.rcu.settleDelay ∧ v.driveTimeout = s.rcu.driveTimeout ∧ v.mode = s.rcu.mode
      ∧ v.clearInHold = s.rcu.clearInHold ∧ v.holdPoints = s.rcu.holdPoints)
    (hr : v.run = s.rcu.run ∧ v.causes = s.rcu.causes ∧ v.settle = s.rcu.settle) : Keeps r { s with rcu := v } :=
  h.trans { Keeps.refl s with
    settings := hs
    log := fun i => ⟨i.room, i.once⟩
    run := fun i =>
      { causes := by simpa [hr] using i.causes, settle := by simpa [hr] using i.settle,
        delay := by simpa [hs] using i.delay, timeout := by simpa [hs] using i.timeout,
        timers := by simpa [hr] using i.timers } }

theorem Keeps.foldl {α : Type} {f : State → α → State} (hf : ∀ s a, Keeps r s → Keeps r (f s a)) :
    ∀ (l : List α) (s : State), Keeps r s → Keeps r (l.foldl f s)
  | [], _, h => h
  | a :: l, s, h => Keeps.foldl hf l (f s a) (hf s a h)

/-! ### Factors -/

theorem Factor.bit_lt (f : Factor) : f.bit.toNat < 2 ^ 26 := by cases f <;> decide

theorem raise_keeps (f : Factor) (arg : List Byte) (h : Keeps r s) : Keeps r (raise f arg s) := by
  refine h.trans ?_
  refine { Keeps.refl s with
    run := RunInv.congr rfl (fun _ _ h => h), log := fun i => ⟨i.room, i.once⟩
    attn := fun _ => rfl, notices := ?_, noticeRoom := ?_, raised := ?_
    raisedRoom := ?_ }
  · simp only [raise, setAttn, Clu.raise]; split <;> simp
  · simp only [raise, setAttn, Clu.raise]; split
    · simp; omega
    · simp
  · intro i hi; simp [raise, setAttn, Clu.raise, hi]
  · intro hr
    simp only [raise, setAttn, Clu.raise, BitVec.toNat_or]
    exact Nat.or_lt_two_pow hr f.bit_lt

/-! ### Records -/

theorem modUnit_keeps (u : UnitNo) (f : UnitRec → UnitRec) (h : Keeps r s) : Keeps r (modUnit u f s) := h.onUpt _

theorem dropUnit_keeps (u : UnitNo) (h : Keeps r s) : Keeps r (dropUnit u s) := h.onUpt _

theorem modCounters_keeps (f : UnitCounters → UnitCounters) (h : Keeps r s) : Keeps r (modCounters f s) := h.onUpt _

theorem modUpt_keeps (f : Upt → Upt) (h : Keeps r s) : Keeps r (modUpt f s) := h.onUpt _

theorem modSoak_keeps (p : SoakIx) (f : SoakPos → SoakPos) (h : Keeps r s) : Keeps r (modSoak p f s) := h.onUpt _

theorem modSocket_keeps (k : SocketIx) (f : SocketRec → SocketRec) (hf : ∀ x, (f x).teach = x.teach)
    (h : Keeps r s) : Keeps r (modSocket k f s) := by
  refine h.onHsc _ ?_ (fun _ _ h => h)
  intro j
  simp only [Fin.getElem_fin, Vector.getElem_set]
  split
  · rename_i e; simp [hf, e]
  · rfl

theorem modHead_keeps (k : HeadIx) (f : HeadRec → HeadRec)
    (hf : s.rcu.run ≠ .run → (s.hsc.heads[k].fill.still ∧ s.hsc.heads[k].test.still) →
      (f s.hsc.heads[k]).fill.still ∧ (f s.hsc.heads[k]).test.still) (h : Keeps r s) : Keeps r (modHead k f s) := by
  refine h.onHsc _ (fun _ => rfl) ?_
  intro hr j hj
  simp only [Fin.getElem_fin, Vector.getElem_set] at hj ⊢
  split
  · rename_i e
    apply hf hr
    simpa [Fin.getElem_fin, e] using hj
  · exact hj

theorem setAt_keeps (sp : Spot) (u : UnitNo) (h : Keeps r s) : Keeps r (setAt sp u s) := by
  cases sp
  · exact modSoak_keeps _ (fun p => { p with unit := u }) h
  · exact modSocket_keeps _ (fun x => { x with unit := u }) (fun _ => rfl) h
  · exact h.onUpt _
  · exact h.onUpt _

theorem leaveSpot_keeps (u : UnitNo) (h : Keeps r s) : Keeps r (leaveSpot u s) := by
  unfold leaveSpot; split
  · exact setAt_keeps _ _ h
  · exact h

theorem moveUnit_keeps (u : UnitNo) (sp : Spot) (h : Keeps r s) : Keeps r (moveUnit u sp s) :=
  modUnit_keeps _ _ (setAt_keeps _ _ (leaveSpot_keeps _ h))

/-! ### Gantries, queues, stations, zones -/

theorem modGsq_keeps (g : Gantry) (f : Gsq → Gsq) (h : Keeps r s) : Keeps r (modGsq g f s) := by
  cases g
  · exact h.onGsqL _
  · exact h.onGsqU _

theorem setGantry_keeps (g : Gantry) (st : GantryState) (h : Keeps r s) : Keeps r (setGantry g st s) :=
  modGsq_keeps _ _ h

theorem modXpl_keeps (f : Xpl → Xpl) (he : (f s.xpl).estimates = s.xpl.estimates)
    (hl : s.xpl.loadQueue.length ≤ 8 → (f s.xpl).loadQueue.length ≤ 8)
    (hu : s.xpl.unloadQueue.length ≤ 8 → (f s.xpl).unloadQueue.length ≤ 8) (h : Keeps r s) :
    Keeps r (modXpl f s) := h.onXpl _ he hl hu

theorem modQueue_keeps (g : Gantry) (f : List Order → List Order) (hf : ∀ l, (f l).length ≤ l.length)
    (h : Keeps r s) : Keeps r (modQueue g f s) := by
  cases g
  · exact h.onXpl _ rfl (fun q => (hf _).trans q) id
  · exact h.onXpl _ rfl id (fun q => (hf _).trans q)

theorem removeOrder_keeps (g : Gantry) (id : Nat) (h : Keeps r s) : Keeps r (removeOrder g id s) :=
  modQueue_keeps _ _ (fun l => List.length_filter_le _ l) h

theorem setStatus_keeps (g : Gantry) (id : Nat) (st : OrderStatus) (h : Keeps r s) : Keeps r (setStatus g id st s) :=
  modQueue_keeps _ _ (fun l => by simp) h

theorem setParked_keeps (g : Gantry) (b : Bool) (h : Keeps r s) : Keeps r (setParked g b s) := by
  cases g
  · exact h.onXpl _ rfl id id
  · exact h.onXpl _ rfl id id

theorem modIn_keeps (st : Side) (f : InStation → InStation) (h : Keeps r s) : Keeps r (modIn st f s) := by
  cases st
  · exact h.onFsc _
  · exact h.onFsc _

theorem modFsc_keeps (f : Fsc → Fsc) (h : Keeps r s) : Keeps r (modFsc f s) := h.onFsc _

theorem modOut_keeps (st : OutStation) (f : OutRec → OutRec) (h : Keeps r s) : Keeps r (modOut st f s) :=
  h.onSrt _ rfl rfl (fun i => ⟨i.room, i.once⟩)

theorem modPair_keeps (p : PairIx) (f : PairRec → PairRec) (h : Keeps r s) : Keeps r (modPair p f s) :=
  h.onSrt _ rfl rfl (fun i => ⟨i.room, i.once⟩)

theorem modZone_keeps (z : HeadIx) (f : Zone → Zone) (h : Keeps r s) : Keeps r (modZone z f s) := h.onZar _

theorem withdrawHead_keeps (k : HeadIx) (h : Keeps r s) : Keeps r (withdrawHead k s) := h.onZar _

theorem withdrawGantry_keeps (g : Gantry) (h : Keeps r s) : Keeps r (withdrawGantry g s) := h.onZar _

theorem withdrawHeads_keeps (h : Keeps r s) : Keeps r (withdrawHeads s) := h.onZar _

theorem withdrawAll_keeps (h : Keeps r s) : Keeps r (withdrawAll s) := h.onZar _

theorem setLd_keeps (k : SocketIx) (b : Bool) (h : Keeps r s) : Keeps r (setLd k b s) := h.onSotLd s.pins.sot _

theorem setSot_keeps (k : HeadIx) (b : Bool) (h : Keeps r s) : Keeps r (setSot k b s) := h.onSotLd _ s.pins.ld

theorem lowerLines_keeps (k : HeadIx) (h : Keeps r s) : Keeps r (lowerLines k s) :=
  Keeps.foldl (fun _ _ h => setLd_keeps _ _ h) _ _ (setSot_keeps _ _ h)

/-! ### Lots and feed stations -/

theorem modLtc_keeps (f : Ltc → Ltc) (hf : (f s.ltc).params = s.ltc.params) (h : Keeps r s) : Keeps r (modLtc f s) :=
  h.onLtc _ hf

theorem becomeDrained_keeps (h : Keeps r s) : Keeps r (becomeDrained s) := raise_keeps _ _ (modLtc_keeps _ rfl h)

theorem checkEmpty_keeps (h : Keeps r s) : Keeps r (checkEmpty s) := by
  unfold checkEmpty; split
  · exact becomeDrained_keeps h
  · exact h

theorem inputDone_keeps (h : Keeps r s) : Keeps r (inputDone s) := by
  unfold inputDone; split
  · exact checkEmpty_keeps (raise_keeps _ _ (modLtc_keeps _ rfl h))
  · exact h

theorem countCapture_keeps (k : HeadIx) (b : Bool) (h : Keeps r s) : Keeps r (countCapture k b s) := modLtc_keeps _ rfl h

theorem countVoided_keeps (h : Keeps r s) : Keeps r (countVoided s) := modLtc_keeps _ rfl h

theorem countBinned_keeps (c : Category) (h : Keeps r s) : Keeps r (countBinned c s) := modCounters_keeps _ h

theorem activateIn_keeps (st : Side) (h : Keeps r s) : Keeps r (activateIn st s) := modFsc_keeps _ (modIn_keeps _ _ h)

theorem handOver_keeps (st : Side) (h : Keeps r s) : Keeps r (handOver st s) := by
  unfold handOver
  repeat' split
  · exact inputDone_keeps h
  · exact h
  · exact activateIn_keeps _ h
  · exact raise_keeps _ _ (modFsc_keeps _ h)

theorem spendStation_keeps (st : Side) (h : Keeps r s) : Keeps r (spendStation st s) := by
  unfold spendStation
  exact modIn_keeps _ _ (raise_keeps _ _ h)

theorem disarmStation_keeps (st : Side) (h : Keeps r s) : Keeps r (disarmStation st s) := modIn_keeps _ _ h

theorem trayCountEnds_keeps (st : Side) (h : Keeps r s) : Keeps r (trayCountEnds st s) := by
  unfold trayCountEnds
  dsimp only
  split
  · exact spendStation_keeps _ (disarmStation_keeps _ (modFsc_keeps _ (inputDone_keeps h)))
  · exact modFsc_keeps _ (inputDone_keeps h)

theorem stepTrayCounter_keeps (st : Side) (h : Keeps r s) : Keeps r (stepTrayCounter st s) := by
  unfold stepTrayCounter
  dsimp only
  repeat' split
  · exact h
  · exact trayCountEnds_keeps _ (modFsc_keeps _ h)
  · exact modFsc_keeps _ h
  · exact raise_keeps _ _ (modFsc_keeps _ h)
  · exact modFsc_keeps _ h

theorem spendIfDone_keeps (st : Side) (h : Keeps r s) : Keeps r (spendIfDone st s) := by
  unfold spendIfDone
  dsimp only
  repeat' split
  · exact stepTrayCounter_keeps _ (spendStation_keeps _ h)
  · exact spendStation_keeps _ h
  · exact h

theorem finishStation_keeps (st : Side) (h : Keeps r s) : Keeps r (finishStation st s) :=
  handOver_keeps _ (modIn_keeps _ _ h)

theorem planPocket_keeps (st : Side) (h : Keeps r s) : Keeps r (planPocket st s) := by
  unfold planPocket
  dsimp only
  split
  · exact finishStation_keeps _ (modIn_keeps _ _ h)
  · exact modIn_keeps _ _ h

theorem planInputPick_keeps {st : Side} {slot : InSlot} {t : State} (e : planInputPick s = some (st, slot, t))
    (h : Keeps r s) : Keeps r t := by
  simp only [planInputPick] at e
  split at e
  · cases e
  · split at e
    · split at e
      · obtain ⟨_, _, rfl⟩ := by simpa using e
        exact planPocket_keeps _ h
      · split at e
        · obtain ⟨_, _, rfl⟩ := by simpa using e
          exact modIn_keeps _ _ h
        · cases e
      · cases e
    · cases e

theorem runDry_keeps (st : Side) (h : Keeps r s) : Keeps r (runDry st s) := by
  unfold runDry
  dsimp only
  split
  · exact finishStation_keeps _ (raise_keeps _ _ h)
  · exact raise_keeps _ _ h

theorem endInputPick_keeps (st : Side) (e : PickEnd) (h : Keeps r s) : Keeps r (endInputPick st e s) := by
  unfold endInputPick
  dsimp only
  apply spendIfDone_keeps
  split
  · exact runDry_keeps _ (modIn_keeps _ _ h)
  · exact modIn_keeps _ _ h

theorem purgeStation_keeps (st : Side) (h : Keeps r s) : Keeps r (purgeStation st s) := by
  unfold purgeStation; split
  · exact spendIfDone_keeps _ (disarmStation_keeps _ h)
  · exact h

theorem purgeFeed_keeps (h : Keeps r s) : Keeps r (purgeFeed s) :=
  modFsc_keeps _ (purgeStation_keeps _ (purgeStation_keeps _ h))

/-! ### Sorting and output -/

theorem unready_keeps (u : UnitNo) (h : Keeps r s) : Keeps r (unready u s) := h.onXpl _ rfl id id

theorem routeUnit_keeps (u : UnitNo) (k : SocketIx) (b : BinCode) (h : Keeps r s) : Keeps r (routeUnit u k b s) := by
  unfold routeUnit
  repeat' split
  · exact modCounters_keeps _ (modUnit_keeps _ _ h)
  · exact modUnit_keeps _ _ h
  · exact h

theorem reroute_keeps (u : UnitNo) (h : Keeps r s) : Keeps r (reroute u s) := by
  unfold reroute
  repeat' split
  · exact unready_keeps _ (modUnit_keeps _ _ h)
  all_goals exact h

theorem purgeUnitRoute_keeps (u : UnitNo) (h : Keeps r s) : Keeps r (purgeUnitRoute u s) := by
  unfold purgeUnitRoute
  repeat' split
  · exact h
  · exact unready_keeps _ (modUnit_keeps _ _ h)
  · exact reroute_keeps _ h
  all_goals exact h

theorem purgeRoutes_keeps (h : Keeps r s) : Keeps r (purgeRoutes s) :=
  Keeps.foldl (fun _ _ h => purgeUnitRoute_keeps _ h) _ _ h

theorem blockPair_keeps (p : PairIx) (h : Keeps r s) : Keeps r (blockPair p s) :=
  Keeps.foldl (fun _ _ h => raise_keeps _ _ h) _ _ (modPair_keeps _ _ h)

theorem outHandOver_keeps (st : OutStation) (h : Keeps r s) : Keeps r (outHandOver st s) := by
  unfold outHandOver; dsimp only; split
  · exact modPair_keeps _ _ (modOut_keeps _ _ h)
  · exact blockPair_keeps _ h

theorem takePocket_keeps {p : PairIx} {st : OutStation} {k : Pocket} {t : State}
    (e : takePocket p s = some (st, k, t)) (h : Keeps r s) : Keeps r t := by
  unfold takePocket at e
  split at e
  · cases e
  · dsimp only at e
    split at e <;> simp only [Option.some.injEq, Prod.mk.injEq] at e <;> obtain ⟨_, _, rfl⟩ := e
    · exact outHandOver_keeps _ (modOut_keeps _ _ (modOut_keeps _ _ h))
    · exact modOut_keeps _ _ h

theorem endOutPlace_keeps (st : OutStation) (b : Bool) (h : Keeps r s) : Keeps r (endOutPlace st b s) := by
  unfold endOutPlace
  dsimp only
  repeat' split
  all_goals first
    | exact modOut_keeps _ _ (raise_keeps _ _ (modOut_keeps _ _ h))
    | exact modOut_keeps _ _ h

theorem reserveLog_keeps {u : UnitNo} {t : State} (e : reserveLog u s = some t) (h : Keeps r s) : Keeps r t := by
  unfold reserveLog at e
  split at e
  · rename_i c
    cases e
    refine h.onSrt _ rfl rfl (fun i => ⟨?_, ?_⟩)
    · simp; omega
    · exact List.nodup_append.2 ⟨i.once, by simp, fun a ha b hb => by
        simp only [List.mem_singleton] at hb; subst hb; exact fun e => c.2.2 (e ▸ ha)⟩
  · cases e

theorem releaseLog_keeps (u : UnitNo) (h : Keeps r s) : Keeps r (releaseLog u s) := by
  refine h.onSrt _ rfl rfl (fun i => ⟨?_, i.once.filter _⟩)
  have := List.length_filter_le (fun v => decide (v ≠ u)) s.srt.reservations
  have := i.room
  simp only; omega

theorem raiseLogFactors_keeps (h : Keeps r s) : Keeps r (raiseLogFactors s) := by
  unfold raiseLogFactors
  dsimp only
  repeat' split
  · exact raise_keeps _ _ (raise_keeps _ _ h)
  · exact raise_keeps _ _ h
  · exact raise_keeps _ _ h
  · exact h

theorem appendLog_keeps (x : UnitRec) (dest : Place) (h : Keeps r s) : Keeps r (appendLog x dest s) := by
  unfold appendLog
  split
  · rename_i hm
    apply raiseLogFactors_keeps
    refine h.onSrt _ rfl rfl (fun i => ⟨?_, i.once.filter _⟩)
    have h1 : (s.srt.reservations.filter (fun v => decide (v ≠ x.no))).length < s.srt.reservations.length := by
      apply List.length_filter_lt_length_iff_exists.2
      exact ⟨x.no, hm, by simp⟩
    have h2 := i.room
    simp only [modSrt, releaseLog, List.length_append, List.length_singleton]
    omega
  · exact h

theorem countChute_keeps (h : Keeps r s) : Keeps r (countChute s) := h.onSrt _ rfl rfl (fun i => ⟨i.room, i.once⟩)

end Sys2Proof.Machine
end

