-- ==== Sys2Proof/Laws/KeepsHeads.lean ====
section
/-! SUPPORT. What the operations of the heads and of the unit table leave as it is: `Keeps` for each of them. -/
namespace Sys2Proof.Machine

variable {r s : State}

/-! ### Timers -/

theorem startTimer_still (n : Nat) (h : s.rcu.run ≠ .run) : (startTimer n s).still := by simp [startTimer, h, HeadTimer.still]

theorem HeadTimer.pause_still (now : Time) (t : HeadTimer) : (t.pause now).still := by
  cases t <;> simp [HeadTimer.pause, HeadTimer.still]

theorem modHeads_keeps (f : HeadRec → HeadRec)
    (hf : s.rcu.run ≠ .run → ∀ x : HeadRec, (x.fill.still ∧ x.test.still) → (f x).fill.still ∧ (f x).test.still)
    (h : Keeps r s) : Keeps r (modHeads f s) := by
  refine h.onHsc _ (fun _ => rfl) ?_
  intro hr j hj
  simpa using hf hr _ hj

theorem pauseTimers_keeps (h : Keeps r s) : Keeps r (pauseTimers s) :=
  modHeads_keeps _ (fun _ x _ => ⟨HeadTimer.pause_still _ x.fill, HeadTimer.pause_still _ x.test⟩) h

theorem pauseTimers_still (s : State) (k : HeadIx) :
    ((pauseTimers s).hsc.heads[k]).fill.still ∧ ((pauseTimers s).hsc.heads[k]).test.still := by
  simp [pauseTimers, modHeads, HeadTimer.pause_still]

theorem inEitherOrder_keeps {f g : State → State} (hf : ∀ s, Keeps r s → Keeps r (f s))
    (hg : ∀ s, Keeps r s → Keeps r (g s)) (h : Keeps r s) : Keeps r (inEitherOrder f g s) := by
  unfold inEitherOrder drawBool
  split <;> rename_i e <;> obtain ⟨_, rfl⟩ := Prod.mk.inj e
  · exact hf _ (hg _ (h.onFree _))
  · exact hg _ (hf _ (h.onFree _))

/-! ### Start of test -/

theorem testSocket_keeps (k : SocketIx) (h : Keeps r s) : Keeps r (testSocket s k) := by
  unfold testSocket; exact setLd_keeps _ _ (modSocket_keeps _ _ (fun _ => rfl) (modUnit_keeps _ _ h))

theorem startTest_keeps (k : HeadIx) (h : Keeps r s) : Keeps r (startTest k s) := by
  unfold startTest
  dsimp only
  refine modHead_keeps _ _ (fun hr hs => ⟨hs.1, ?_⟩)
    (setSot_keeps _ _ (Keeps.foldl (fun _ _ => testSocket_keeps _) _ _ (modHead_keeps _ _ (fun _ h => h) h)))
  have e : ∀ (l : List SocketIx) (t : State), (l.foldl testSocket t).rcu = t.rcu := by
    intro l; induction l with
    | nil => intro t; rfl
    | cons a l ih => intro t; exact (ih _).trans rfl
  have : s.rcu.run ≠ .run := by
    have hr' : ((loadedSockets k (modHead k (fun r => { r with cycle := r.cycle + 1, sot := some s.now }) s)).foldl
      testSocket (modHead k (fun r => { r with cycle := r.cycle + 1, sot := some s.now }) s)).rcu.run ≠ .run := hr
    rw [e] at hr'; exact hr'
  exact startTimer_still _ this

theorem grantHead_keeps (k : HeadIx) (h : Keeps r s) : Keeps r (grantHead k s) := by
  unfold grantHead; exact startTest_keeps _ (modZone_keeps _ _ h)

theorem requestHead_keeps (k : HeadIx) (h : Keeps r s) : Keeps r (requestHead k s) := by
  unfold requestHead
  repeat' split
  all_goals first | exact h | exact grantHead_keeps _ h | exact modZone_keeps _ _ h

/-! ### Fill timer, eviction, head states -/

theorem startFill_keeps (k : HeadIx) (h : Keeps r s) : Keeps r (startFill k s) := by
  unfold startFill
  refine modHead_keeps _ _ (fun hr hs => ⟨?_, hs.2⟩) h
  dsimp only
  split
  · trivial
  · exact startTimer_still _ hr

theorem stopFill_keeps (k : HeadIx) (h : Keeps r s) : Keeps r (stopFill k s) :=
  modHead_keeps _ _ (fun _ hs => ⟨trivial, hs.2⟩) h

theorem stopTest_keeps (k : HeadIx) (h : Keeps r s) :
    Keeps r (modHead k (fun x => { x with test := .stopped }) s) :=
  modHead_keeps _ _ (fun _ hs => ⟨hs.1, trivial⟩) h

theorem enterFill_keeps (k : HeadIx) (h : Keeps r s) : Keeps r (enterFill k s) := by
  unfold enterFill; dsimp only; split
  · exact startFill_keeps _ (modHead_keeps _ _ (fun _ h => h) h)
  · exact modHead_keeps _ _ (fun _ h => h) h

theorem loadedInHead_keeps (k : HeadIx) (h : Keeps r s) : Keeps r (loadedInHead k s) := by
  unfold loadedInHead; split
  · exact startFill_keeps _ h
  · exact h

theorem moveSocket_keeps (k : SocketIx) (f : SocketRec → SocketRec) (hf : ∀ x, (f x).teach = x.teach) (h : Keeps r s) :
    Keeps r (moveSocket k f s) := by
  unfold moveSocket; split
  · exact h
  · exact modSocket_keeps _ _ hf h

theorem evict_keeps (k : SocketIx) (h : Keeps r s) : Keeps r (evict k s) := by
  unfold evict; exact moveSocket_keeps _ _ (fun _ => rfl) (modUnit_keeps _ _ h)

theorem releaseSocket_keeps (k : SocketIx) (h : Keeps r s) : Keeps r (releaseSocket k s) := by
  unfold releaseSocket; split
  · exact modSocket_keeps _ _ (fun _ => rfl) h
  · exact h

theorem startIfReady_keeps (k : HeadIx) (h : Keeps r s) : Keeps r (startIfReady k s) := by
  unfold startIfReady; split
  · exact requestHead_keeps _ (modHead_keeps _ _ (fun _ hs => ⟨trivial, hs.2⟩) h)
  · exact h

theorem idleToFill_keeps (k : HeadIx) (h : Keeps r s) : Keeps r (idleToFill k s) := by
  unfold idleToFill; split
  · exact modHead_keeps _ _ (fun _ h => h) h
  · exact h

theorem fillToIdle_keeps (k : HeadIx) (h : Keeps r s) : Keeps r (fillToIdle k s) := by
  unfold fillToIdle; split
  · exact modHead_keeps _ _ (fun _ h => h) (stopFill_keeps _ h)
  · exact h

theorem fillUnloaded_keeps (k : HeadIx) (h : Keeps r s) : Keeps r (fillUnloaded k s) := by
  unfold fillUnloaded; split
  · exact stopFill_keeps _ h
  · exact h

theorem startWaitBack_keeps (k : HeadIx) (h : Keeps r s) : Keeps r (startWaitBack k s) := by
  unfold startWaitBack; split
  · exact enterFill_keeps _ (withdrawHead_keeps _ h)
  · exact h

theorem reviewHead_keeps (k : HeadIx) (h : Keeps r s) : Keeps r (reviewHead k s) := by
  unfold reviewHead
  exact startIfReady_keeps _ (fillUnloaded_keeps _ (fillToIdle_keeps _ (startWaitBack_keeps _ (idleToFill_keeps _ h))))

theorem reviewChanged_keeps (before : State) (h : Keeps r s) : Keeps r (reviewChanged before s) := by
  refine Keeps.foldl (fun s k h => ?_) _ _ h
  split
  · exact h
  · exact reviewHead_keeps _ h

theorem examineRetest_keeps (u : UnitNo) (h : Keeps r s) : Keeps r (examineRetest u s) := by
  unfold examineRetest; dsimp only
  repeat' split
  all_goals first | exact h | exact modUnit_keeps _ _ h | exact reroute_keeps _ (modUnit_keeps _ _ h)

theorem examineActive_keeps (before : State) (h : Keeps r s) : Keeps r (examineActive before s) := by
  unfold examineActive; split
  · exact h
  · exact Keeps.foldl (fun _ _ => examineRetest_keeps _) _ _ h

theorem headsFollow_keeps (before : State) (h : Keeps r s) : Keeps r (headsFollow before s) := by
  unfold headsFollow; exact reviewChanged_keeps _ (examineActive_keeps _ h)

/-! ### Soak positions and the ready list -/

theorem reserveSoak_keeps {p : Purpose} {u : UnitNo} {q : SoakIx} {t : State} (e : reserveSoak p u s = some (q, t))
    (h : Keeps r s) : Keeps r t := by
  unfold reserveSoak at e
  repeat' split at e
  all_goals simp only [Option.some.injEq, Prod.mk.injEq, reduceCtorEq] at e
  obtain ⟨_, rfl⟩ := e; exact modSoak_keeps _ _ h

theorem releaseSoak_keeps (p : SoakIx) (h : Keeps r s) : Keeps r (releaseSoak p s) := by
  unfold releaseSoak; split
  · exact modSoak_keeps _ _ h
  · exact h

theorem addReady_keeps (u : UnitNo) (h : Keeps r s) : Keeps r (addReady u s) := by
  unfold addReady
  repeat' split
  all_goals first | exact h | exact modXpl_keeps _ rfl id id h

theorem becomeReady_keeps (u : UnitNo) (h : Keeps r s) : Keeps r (becomeReady u s) := by
  unfold becomeReady
  exact addReady_keeps _ (examineRetest_keeps _ (modXpl_keeps _ rfl id id (modUnit_keeps _ _ h)))

theorem arriveSoak_keeps (u : UnitNo) (p : SoakIx) (q : Purpose) (h : Keeps r s) : Keeps r (arriveSoak u p q s) := by
  unfold arriveSoak
  split
  · dsimp only
    split
    · exact becomeReady_keeps _ (modUnit_keeps _ _ (modSoak_keeps _ _ (moveUnit_keeps _ _ h)))
    · exact modUnit_keeps _ _ (modSoak_keeps _ _ (moveUnit_keeps _ _ h))
  · exact h

/-! ### Creation and retirement -/

theorem nameReservation_keeps (n : NozzleIx) (u : UnitNo) (h : Keeps r s) : Keeps r (nameReservation n u s) := by
  unfold nameReservation; split
  · exact modSoak_keeps _ _ h
  · exact h

theorem createUnit_keeps (st : Side) (slot : InSlot) (n : NozzleIx) (h : Keeps r s) :
    Keeps r (createUnit st slot n s) := by
  unfold createUnit; dsimp only
  exact modQueue_keeps _ _ (fun l => by simp)
    (modCounters_keeps _ (setAt_keeps _ _ (modUpt_keeps _ (nameReservation_keeps _ _ h))))

theorem endCreation_keeps (h : Keeps r s) : Keeps r (endCreation s) := modUpt_keeps _ h

theorem countRetired_keeps (x : UnitRec) (d : Place) (h : Keeps r s) : Keeps r (countRetired x d s) := by
  unfold countRetired; split
  · exact modCounters_keeps _ h
  · exact countBinned_keeps _ h
  · exact h

theorem retire_keeps (u : UnitNo) (d : Place) (h : Keeps r s) : Keeps r (retire u d s) := by
  unfold retire; split
  · exact dropUnit_keeps _ (countRetired_keeps _ _ (leaveSpot_keeps _ (appendLog_keeps _ _ h)))
  · exact h

/-! ### Cancellation and loss -/

theorem releaseOrder_keeps (o : Order) (h : Keeps r s) : Keeps r (releaseOrder o s) := by
  unfold releaseOrder; split
  · exact h
  · exact releaseSocket_keeps _ h
  · exact releaseSoak_keeps _ h
  · exact releaseLog_keeps _ (endOutPlace_keeps _ _ h)
  · exact releaseLog_keeps _ h

theorem dropOrder_keeps (g : Gantry) (o : Order) (h : Keeps r s) : Keeps r (dropOrder g o s) :=
  releaseOrder_keeps _ (removeOrder_keeps _ _ h)

theorem setStageHead_keeps (n : NozzleIx) (k : Option HeadIx) (h : Keeps r s) : Keeps r (setStageHead n k s) :=
  modXpl_keeps _ rfl id id h

theorem modHeld_keeps (u : UnitNo) (f : UnitRec → UnitRec) (h : Keeps r s) : Keeps r (modHeld u f s) :=
  modUnit_keeps _ _ h

theorem unmask_keeps (n : NozzleIx) (h : Keeps r s) : Keeps r (unmask n s) := by
  unfold unmask
  exact modQueue_keeps _ _ (fun l => List.length_filter_le _ l) (modQueue_keeps _ _ (fun l => by simp) h)

theorem pickCancelled_keeps (g : Gantry) (o : Order) (h : Keeps r s) : Keeps r (pickCancelled g o s) := by
  unfold pickCancelled; split
  · exact endInputPick_keeps _ _ (endCreation_keeps h)
  · exact addReady_keeps _ (modHeld_keeps _ _ h)
  · exact modHeld_keeps _ _ h

theorem cancelPick_keeps (g : Gantry) (o : Order) (h : Keeps r s) : Keeps r (cancelPick g o s) := by
  have h' := Keeps.foldl (fun s p => dropOrder_keeps (s := s) g p) (placesOf g o.nozzle s) _ (dropOrder_keeps g o h)
  unfold cancelPick; dsimp only; split
  · exact pickCancelled_keeps _ _ (setStageHead_keeps _ _ (unmask_keeps _ h'))
  · exact pickCancelled_keeps _ _ h'

theorem placeCancelled_keeps (n : NozzleIx) (u : UnitNo) (k : HeadIx) (h : Keeps r s) :
    Keeps r (placeCancelled n u k s) := by
  unfold placeCancelled
  repeat' split
  · exact h
  · exact modHeld_keeps _ _ h
  · exact setStageHead_keeps _ _ (modHeld_keeps _ _ h)
  all_goals exact modHeld_keeps _ _ h

theorem placeEffect_keeps (g : Gantry) (o : Order) (h : Keeps r s) : Keeps r (placeEffect g o s) := by
  unfold placeEffect; split
  · exact placeCancelled_keeps _ _ _ h
  · exact modHeld_keeps _ _ h
  · exact modHeld_keeps _ _ h

theorem inspectCancelledFor_keeps (n : NozzleIx) (h : Keeps r s) : Keeps r (inspectCancelledFor s n) := by
  unfold inspectCancelledFor; dsimp only; split
  · exact modHeld_keeps _ _ (setStageHead_keeps _ _ h)
  · exact modHeld_keeps _ _ (setStageHead_keeps _ _ h)

theorem cancelOrder_keeps (g : Gantry) (o : Order) (h : Keeps r s) : Keeps r (cancelOrder g o s) := by
  unfold cancelOrder
  repeat' split
  · exact cancelPick_keeps _ _ h
  · exact Keeps.foldl (fun _ _ => inspectCancelledFor_keeps _) _ _ (dropOrder_keeps _ _ h)
  · exact cancelPick_keeps _ _ h
  · exact placeEffect_keeps _ _ (dropOrder_keeps _ _ h)
  · exact dropOrder_keeps _ _ h

theorem cancelOne_keeps (g : Gantry) (id : Nat) (h : Keeps r s) : Keeps r (cancelOne g s id) := by
  unfold cancelOne
  repeat' split
  all_goals first | exact h | exact cancelOrder_keeps _ _ h

theorem afterCancel_keeps (g : Gantry) (before : State) (h : Keeps r s) : Keeps r (afterCancel g before s) := by
  unfold afterCancel
  repeat' split
  · exact setGantry_keeps _ _ (withdrawGantry_keeps _ h)
  · exact setGantry_keeps _ _ h
  · exact h

theorem cancelWhere_keeps (g : Gantry) (p : Order → Bool) (h : Keeps r s) : Keeps r (cancelWhere g p s) :=
  afterCancel_keeps _ _ (Keeps.foldl (fun _ _ => cancelOne_keeps _ _) _ _ h)

theorem releaseTarget_keeps (t : Option Target) (h : Keeps r s) : Keeps r (releaseTarget t s) := by
  unfold releaseTarget; split
  · exact releaseSocket_keeps _ h
  · exact releaseSoak_keeps _ h
  · exact h

theorem loseUnit_keeps (u : UnitNo) (h : Keeps r s) : Keeps r (loseUnit u s) := by
  unfold loseUnit
  repeat' split
  · exact h
  · exact cancelWhere_keeps _ _ (cancelWhere_keeps _ _ (unready_keeps _ (raise_keeps _ _ (modCounters_keeps _
      (releaseTarget_keeps _ (modUnit_keeps _ _ (leaveSpot_keeps _ h)))))))
  · exact h

end Sys2Proof.Machine
end

