-- ==== Sys2Proof/Laws/KeepsMoves.lean ====
section
/-! SUPPORT. What planning, issuing, zones and the settling of a step leave as it is: `Keeps` for each operation, with the
bounds on the orders of a trip that the queues need. -/
namespace Sys2Proof.Machine

variable {r s : State}

/-! ### Legs of a trip -/

/-- A choice of legs keeps the blocks and takes at most n legs. -/
def LegsKeep (r : State) (n : Nat) (x : List Leg × State) : Prop := x.1.length ≤ n ∧ Keeps r x.2

theorem LegsKeep.cons {n : Nat} {x : List Leg × State} (l : Leg) (h : LegsKeep r n x) :
    LegsKeep r (n + 1) (x.map (l :: ·) id) := ⟨by simpa using h.1, h.2⟩

theorem LegsKeep.mono {n m : Nat} {x : List Leg × State} (h : LegsKeep r n x) (e : n ≤ m) : LegsKeep r m x :=
  ⟨h.1.trans e, h.2⟩

theorem reserveSocket_keeps (k : SocketIx) (h : Keeps r s) : Keeps r (reserveSocket k s) :=
  modSocket_keeps _ _ (fun _ => rfl) h

theorem setTarget_keeps (u : UnitNo) (t : Option Target) (h : Keeps r s) : Keeps r (setTarget u t s) :=
  modUnit_keeps _ _ h

theorem socketLeg_keeps (n : NozzleIx) (u : UnitNo) (p : Option Place) (k : SocketIx) (h : Keeps r s) :
    Keeps r (socketLeg n u p k s).2 := by
  unfold socketLeg; exact setTarget_keeps _ _ (reserveSocket_keeps _ h)

theorem soakLeg_keeps {n : NozzleIx} {u : UnitNo} {p : Option Place} {q : Purpose} {l : Leg} {t : State}
    (e : soakLeg n u p q s = some (l, t)) (h : Keeps r s) : Keeps r t := by
  unfold soakLeg at e
  split at e
  · rename_i e'
    obtain ⟨_, rfl⟩ := Prod.mk.inj (Option.some.inj e)
    exact setTarget_keeps _ _ (reserveSoak_keeps e' h)
  · cases e

theorem stagedLeg_keeps (n : NozzleIx) (x : UnitRec) (h : Keeps r s) : Keeps r (stagedLeg n x s).2 := by
  unfold stagedLeg
  repeat' split
  · rename_i e; exact soakLeg_keeps e h
  · exact h
  · exact socketLeg_keeps n x.no none _ h
  · exact examineRetest_keeps _ h

theorem nozzleLeg_keeps (n : NozzleIx) (h : Keeps r s) : Keeps r (nozzleLeg n s).2 := by
  unfold nozzleLeg
  repeat' split
  all_goals first | exact h | exact stagedLeg_keeps _ _ h | (rename_i e; exact soakLeg_keeps e h)

theorem nozzleLegs_keeps {leg : NozzleIx → State → Option Leg × State}
    (hf : ∀ n s, Keeps r s → Keeps r (leg n s).2) :
    ∀ (ns : List NozzleIx) (s : State), Keeps r s → LegsKeep r ns.length (nozzleLegs leg ns s)
  | [], s, h => ⟨by simp [nozzleLegs], h⟩
  | n :: ns, s, h => by
    have h' := hf n s h
    unfold nozzleLegs
    split <;> rename_i e <;> rw [e] at h'
    · exact (nozzleLegs_keeps hf ns _ h').cons _
    · exact (nozzleLegs_keeps hf ns _ h').mono (by simp)

theorem socketLegs_keeps : ∀ (us : List UnitNo) (ns : List NozzleIx) (room : Nat) (s : State), Keeps r s →
    LegsKeep r (min ns.length room) (socketLegs us ns room s) := by
  intro us
  induction us with
  | nil => intro ns room s h; exact ⟨by simp [socketLegs], by simpa [socketLegs] using h⟩
  | cons u us ih =>
    intro ns room s h
    match ns, room with
    | [], _ => exact ⟨by simp [socketLegs], by simpa [socketLegs] using h⟩
    | n :: ns, 0 => exact ⟨by simp [socketLegs], by simpa [socketLegs] using h⟩
    | n :: ns, room + 1 =>
      unfold socketLegs
      split
      · rename_i x _ _
        exact ((ih ns room _ (unready_keeps u (socketLeg_keeps n u (soakSource x) _ h))).cons _).mono (by simp)
      · exact ih (n :: ns) (room + 1) s h

theorem inputDestination_keeps {x : Place × Reservation × Option Purpose × State}
    (e : inputDestination s = some x) (h : Keeps r s) : Keeps r x.2.2.2 := by
  unfold inputDestination at e
  split at e
  · obtain ⟨⟨p, t⟩, e', rfl⟩ := Option.map_eq_some_iff.1 e
    exact reserveSoak_keeps e' h
  · obtain ⟨k, _, rfl⟩ := Option.map_eq_some_iff.1 e
    exact reserveSocket_keeps _ h

theorem inputLegs_keeps : ∀ (ns : List NozzleIx) (limit : Nat) (s : State), Keeps r s →
    LegsKeep r limit (inputLegs ns limit s) := by
  intro ns
  induction ns with
  | nil => intro l s h; exact ⟨by simp [inputLegs], by simpa [inputLegs] using h⟩
  | cons n ns ih =>
    intro l s h
    match l with
    | 0 => exact ⟨by simp [inputLegs], by simpa [inputLegs] using h⟩
    | l + 1 =>
      unfold inputLegs
      split
      · exact ⟨by simp, h⟩
      · split
        · exact ⟨by simp, h⟩
        · rename_i e
          split
          · exact ⟨by simp, h⟩
          · rename_i e'
            exact (ih l _ (planInputPick_keeps e' (modUpt_keeps _ (inputDestination_keeps e h)))).cons _

theorem stagingLegs_keeps (k : HeadIx) : ∀ (us : List UnitNo) (ns : List NozzleIx) (s : State), Keeps r s →
    LegsKeep r ns.length (stagingLegs k us ns s) := by
  intro us
  induction us with
  | nil => intro ns s h; exact ⟨by simp [stagingLegs], by simpa [stagingLegs] using h⟩
  | cons u us ih =>
    intro ns s h
    match ns with
    | [] => exact ⟨by simp [stagingLegs], by simpa [stagingLegs] using h⟩
    | n :: ns =>
      have h' := examineRetest_keeps u h
      unfold stagingLegs; dsimp only
      split
      · split
        · exact (ih ns _ (unready_keeps _ (setTarget_keeps _ _ h'))).cons _
        · exact ih (n :: ns) _ h'
      · exact ih (n :: ns) _ h'

/-! ### Trips -/

theorem numbered_length : ∀ (l : List Order) (n : Nat), (numbered n l).length = l.length
  | [], _ => rfl
  | _ :: l, n => by simp [numbered, numbered_length l]

theorem flatMap_pick_length (l : List Leg) : (l.flatMap Leg.pick).length ≤ l.length := by
  induction l with
  | nil => simp
  | cons a l ih =>
    have h1 : a.pick.length ≤ 1 := by unfold Leg.pick; split <;> simp
    rw [List.flatMap_cons, List.length_append, List.length_cons]; omega

theorem flatMap_place_length (l : List Leg) : (l.flatMap Leg.place).length ≤ l.length := by
  induction l with
  | nil => simp
  | cons a l ih =>
    have h1 : a.place.length ≤ 1 := by unfold Leg.place; split <;> simp
    rw [List.flatMap_cons, List.length_append, List.length_cons]; omega

theorem placeOrders_keeps (g : Gantry) (l : List Order) (hl : l.length ≤ 8) (h : Keeps r s) :
    Keeps r (placeOrders g l s) := by
  unfold placeOrders
  refine modXpl_keeps _ rfl id id ?_
  cases g
  · exact h.onXpl _ rfl (fun _ => by simpa [numbered_length] using hl) id
  · exact h.onXpl _ rfl id (fun _ => by simpa [numbered_length] using hl)

theorem placeLoadTrip_keeps (k : TripKind) (b : Bool) (l : List Leg) (hl : (tripOrders b l).length ≤ 8)
    (h : Keeps r s) : Keeps r (placeLoadTrip k b l s) := by
  unfold placeLoadTrip
  exact modXpl_keeps _ rfl id id (placeOrders_keeps _ _ hl h)

theorem planPark_keeps (g : Gantry) (h : Keeps r s) : Keeps r (planPark g s) := by
  unfold planPark; split
  · exact placeOrders_keeps _ _ (by simp) h
  · exact h

theorem tripOrders_length (b : Bool) (l : List Leg) :
    (tripOrders b l).length ≤ 2 * l.length + (if b then 1 else 0) := by
  have := flatMap_pick_length l
  have := flatMap_place_length l
  unfold tripOrders
  cases b <;> simp only [Bool.false_eq_true, if_false, if_true, List.length_append, List.length_nil, List.length_cons]
    <;> omega

theorem freeNozzles_length (g : Gantry) (s : State) : (freeNozzles g s).length ≤ 4 :=
  List.length_filter_le _ allNozzles

/-- The legs of the nozzle trip of the load gantry pick nothing. -/
def Leg.placesOnly (l : Leg) : Prop := l.source = none

/-- The legs of a staging trip place nothing. -/
def Leg.picksOnly (l : Leg) : Prop := l.dest = none

theorem flatMap_place_picksOnly (l : List Leg) (h : ∀ x ∈ l, x.picksOnly) : l.flatMap Leg.place = [] := by
  simp only [List.flatMap_eq_nil_iff]
  intro x hx; have := h x hx; simp only [Leg.picksOnly] at this; simp [Leg.place, this]

theorem stagingLegs_picksOnly (k : HeadIx) : ∀ (us : List UnitNo) (ns : List NozzleIx) (s : State),
    ∀ x ∈ (stagingLegs k us ns s).1, x.picksOnly := by
  intro us
  induction us with
  | nil => intro ns s x hx; simp [stagingLegs] at hx
  | cons u us ih =>
    intro ns s
    match ns with
    | [] => intro x hx; simp [stagingLegs] at hx
    | n :: ns =>
      unfold stagingLegs; dsimp only
      split
      · split
        · intro x hx
          rcases List.mem_cons.1 hx with rfl | hx
          · rfl
          · exact ih _ _ x hx
        · exact ih _ _
      · exact ih _ _

theorem inputTrip_keeps {t : State} (e : inputTrip s = some t) (h : Keeps r s) : Keeps r t := by
  unfold inputTrip at e
  split at e
  · dsimp only at e
    split at e
    · cases e
    · rename_i legs u hne e'
      cases e
      have hk := inputLegs_keeps (r := r) (freeNozzles .load s)
        (if decide (s.ltc.params.soakTime = 0) = true then 3 else 4) s h
      rw [e'] at hk
      refine placeLoadTrip_keeps _ _ _ ((tripOrders_length _ _).trans ?_) hk.2
      have := hk.1
      revert this
      cases decide (s.ltc.params.soakTime = 0) <;> simp <;> omega
  · cases e

theorem stagingTrip_keeps (h : Keeps r s) : Keeps r (stagingTrip s).2 := by
  unfold stagingTrip
  split
  · split
    · exact h
    · split
      · rename_i k _ _ _
        have hk := stagingLegs_keeps (r := r) k s.xpl.readyList (freeNozzles .load s) s h
        have hp := stagingLegs_picksOnly k s.xpl.readyList (freeNozzles .load s) s
        split <;> rename_i e <;> rw [e] at hk
        · exact hk.2
        · rw [e] at hp
          refine placeLoadTrip_keeps _ _ _ ?_ hk.2
          have h1 := hk.1.trans (freeNozzles_length _ _)
          have h2 := flatMap_pick_length ‹List Leg›
          unfold tripOrders
          rw [flatMap_place_picksOnly _ hp]
          simp at h1 h2 ⊢; omega
      · exact h.onXpl _ rfl id id
  · exact h

theorem planLoad_keeps (h : Keeps r s) : Keeps r (planLoad s) := by
  unfold planLoad
  have hn := nozzleLegs_keeps (r := r) (fun n s => nozzleLeg_keeps (s := s) n) allNozzles s h
  split <;> rename_i e <;> rw [e] at hn
  · exact placeLoadTrip_keeps _ _ _ ((tripOrders_length _ _).trans (by have := hn.1; simp [allNozzles] at this ⊢; omega)) hn.2
  · rename_i t
    have hs : LegsKeep r 3 (if lotTesting t then socketLegs t.xpl.readyList (freeNozzles .load t) 3 t else ([], t)) := by
      split
      · exact (socketLegs_keeps _ _ _ _ hn.2).mono (by simp)
      · exact ⟨by simp, hn.2⟩
    split <;> rename_i e' <;> rw [e'] at hs
    · exact placeLoadTrip_keeps _ _ _ ((tripOrders_length _ _).trans (by have := hs.1; simp at this ⊢; omega)) hs.2
    · split
      · rename_i e''; exact inputTrip_keeps e'' hs.2
      · have ht := stagingTrip_keeps hs.2
        split <;> rename_i e3 <;> rw [e3] at ht
        · exact ht
        · exact planPark_keeps _ ht

theorem pocketLeg_keeps {n : NozzleIx} {u : UnitNo} {p : Option Place} {k : PairIx} {l : Leg} {t : State}
    (e : pocketLeg n u p k s = some (l, t)) (h : Keeps r s) : Keeps r t := by
  unfold pocketLeg at e
  split at e
  · cases e
  · rename_i e'
    obtain ⟨⟨st, q, t'⟩, e2, e3⟩ := Option.map_eq_some_iff.1 e
    obtain ⟨_, rfl⟩ := Prod.mk.inj e3
    exact takePocket_keeps e2 (reserveLog_keeps e' h)

theorem chuteLeg_keeps {n : NozzleIx} {u : UnitNo} {p : Option Place} {l : Leg} {t : State}
    (e : chuteLeg n u p s = some (l, t)) (h : Keeps r s) : Keeps r t := by
  obtain ⟨t', e2, e3⟩ := Option.map_eq_some_iff.1 e
  obtain ⟨_, rfl⟩ := Prod.mk.inj e3
  exact reserveLog_keeps e2 h

theorem unloadLeg_keeps {n : NozzleIx} {x : UnitRec} {p : Option Place} {l : Leg} {t : State}
    (e : unloadLeg n x p s = some (l, t)) (h : Keeps r s) : Keeps r t := by
  unfold unloadLeg at e
  repeat' split at e
  all_goals first
    | exact pocketLeg_keeps e h
    | exact chuteLeg_keeps e h
    | exact soakLeg_keeps e h
    | cases e

theorem unloadNozzleLeg_keeps (n : NozzleIx) (h : Keeps r s) : Keeps r (unloadNozzleLeg n s).2 := by
  unfold unloadNozzleLeg
  repeat' split
  all_goals first | exact h | (rename_i e; exact unloadLeg_keeps e h)

theorem pickupLegs_keeps : ∀ (us : List UnitNo) (ns : List NozzleIx) (s : State), Keeps r s →
    LegsKeep r ns.length (pickupLegs us ns s) := by
  intro us
  induction us with
  | nil => intro ns s h; exact ⟨by simp [pickupLegs], by simpa [pickupLegs] using h⟩
  | cons u us ih =>
    intro ns s h
    match ns with
    | [] => exact ⟨by simp [pickupLegs], by simpa [pickupLegs] using h⟩
    | n :: ns =>
      unfold pickupLegs
      split
      · rename_i e
        obtain ⟨x, _, e'⟩ := Option.bind_eq_some_iff.1 e
        exact (ih ns _ (unloadLeg_keeps e' h)).cons _
      · exact ih (n :: ns) s h

theorem planUnload_keeps (h : Keeps r s) : Keeps r (planUnload s) := by
  unfold planUnload
  have hn := nozzleLegs_keeps (r := r) (fun n s => unloadNozzleLeg_keeps (s := s) n) allNozzles s h
  split <;> rename_i e <;> rw [e] at hn
  · exact placeOrders_keeps _ _ ((tripOrders_length _ _).trans (by have := hn.1; simp [allNozzles] at this ⊢; omega)) hn.2
  · rename_i t
    have hp := pickupLegs_keeps (r := r) (doneUnits t ++ plateUnits t) (freeNozzles .unload t) t hn.2
    split <;> rename_i e' <;> rw [e'] at hp
    · exact placeOrders_keeps _ _ ((tripOrders_length _ _).trans (by
        have := hp.1.trans (freeNozzles_length _ _); simp at this ⊢; omega)) hp.2
    · exact planPark_keeps _ hp.2

theorem evaluate_keeps (g : Gantry) (h : Keeps r s) : Keeps r (evaluate g s) := by
  unfold evaluate plan
  repeat' split
  · exact planLoad_keeps h
  · exact planUnload_keeps h
  · exact h

theorem evaluateBoth_keeps (h : Keeps r s) : Keeps r (evaluateBoth s) := by
  unfold evaluateBoth; split
  · exact inEitherOrder_keeps (fun _ => evaluate_keeps _) (fun _ => evaluate_keeps _) h
  · exact evaluate_keeps _ (evaluate_keeps _ h)

/-! ### Run state and zones -/

theorem stopWaiting_keeps (g : Gantry) (h : Keeps r s) : Keeps r (stopWaiting g s) := by
  unfold stopWaiting; split
  · exact setGantry_keeps _ _ h
  · exact h

theorem leaveRun_keeps (h : Keeps r s) : Keeps r (leaveRun s) := by
  unfold leaveRun
  exact pauseTimers_keeps (withdrawAll_keeps (stopWaiting_keeps _ (stopWaiting_keeps _ h)))

theorem stopWaiting_rcu (g : Gantry) (s : State) : (stopWaiting g s).rcu = s.rcu := by
  unfold stopWaiting; split
  · cases g <;> rfl
  · rfl

theorem leaveRun_rcu (s : State) : (leaveRun s).rcu = s.rcu :=
  (stopWaiting_rcu .unload (stopWaiting .load s)).trans (stopWaiting_rcu .load s)

theorem leaveRun_still (s : State) (k : HeadIx) :
    ((leaveRun s).hsc.heads[k]).fill.still ∧ ((leaveRun s).hsc.heads[k]).test.still := pauseTimers_still _ k

theorem enterHold_keeps (c : HoldCauses) (arg : List Byte) (h : Keeps r s) : Keeps r (enterHold c arg s) := by
  refine h.trans ?_
  have k : Keeps (modRcu (fun r => { r with run := .hold, causes := c, settle := none }) s) (enterHold c arg s) := by
    unfold enterHold; exact leaveRun_keeps (raise_keeps _ _ (Keeps.refl _))
  have e : (enterHold c arg s).rcu = { s.rcu with run := .hold, causes := c, settle := none } := leaveRun_rcu _
  exact
    { pending := k.pending, now := k.now, pcu := k.pcu, teach := k.teach, lines := k.lines, link := k.link
      notices := k.notices, noticeRoom := k.noticeRoom, raised := k.raised, raisedRoom := k.raisedRoom
      attn := k.attn, params := k.params, estimates := k.estimates, tables := k.tables, settings := by simp [e]
      log := fun i => k.log ⟨i.room, i.once⟩, queues := k.queues
      run := fun i =>
        { causes := by simp [e], settle := by simp [e], delay := by simpa [e] using i.delay
          timeout := by simpa [e] using i.timeout, timers := fun _ j => leaveRun_still _ j } }

theorem requestZone_keeps (g : Gantry) (z : HeadIx) (h : Keeps r s) : Keeps r (requestZone g z s).2 := by
  unfold requestZone; split <;> exact modZone_keeps _ _ h

/-! ### Issuing -/

theorem sendOrder_keeps (g : Gantry) (o : Order) (c : Int × Int) (h : Keeps r s) : Keeps r (sendOrder g o c s) := by
  unfold sendOrder; dsimp only; split
  · exact setStatus_keeps _ _ _ (modGsq_keeps _ _ h)
  · exact setParked_keeps _ _ (setStatus_keeps _ _ _ (modGsq_keeps _ _ h))

theorem sendPlain_keeps (g : Gantry) (o : Order) (h : Keeps r s) : Keeps r (sendPlain g o s) := sendOrder_keeps _ _ _ h

theorem releaseFirst_keeps (z : HeadIx) (h : Keeps r s) : Keeps r (releaseFirst z s) := by
  unfold releaseFirst; dsimp only
  repeat' split
  · exact grantHead_keeps _ (modZone_keeps _ _ h)
  · exact sendPlain_keeps _ _ (modZone_keeps _ _ (modZone_keeps _ _ h))
  · exact modZone_keeps _ _ (modZone_keeps _ _ h)
  · exact modZone_keeps _ _ h

theorem releaseLoad_keeps (z : HeadIx) (h : Keeps r s) : Keeps r (releaseLoad z s) := by
  unfold releaseLoad; split
  · exact releaseFirst_keeps _ h
  · exact h

theorem setGrant_keeps (g : Gantry) (v : Option Nat) (h : Keeps r s) : Keeps r (setGrant g v s) := by
  cases g <;> exact h.onRcu _ ⟨rfl, rfl, rfl, rfl, rfl⟩ ⟨rfl, rfl, rfl⟩

theorem setHeld_keeps (g : Gantry) (v : Option Nat) (h : Keeps r s) : Keeps r (setHeld g v s) := by
  cases g <;> exact h.onRcu _ ⟨rfl, rfl, rfl, rfl, rfl⟩ ⟨rfl, rfl, rfl⟩

theorem checkHoldPoint_keeps (g : Gantry) (o : Order) (h : Keeps r s) : Keeps r (checkHoldPoint g o s).2 := by
  unfold checkHoldPoint; dsimp only
  repeat' split
  · exact setGrant_keeps _ _ h
  · exact setGrant_keeps _ _ h
  · exact setGantry_keeps _ _ (enterHold_keeps _ _ (setHeld_keeps _ _ (setGrant_keeps _ _ h)))

theorem checksBefore_keeps (g : Gantry) (o : Order) (h : Keeps r s) : Keeps r (checksBefore g o s).2 := by
  unfold checksBefore
  split
  · exact setGantry_keeps _ _ h
  · have hc := checkHoldPoint_keeps g o h
    split <;> rename_i e <;> rw [e] at hc
    · exact hc
    · split
      · exact hc
      · rename_i z _
        have hz := requestZone_keeps g z hc
        split <;> rename_i e' <;> rw [e'] at hz
        · exact hz
        · exact setGantry_keeps _ _ hz

theorem countRealign_keeps (u : UnitNo) (k : SocketIx) (h : Keeps r s) : Keeps r (countRealign u k s) := by
  unfold countRealign; dsimp only; split
  · exact raise_keeps _ _ (modUnit_keeps _ _ (modCounters_keeps _ (modUnit_keeps _ _ h)))
  · exact modCounters_keeps _ (modUnit_keeps _ _ h)

theorem replaceDiverted_keeps (o : Order) (u : UnitNo) (h : Keeps r s) : Keeps r (replaceDiverted o u s) := by
  unfold replaceDiverted; split
  · rename_i e
    exact setTarget_keeps _ _ (modXpl_keeps _ rfl id id (modQueue_keeps _ _ (fun l => by simp) (reserveSoak_keeps e h)))
  · exact modUnit_keeps _ _ (removeOrder_keeps _ _ h)

theorem divert_keeps (o : Order) (u : UnitNo) (k : SocketIx) (v : Bool) (h : Keeps r s) : Keeps r (divert o u k v s) := by
  unfold divert; dsimp only
  exact setGantry_keeps _ _ (replaceDiverted_keeps _ _ (countRealign_keeps _ _ (releaseLoad_keeps _
    (headsFollow_keeps _ (releaseSocket_keeps _ (raise_keeps _ _ h))))))

theorem applyFlags_keeps (u : UnitNo) (k : SocketIx) (a b : Bool) (h : Keeps r s) : Keeps r (applyFlags u k a b s) := by
  unfold applyFlags; dsimp only
  repeat' split
  · exact raise_keeps _ _ (raise_keeps _ _ (modUnit_keeps _ _ h))
  · exact raise_keeps _ _ (modUnit_keeps _ _ h)
  · exact raise_keeps _ _ (modUnit_keeps _ _ h)
  · exact modUnit_keeps _ _ h

theorem coordinateLoad_keeps (o : Order) (h : Keeps r s) : Keeps r (coordinateLoad o s).2 := by
  unfold coordinateLoad
  repeat' split
  · exact sendPlain_keeps _ _ h
  · exact sendOrder_keeps _ _ _ (applyFlags_keeps _ _ _ _ h)
  · exact divert_keeps _ _ _ _ h

theorem attemptLoad_keeps : ∀ (n : Nat) (s : State), Keeps r s → Keeps r (attemptLoad n s)
  | 0, _, h => h
  | n + 1, s, h => by
    unfold attemptLoad
    split
    · split
      · exact h
      · rename_i o _
        have hc := checksBefore_keeps .load o h
        split <;> rename_i e <;> rw [e] at hc
        · exact hc
        · have hl := coordinateLoad_keeps o hc
          split <;> rename_i e' <;> rw [e'] at hl
          · exact hl
          · exact attemptLoad_keeps n _ hl
    · exact h

theorem attemptUnload_keeps (h : Keeps r s) : Keeps r (attemptUnload s) := by
  unfold attemptUnload
  split
  · split
    · exact h
    · rename_i o _
      have hc := checksBefore_keeps .unload o h
      split <;> rename_i e <;> rw [e] at hc
      · exact hc
      · exact sendPlain_keeps _ _ hc
  · exact h

theorem attempt_keeps (g : Gantry) (h : Keeps r s) : Keeps r (attempt g s) := by
  cases g
  · exact attemptLoad_keeps _ _ h
  · exact attemptUnload_keeps h

theorem grantLoad_keeps (z : HeadIx) (h : Keeps r s) : Keeps r (grantLoad z s) := by
  unfold grantLoad; dsimp only
  split
  · exact modZone_keeps _ _ h
  · rename_i o _
    have hl := coordinateLoad_keeps o (modZone_keeps z (Zone.grant .load) h)
    split <;> rename_i e' <;> rw [e'] at hl
    · exact hl
    · exact attemptLoad_keeps _ _ hl

theorem releaseZone_keeps (x : Holder) (z : HeadIx) (h : Keeps r s) : Keeps r (releaseZone x z s) := by
  unfold releaseZone; dsimp only
  repeat' split
  · exact h
  · exact releaseFirst_keeps _ h
  · exact grantLoad_keeps _ (modZone_keeps _ _ h)
  · exact modZone_keeps _ _ h

/-! ### The close of a step -/

theorem attemptBoth_keeps (h : Keeps r s) : Keeps r (attemptBoth s) := by
  unfold attemptBoth; split
  · exact inEitherOrder_keeps (fun _ => attempt_keeps _) (fun _ => attempt_keeps _) h
  · exact attempt_keeps _ (attempt_keeps _ h)

theorem issueRound_keeps (before : State) (h : Keeps r s) : Keeps r (issueRound before s) := by
  unfold issueRound; exact headsFollow_keeps _ (attemptBoth_keeps h)

theorem rounds_keeps : ∀ (n : Nat) (s : State), Keeps r s → Keeps r (rounds n s)
  | 0, _, h => h
  | n + 1, s, h => by
    unfold rounds; dsimp only; split
    · exact issueRound_keeps _ (evaluateBoth_keeps h)
    · exact rounds_keeps n _ (issueRound_keeps _ (evaluateBoth_keeps h))

theorem settle_keeps (h : Keeps r s) : Keeps r (settle s) := rounds_keeps _ _ h

end Sys2Proof.Machine
end

