-- ==== Sys2Proof/Laws/KeepsEnds.lean ====
section
/-! SUPPORT. What completions, faults, recoveries and ends of test leave as it is: `Keeps` for each operation. -/
namespace Sys2Proof.Machine

variable {r s : State}

/-! ### Effects of a result -/

theorem freeSoak_keeps (p : SoakIx) (h : Keeps r s) : Keeps r (freeSoak p s) := modSoak_keeps _ _ h

theorem pickDone_keeps (g : Gantry) (o : Order) (h : Keeps r s) : Keeps r (pickDone g o s) := by
  unfold pickDone; split
  · exact endInputPick_keeps _ _ (createUnit_keeps _ _ _ h)
  · exact freeSoak_keeps _ (modUnit_keeps _ _ (moveUnit_keeps _ _ h))
  · exact moveSocket_keeps _ _ (fun _ => rfl) (modUnit_keeps _ _ (moveUnit_keeps _ _ h))
  · exact h

theorem raiseJam_keeps (k : SocketIx) (c : Nat) (h : Keeps r s) : Keeps r (raiseJam k c s) := raise_keeps _ _ h

theorem jamSocket_keeps (k : SocketIx) (h : Keeps r s) : Keeps r (jamSocket k s) := moveSocket_keeps _ _ (fun _ => rfl) h

theorem cancelNozzle_keeps (n : NozzleIx) (h : Keeps r s) : Keeps r (cancelNozzle n s) := by
  unfold cancelNozzle
  exact setStageHead_keeps _ _ (unmask_keeps _ (Keeps.foldl (fun _ _ => dropOrder_keeps _ _) _ _ h))

theorem pickEmpty_keeps (g : Gantry) (o : Order) (h : Keeps r s) : Keeps r (pickEmpty g o s) := by
  unfold pickEmpty
  repeat' split
  · exact endInputPick_keeps _ _ (cancelNozzle_keeps _ (modCounters_keeps _ (endCreation_keeps h)))
  · exact setStageHead_keeps _ _ (modSoak_keeps _ _ (loseUnit_keeps _ h))
  · exact modSoak_keeps _ _ (loseUnit_keeps _ h)
  · exact raiseJam_keeps _ _ (jamSocket_keeps _ (loseUnit_keeps _ h))
  · exact h

theorem loadSocket_keeps (u : UnitNo) (k : SocketIx) (h : Keeps r s) : Keeps r (loadSocket u k s) := by
  unfold loadSocket; dsimp only; split
  · exact evict_keeps _ (moveSocket_keeps _ _ (fun _ => rfl) (modUnit_keeps _ _ (moveUnit_keeps _ _ h)))
  · exact loadedInHead_keeps _ (moveSocket_keeps _ _ (fun _ => rfl) (modUnit_keeps _ _ (moveUnit_keeps _ _ h)))

theorem placeDone_keeps (o : Order) (h : Keeps r s) : Keeps r (placeDone o s) := by
  unfold placeDone; dsimp only; split
  · exact arriveSoak_keeps _ _ _ h
  · exact loadSocket_keeps _ _ h
  · exact endOutPlace_keeps _ _ (retire_keeps _ _ h)
  · exact countChute_keeps (retire_keeps _ _ h)
  · exact h

theorem placeDropped_keeps (o : Order) (h : Keeps r s) : Keeps r (placeDropped o s) := by
  unfold placeDropped; dsimp only; split
  · exact raiseJam_keeps _ _ (loseUnit_keeps _ (jamSocket_keeps _ h))
  · exact loseUnit_keeps _ (endOutPlace_keeps _ _ (releaseLog_keeps _ h))
  · exact loseUnit_keeps _ (releaseLog_keeps _ h)
  · exact loseUnit_keeps _ h

theorem stageAt_keeps (n : NozzleIx) (h : Keeps r s) : Keeps r (stageAt n s) := by
  unfold stageAt; dsimp only; split
  · exact modUnit_keeps _ _ (setStageHead_keeps _ _ h)
  · exact modUnit_keeps _ _ (setStageHead_keeps _ _ h)
  · exact setStageHead_keeps _ _ h

theorem inspectNozzle_keeps (p : List Byte) (n : NozzleIx) (h : Keeps r s) : Keeps r (inspectNozzle p s n) := by
  unfold inspectNozzle; split
  · exact setStageHead_keeps _ _ h
  · exact stageAt_keeps _ (modUnit_keeps _ _ h)

theorem inspectDone_keeps (o : Order) (p : List Byte) (h : Keeps r s) : Keeps r (inspectDone o p s) := by
  unfold inspectDone
  exact modXpl_keeps _ rfl id id (Keeps.foldl (fun _ _ => inspectNozzle_keeps _ _) _ _ h)

theorem applyFate_keeps (g : Gantry) (o : Order) (p : List Byte) (f : Fate) (h : Keeps r s) :
    Keeps r (applyFate g o p f s) := by
  unfold applyFate; split
  · exact pickDone_keeps _ _ h
  · exact placeDone_keeps _ h
  · exact inspectDone_keeps _ _ h
  · exact setParked_keeps _ _ h
  · exact pickEmpty_keeps _ _ h
  · exact placeDropped_keeps _ h
  · exact h

/-! ### Presence, faults and completions -/

theorem loseMissing_keeps (g : Gantry) (m : Byte) (ns : List NozzleIx) (h : Keeps r s) :
    Keeps r (loseMissing g m ns s) := by
  refine Keeps.foldl (fun s n h => ?_) _ _ h
  split
  · exact h
  · exact loseUnit_keeps _ h

theorem enterFault_keeps (g : Gantry) (c : FaultCause) (h : Keeps r s) : Keeps r (enterFault g c s) := by
  unfold enterFault; dsimp only
  have e : Keeps r (match inFlight g s with
      | some o => setStatus g o.id .uncertain s
      | none => s) := by
    split
    · exact setStatus_keeps _ _ _ h
    · exact h
  exact checkEmpty_keeps (setGantry_keeps _ _ (cancelWhere_keeps _ _ (raise_keeps _ _ (modGsq_keeps _ _ e))))

theorem releaseOrderZone_keeps (g : Gantry) (o : Order) (h : Keeps r s) : Keeps r (releaseOrderZone g o s) := by
  unfold releaseOrderZone; split
  · exact releaseZone_keeps _ _ h
  · exact h

theorem requeue_keeps (g : Gantry) (o : Order) (f : Fate) (h : Keeps r s) : Keeps r (requeue g o f s) := by
  unfold requeue; split
  · exact setStatus_keeps _ _ _ h
  · exact removeOrder_keeps _ _ h

/-- The states of a completion keep the blocks, one step of R102 after another. -/
theorem complete_keeps (g : Gantry) (o : Order) (p : List Byte) (f : Fate) (h : Keeps r s) :
    Keeps r (complete g o p f s) := by
  unfold complete
  have h1 : Keeps r (modGsq g (fun q => { q with timer := none, state := .idle }) s) := modGsq_keeps _ _ h
  have h2 := releaseOrderZone_keeps g o (headsFollow_keeps
    (modGsq g (fun q => { q with timer := none, state := .idle }) s)
    (checkEmpty_keeps (applyFate_keeps g o p f h1)))
  have h3 := fun b => evaluateBoth_keeps (headsFollow_keeps b (checkEmpty_keeps (requeue_keeps g o f
    (loseMissing_keeps g (rd8 p 1) (comparedNozzles (some o)) h2))))
  refine settle_keeps (headsFollow_keeps _ ?_)
  split
  · exact enterFault_keeps _ _ (h3 _)
  · exact h3 _

theorem faultStep_keeps (g : Gantry) (c : FaultCause) (h : Keeps r s) : Keeps r (faultStep g c s) :=
  settle_keeps (headsFollow_keeps _ (enterFault_keeps _ _ h))

theorem takeDone_keeps (g : Gantry) (f : Frame) (h : Keeps r s) : Keeps r (takeDone g s f) := by
  unfold takeDone
  repeat' split
  · exact h
  · exact faultStep_keeps _ _ h
  · exact faultStep_keeps _ _ h
  · exact complete_keeps _ _ _ _ h
  · exact raise_keeps _ _ h
  · exact raise_keeps _ _ h

theorem driveBytes_keeps (g : Gantry) (b : List Byte) (h : Keeps r s) : Keeps r (driveBytes g b s) := by
  unfold driveBytes; dsimp only
  exact Keeps.foldl (fun _ _ => takeDone_keeps _ _) _ _ (modGsq_keeps _ _ h)

theorem driveTimeout_keeps (g : Gantry) (h : Keeps r s) : Keeps r (driveTimeout g s) := faultStep_keeps _ _ h

/-! ### Emergency stop and recovery -/

theorem stopGantry_keeps (g : Gantry) (h : Keeps r s) : Keeps r (stopGantry g s) := by
  unfold stopGantry; split
  · exact setGantry_keeps _ _ h
  · exact modGsq_keeps _ _ (setStatus_keeps _ _ _ h)
  · exact h

theorem resolveUncertain_keeps (g : Gantry) (m : Byte) (h : Keeps r s) : Keeps r (resolveUncertain g m s) := by
  unfold resolveUncertain
  repeat' split
  · exact removeOrder_keeps _ _ (applyFate_keeps _ _ _ _ h)
  · exact cancelOrder_keeps _ _ h
  · exact h

theorem releaseHeld_keeps (g : Gantry) (h : Keeps r s) : Keeps r (releaseHeld g s) :=
  Keeps.foldl (fun _ _ => releaseZone_keeps _ _) _ _ h

theorem dropGrant_keeps (g : Gantry) (h : Keeps r s) : Keeps r (dropGrant g s) := by
  unfold dropGrant
  repeat' split
  all_goals first | exact h | exact setGrant_keeps _ _ h

theorem returnIdle_keeps (g : Gantry) (h : Keeps r s) : Keeps r (returnIdle g s) := by
  unfold returnIdle
  exact dropGrant_keeps _ (setParked_keeps _ _ (modGsq_keeps _ _ h))

theorem forgetTargets_keeps (g : Gantry) (h : Keeps r s) : Keeps r (forgetTargets g s) := h.onUpt _

theorem recoverGantry_keeps (g : Gantry) (m : Byte) (h : Keeps r s) : Keeps r (recoverGantry g m s) := by
  unfold recoverGantry; dsimp only
  have h1 := headsFollow_keeps s (checkEmpty_keeps (resolveUncertain_keeps g m h))
  exact forgetTargets_keeps _ (returnIdle_keeps _ (releaseHeld_keeps _ (headsFollow_keeps _ (checkEmpty_keeps
    (loseMissing_keeps _ _ _ (cancelWhere_keeps _ _ h1))))))

/-! ### The end of a test -/

theorem sampleFactor_keeps (x : HeadIx) (l : Vector BinLine 4) (k : SocketIx) (h : Keeps r s) :
    Keeps r (sampleFactor x l s k) := by
  unfold sampleFactor; dsimp only
  repeat' split
  all_goals first | exact h | exact raise_keeps _ _ h

theorem quarantine_keeps (k : SocketIx) (h : Keeps r s) : Keeps r (quarantine k s) := by
  unfold quarantine; dsimp only; split
  · exact raise_keeps _ _ (modSocket_keeps _ _ (fun _ => rfl) h)
  · exact h

theorem captureSocket_keeps (c : BitVec 16) (d : BitVec 32) (b : SocketIx → BinCode) (k : SocketIx)
    (h : Keeps r s) : Keeps r (captureSocket c d b s k) := by
  unfold captureSocket
  exact quarantine_keeps _ (modSocket_keeps _ _ (fun _ => rfl) (modUnit_keeps _ _ h))

theorem routeSocket_keeps (b : SocketIx → BinCode) (k : SocketIx) (h : Keeps r s) : Keeps r (routeSocket b s k) :=
  routeUnit_keeps _ _ _ h

theorem finishSocket_keeps (k : SocketIx) (h : Keeps r s) : Keeps r (finishSocket s k) := by
  unfold finishSocket; exact modSocket_keeps _ _ (fun _ => rfl) (modUnit_keeps _ _ h)

theorem recordCapture_keeps (x : HeadIx) (t : Bool) (ks : List SocketIx) (b : SocketIx → BinCode) (d : BitVec 32)
    (h : Keeps r s) : Keeps r (recordCapture x t ks b d s) := by
  unfold recordCapture
  exact countCapture_keeps _ _ (modHead_keeps _ _ (fun _ h => h) h)

theorem captureUnits_keeps (x : HeadIx) (t : Bool) (b : SocketIx → BinCode) (h : Keeps r s) :
    Keeps r (captureUnits x t b s) := by
  unfold captureUnits; dsimp only
  exact recordCapture_keeps _ _ _ _ _ (lowerLines_keeps _
    (Keeps.foldl (fun _ _ => finishSocket_keeps _) _ _ (Keeps.foldl (fun _ _ => routeSocket_keeps _ _) _ _
      (Keeps.foldl (fun _ _ => captureSocket_keeps _ _ _ _) _ _ h))))

theorem capture_keeps (x : HeadIx) (t : Bool) (b : SocketIx → BinCode) (h : Keeps r s) : Keeps r (capture x t b s) := by
  unfold capture
  exact enterFill_keeps _ (releaseZone_keeps _ _ (captureUnits_keeps _ _ _ h))

theorem nextEstimate_range (a b : Nat) : 1 ≤ nextEstimate a b ∧ nextEstimate a b ≤ 600000 := by
  unfold nextEstimate clampEst; repeat' split
  all_goals omega

theorem updateEstimate_keeps (x : HeadIx) (d : Nat) (h : Keeps r s) : Keeps r (updateEstimate x d s) := by
  refine h.trans { Keeps.refl s with
    run := RunInv.congr rfl (fun _ _ h => h), log := fun i => ⟨i.room, i.once⟩, estimates := fun e k => ?_ }
  simp only [updateEstimate, modXpl, Fin.getElem_fin, Vector.getElem_set]
  split
  · exact nextEstimate_range _ _
  · exact e k

theorem endOfTest_keeps (x : HeadIx) (l : Vector BinLine 4) (h : Keeps r s) : Keeps r (endOfTest x l s) := by
  unfold endOfTest
  exact capture_keeps _ _ _ (updateEstimate_keeps _ _ (stopTest_keeps _ (Keeps.foldl (fun _ _ =>
    sampleFactor_keeps _ _ _) _ _ h)))

theorem timeoutCapture_keeps (x : HeadIx) (h : Keeps r s) : Keeps r (timeoutCapture x s) := by
  unfold timeoutCapture
  exact raise_keeps _ _ (capture_keeps _ _ _ (stopTest_keeps _ h))

theorem eotEdge_keeps (x : HeadIx) (l : Vector BinLine 4) (h : Keeps r s) : Keeps r (eotEdge x l s) := by
  unfold eotEdge; split
  · exact settle_keeps (headsFollow_keeps _ (endOfTest_keeps _ _ h))
  · exact raise_keeps _ _ h

theorem testExpiry_keeps (x : HeadIx) (h : Keeps r s) : Keeps r (testExpiry x s) :=
  settle_keeps (headsFollow_keeps _ (timeoutCapture_keeps _ h))

theorem untestSocket_keeps (k : SocketIx) (h : Keeps r s) : Keeps r (untestSocket s k) := by
  unfold untestSocket; exact modSocket_keeps _ _ (fun _ => rfl) (modUnit_keeps _ _ h)

theorem voidHead_keeps (x : HeadIx) (h : Keeps r s) : Keeps r (voidHead s x) := by
  unfold voidHead; split
  · exact countVoided_keeps (enterFill_keeps _ (releaseZone_keeps _ _ (Keeps.foldl (fun _ _ => untestSocket_keeps _)
      _ _ (stopTest_keeps _ (lowerLines_keeps _ h)))))
  · exact h

theorem fillExpiry_keeps (x : HeadIx) (h : Keeps r s) : Keeps r (fillExpiry x s) := by
  unfold fillExpiry
  exact settle_keeps (headsFollow_keeps _ (checkEmpty_keeps (cancelWhere_keeps _ _
    (modHead_keeps _ _ (fun _ hs => ⟨trivial, hs.2⟩) h))))

theorem soakExpiry_keeps (u : UnitNo) (h : Keeps r s) : Keeps r (soakExpiry u s) :=
  settle_keeps (headsFollow_keeps _ (becomeReady_keeps _ h))

theorem stagingExpiry_keeps (h : Keeps r s) : Keeps r (stagingExpiry s) :=
  settle_keeps (h.onXpl _ rfl id id)

/-! ### Run control -/

theorem holdWith_keeps (c : HoldCause) (h : Keeps r s) : Keeps r (holdWith c s) := by
  unfold holdWith; split
  · exact enterHold_keeps _ _ h
  · exact enterHold_keeps _ _ h
  · rename_i e
    exact h.trans { Keeps.refl s with
      log := fun i => ⟨i.room, i.once⟩
      run := fun i => { causes := fun n => absurd e n, settle := i.settle, delay := i.delay, timeout := i.timeout,
                        timers := i.timers } }
  · exact h

theorem headsReturn_keeps (h : Keeps r s) : Keeps r (headsReturn s) :=
  Keeps.foldl (fun _ _ => reviewHead_keeps _) _ _ (Keeps.foldl (fun _ _ => requestHead_keeps _) _ _ h)

theorem grantHeld_keeps (h : Keeps r s) : Keeps r (grantHeld s) :=
  h.onRcu _ ⟨rfl, rfl, rfl, rfl, rfl⟩ ⟨rfl, rfl, rfl⟩

theorem recoverRun_keeps (h : Keeps r s) : Keeps r (recoverRun s) := by
  unfold recoverRun; split
  · exact enterHold_keeps _ _ h
  · exact h

theorem giveCredit_keeps (m : Byte) (x : HeadIx) (h : Keeps r s) : Keeps r (giveCredit m s x) := by
  unfold giveCredit; split
  · exact requestHead_keeps _ (modHead_keeps _ _ (fun _ h => h) h)
  · exact h

theorem clearCredits_keeps (h : Keeps r s) : Keeps r (clearCredits s) :=
  withdrawHeads_keeps (modHeads_keeps _ (fun _ _ h => h) h)

/-- The run control unit takes a run state with what the run-state invariant needs of it. -/
theorem Keeps.onRun (h : Keeps r s) (v : Rcu)
    (hs : v.settleDelay = s.rcu.settleDelay ∧ v.driveTimeout = s.rcu.driveTimeout ∧ v.mode = s.rcu.mode
      ∧ v.clearInHold = s.rcu.clearInHold ∧ v.holdPoints = s.rcu.holdPoints)
    (hc : RunInv s → v.run ≠ .hold → v.causes = .none) (ht : v.settle.isSome = true ↔ v.run = .resuming)
    (hr : v.run ≠ .run → s.rcu.run ≠ .run) : Keeps r { s with rcu := v } :=
  h.trans { Keeps.refl s with
    settings := hs
    log := fun i => ⟨i.room, i.once⟩
    run := fun i =>
      { causes := hc i, settle := ht, delay := by simpa [hs] using i.delay, timeout := by simpa [hs] using i.timeout,
        timers := fun n => i.timers (hr n) } }

theorem resumeTimers_keeps (hr : s.rcu.run = .run) (h : Keeps r s) : Keeps r (resumeTimers s) :=
  modHeads_keeps _ (fun n => absurd hr n) h

theorem returnToRun_keeps (hr : s.rcu.run ≠ .hold) (h : Keeps r s) : Keeps r (returnToRun s) := by
  unfold returnToRun
  exact settle_keeps (inEitherOrder_keeps (fun _ => headsReturn_keeps)
    (fun _ => inEitherOrder_keeps (fun _ => attemptBoth_keeps) (fun _ => evaluateBoth_keeps)) (resumeTimers_keeps rfl
      (raise_keeps _ _ (h.onRun _ ⟨rfl, rfl, rfl, rfl, rfl⟩ (fun i _ => i.causes hr) (by simp)
        (fun n => absurd rfl n)))))

theorem resume_keeps (hr : s.rcu.run = .hold) (h : Keeps r s) : Keeps r (resume s) := by
  have k : Keeps r (modRcu (fun r => { r with
      causes := .none, run := .resuming, settle := some (s.now + BitVec.ofNat 32 r.settleDelay) }) (grantHeld s)) :=
    (grantHeld_keeps h).onRun _ ⟨rfl, rfl, rfl, rfl, rfl⟩ (fun _ _ => rfl) (by simp) (fun _ => by
      have : (grantHeld s).rcu.run = s.rcu.run := rfl
      rw [this, hr]; decide)
  unfold resume; dsimp only; split
  · exact returnToRun_keeps (by simp [modRcu]) k
  · exact k

theorem stopGantry_rcu (g : Gantry) (s : State) : (stopGantry g s).rcu = s.rcu := by
  unfold stopGantry; split
  · cases g <;> rfl
  · cases g <;> rfl
  · rfl

theorem pauseTimers_rcu (s : State) : (pauseTimers s).rcu = s.rcu := rfl

theorem enterEstop_keeps (h : Keeps r s) : Keeps r (enterEstop s) := by
  unfold enterEstop; dsimp only
  refine Keeps.foldl (fun _ _ => voidHead_keeps _) _ _ (h.trans ?_)
  have k : Keeps (modRcu (fun r => { r with settle := none, causes := .none, run := .estop })
      (raise .estop (n8 s.rcu.run.code) s))
      (pauseTimers (withdrawAll (stopGantry .unload (stopGantry .load (modRcu
        (fun r => { r with settle := none, causes := .none, run := .estop })
        (raise .estop (n8 s.rcu.run.code) s)))))) :=
    pauseTimers_keeps (withdrawAll_keeps (stopGantry_keeps _ (stopGantry_keeps _ (Keeps.refl _))))
  have k0 : Keeps s (raise .estop (n8 s.rcu.run.code) s) := raise_keeps _ _ (Keeps.refl _)
  have e := (stopGantry_rcu .unload _).trans (stopGantry_rcu .load (modRcu
        (fun r => { r with settle := none, causes := .none, run := .estop })
        (raise .estop (n8 s.rcu.run.code) s)))
  exact
    { pending := k.pending.trans k0.pending, now := k.now.trans k0.now, pcu := k.pcu.trans k0.pcu
      teach := fun j => (k.teach j).trans (k0.teach j), lines := k.lines, link := k.link
      notices := k0.notices.trans k.notices, noticeRoom := fun i => k.noticeRoom (k0.noticeRoom i)
      raised := fun j i => k.raised j (k0.raised j i), raisedRoom := fun i => k.raisedRoom (k0.raisedRoom i)
      attn := fun i => k.attn (k0.attn i), params := k.params, estimates := k.estimates, tables := k.tables
      settings := k.settings
      log := fun i => k.log ⟨i.room, i.once⟩, queues := k.queues
      run := fun i =>
        { causes := fun _ => congrArg Rcu.causes e
          settle := by
            have e' := (congrArg Rcu.settle e)
            have e2 := (congrArg Rcu.run e)
            constructor
            · intro x; exact absurd (e' ▸ x) (by simp [modRcu])
            · intro x; exact absurd (e2.symm.trans x) (by simp [modRcu])
          delay := (congrArg Rcu.settleDelay e) ▸ i.delay
          timeout := (congrArg Rcu.driveTimeout e) ▸ i.timeout
          timers := fun _ j => pauseTimers_still _ j } }

theorem recovered_keeps (l : List Gantry) (p : Gantry → Byte) (h : Keeps r s) :
    Keeps r (settle (recoverRun (l.foldl (fun s g => recoverGantry g (p g) s) s))) :=
  settle_keeps (recoverRun_keeps (Keeps.foldl (fun _ g => recoverGantry_keeps g _) _ _ h))

end Sys2Proof.Machine
end

