-- ==== Sys2Proof/Laws/PerInstr.lean ====
section
/-! SUPPORT. One lemma per row of the command table: the request that a row brings is the row's own, it is well formed
exactly when the row is, and its kind lies below 0x80, where the kinds of requests stand. -/
namespace Sys2Proof.Laws

/-- What each row says of the request it brings (R173, Table 11-6); an event row brings none. -/
def RequestKind.Statement (i : Instr) : Prop :=
  ∀ tag r, requestOf i = some (tag, r) → rowOf tag r = i ∧ i.wf = r.wf ∧ r.kind.toNat < 0x80

/-- The kinds of requests are 0x01 to 0x65 (Table 11-6). -/
theorem request_kind_lt (r : Request) : r.kind.toNat < 0x80 := by cases r <;> simp [Request.kind]

theorem RequestKind.cellFrameReceived (bytes : List Byte) :
    RequestKind.Statement (.cellFrameReceived bytes) := by
  rintro _ _ ⟨⟩

theorem RequestKind.unknownKind (tag kind : Byte) (payload : List Byte) :
    RequestKind.Statement (.unknownKind tag kind payload) := by
  rintro _ _ ⟨⟩

theorem RequestKind.setupAxis (tag axis : Byte) (k : Half) (lmax park : Word) :
    RequestKind.Statement (.setupAxis tag axis k lmax park) := by
  rintro _ _ ⟨⟩; exact ⟨rfl, rfl, request_kind_lt _⟩

theorem RequestKind.setupCamera (tag : Byte) (scale : Half) (x y : Word) (trims : Vector TrimArg 4) :
    RequestKind.Statement (.setupCamera tag scale x y trims) := by
  rintro _ _ ⟨⟩; exact ⟨rfl, rfl, request_kind_lt _⟩

theorem RequestKind.setupSocket (tag socket : Byte) (loadX loadY unloadX unloadY : Word) (tx ty window : Half)
    (policy : Byte) :
    RequestKind.Statement (.setupSocket tag socket loadX loadY unloadX unloadY tx ty window policy) := by
  rintro _ _ ⟨⟩; exact ⟨rfl, rfl, request_kind_lt _⟩

theorem RequestKind.setupSoak (tag : Byte) (load unload : GridArg) :
    RequestKind.Statement (.setupSoak tag load unload) := by
  rintro _ _ ⟨⟩; exact ⟨rfl, rfl, request_kind_lt _⟩

theorem RequestKind.setupStation (tag station : Byte) (part : StationPart) :
    RequestKind.Statement (.setupStation tag station part) := by
  rintro _ _ ⟨⟩; exact ⟨rfl, rfl, request_kind_lt _⟩

theorem RequestKind.setupChute (tag : Byte) (x y : Word) :
    RequestKind.Statement (.setupChute tag x y) := by
  rintro _ _ ⟨⟩; exact ⟨rfl, rfl, request_kind_lt _⟩

theorem RequestKind.lotOpen (tag : Byte) (lot : Half) :
    RequestKind.Statement (.lotOpen tag lot) := by
  rintro _ _ ⟨⟩; exact ⟨rfl, rfl, request_kind_lt _⟩

theorem RequestKind.setLot (tag : Byte) (entries : List ParamArg) :
    RequestKind.Statement (.setLot tag entries) := by
  rintro _ _ ⟨⟩; exact ⟨rfl, rfl, request_kind_lt _⟩

theorem RequestKind.setBin (tag : Byte) (entries : List BinArg) :
    RequestKind.Statement (.setBin tag entries) := by
  rintro _ _ ⟨⟩; exact ⟨rfl, rfl, request_kind_lt _⟩

theorem RequestKind.setCategory (tag : Byte) (entries : List CategoryArg) :
    RequestKind.Statement (.setCategory tag entries) := by
  rintro _ _ ⟨⟩; exact ⟨rfl, rfl, request_kind_lt _⟩

theorem RequestKind.lotStart (tag : Byte) :
    RequestKind.Statement (.lotStart tag) := by
  rintro _ _ ⟨⟩; exact ⟨rfl, rfl, request_kind_lt _⟩

theorem RequestKind.lotPurge (tag : Byte) :
    RequestKind.Statement (.lotPurge tag) := by
  rintro _ _ ⟨⟩; exact ⟨rfl, rfl, request_kind_lt _⟩

theorem RequestKind.lotClose (tag : Byte) :
    RequestKind.Statement (.lotClose tag) := by
  rintro _ _ ⟨⟩; exact ⟨rfl, rfl, request_kind_lt _⟩

theorem RequestKind.armInput (tag station mode : Byte) (first count : Half) (more : Byte) :
    RequestKind.Statement (.armInput tag station mode first count more) := by
  rintro _ _ ⟨⟩; exact ⟨rfl, rfl, request_kind_lt _⟩

theorem RequestKind.armOutput (tag station : Byte) (first count : Half) :
    RequestKind.Statement (.armOutput tag station first count) := by
  rintro _ _ ⟨⟩; exact ⟨rfl, rfl, request_kind_lt _⟩

theorem RequestKind.socketEnable (tag socket : Byte) :
    RequestKind.Statement (.socketEnable tag socket) := by
  rintro _ _ ⟨⟩; exact ⟨rfl, rfl, request_kind_lt _⟩

theorem RequestKind.socketDisable (tag socket : Byte) :
    RequestKind.Statement (.socketDisable tag socket) := by
  rintro _ _ ⟨⟩; exact ⟨rfl, rfl, request_kind_lt _⟩

theorem RequestKind.socketClear (tag socket : Byte) :
    RequestKind.Statement (.socketClear tag socket) := by
  rintro _ _ ⟨⟩; exact ⟨rfl, rfl, request_kind_lt _⟩

theorem RequestKind.soakClear (tag position : Byte) :
    RequestKind.Statement (.soakClear tag position) := by
  rintro _ _ ⟨⟩; exact ⟨rfl, rfl, request_kind_lt _⟩

theorem RequestKind.unitClear (tag : Byte) (unit : Word) :
    RequestKind.Statement (.unitClear tag unit) := by
  rintro _ _ ⟨⟩; exact ⟨rfl, rfl, request_kind_lt _⟩

theorem RequestKind.hold (tag : Byte) :
    RequestKind.Statement (.hold tag) := by
  rintro _ _ ⟨⟩; exact ⟨rfl, rfl, request_kind_lt _⟩

theorem RequestKind.resume (tag : Byte) :
    RequestKind.Statement (.resume tag) := by
  rintro _ _ ⟨⟩; exact ⟨rfl, rfl, request_kind_lt _⟩

theorem RequestKind.holdNow (tag : Byte) :
    RequestKind.Statement (.holdNow tag) := by
  rintro _ _ ⟨⟩; exact ⟨rfl, rfl, request_kind_lt _⟩

theorem RequestKind.recover (tag mask loadPresence unloadPresence : Byte) :
    RequestKind.Statement (.recover tag mask loadPresence unloadPresence) := by
  rintro _ _ ⟨⟩; exact ⟨rfl, rfl, request_kind_lt _⟩

theorem RequestKind.setMode (tag mode : Byte) (driveTimeout settleDelay : Half) :
    RequestKind.Statement (.setMode tag mode driveTimeout settleDelay) := by
  rintro _ _ ⟨⟩; exact ⟨rfl, rfl, request_kind_lt _⟩

theorem RequestKind.cycle (tag mask : Byte) :
    RequestKind.Statement (.cycle tag mask) := by
  rintro _ _ ⟨⟩; exact ⟨rfl, rfl, request_kind_lt _⟩

theorem RequestKind.setHoldpoint (tag index kind : Byte) (value : Word) (enabled : Byte) :
    RequestKind.Statement (.setHoldpoint tag index kind value enabled) := by
  rintro _ _ ⟨⟩; exact ⟨rfl, rfl, request_kind_lt _⟩

theorem RequestKind.setProtect (tag value : Byte) :
    RequestKind.Statement (.setProtect tag value) := by
  rintro _ _ ⟨⟩; exact ⟨rfl, rfl, request_kind_lt _⟩

theorem RequestKind.status (tag factor : Byte) :
    RequestKind.Statement (.status tag factor) := by
  rintro _ _ ⟨⟩; exact ⟨rfl, rfl, request_kind_lt _⟩

theorem RequestKind.unitQuery (tag : Byte) (unit : Word) (place : Half) :
    RequestKind.Statement (.unitQuery tag unit place) := by
  rintro _ _ ⟨⟩; exact ⟨rfl, rfl, request_kind_lt _⟩

theorem RequestKind.socketQuery (tag socket : Byte) :
    RequestKind.Statement (.socketQuery tag socket) := by
  rintro _ _ ⟨⟩; exact ⟨rfl, rfl, request_kind_lt _⟩

theorem RequestKind.headQuery (tag head : Byte) :
    RequestKind.Statement (.headQuery tag head) := by
  rintro _ _ ⟨⟩; exact ⟨rfl, rfl, request_kind_lt _⟩

theorem RequestKind.stationQuery (tag station : Byte) :
    RequestKind.Statement (.stationQuery tag station) := by
  rintro _ _ ⟨⟩; exact ⟨rfl, rfl, request_kind_lt _⟩

theorem RequestKind.lotSummary (tag : Byte) :
    RequestKind.Statement (.lotSummary tag) := by
  rintro _ _ ⟨⟩; exact ⟨rfl, rfl, request_kind_lt _⟩

theorem RequestKind.logRead (tag count : Byte) :
    RequestKind.Statement (.logRead tag count) := by
  rintro _ _ ⟨⟩; exact ⟨rfl, rfl, request_kind_lt _⟩

theorem RequestKind.noticeEnable (tag : Byte) (mask : Word) :
    RequestKind.Statement (.noticeEnable tag mask) := by
  rintro _ _ ⟨⟩; exact ⟨rfl, rfl, request_kind_lt _⟩

theorem RequestKind.noticeClear (tag : Byte) (mask : Word) :
    RequestKind.Statement (.noticeClear tag mask) := by
  rintro _ _ ⟨⟩; exact ⟨rfl, rfl, request_kind_lt _⟩

theorem RequestKind.reset (tag : Byte) :
    RequestKind.Statement (.reset tag) := by
  rintro _ _ ⟨⟩; exact ⟨rfl, rfl, request_kind_lt _⟩

theorem RequestKind.replySent :
    RequestKind.Statement .replySent := by
  rintro _ _ ⟨⟩

theorem RequestKind.noticeSent :
    RequestKind.Statement (.noticeSent) := by
  rintro _ _ ⟨⟩

theorem RequestKind.done (g : Gantry) (bytes : List Byte) :
    RequestKind.Statement (.done g bytes) := by
  rintro _ _ ⟨⟩

theorem RequestKind.driveReplyTimerExpiry (g : Gantry) :
    RequestKind.Statement (.driveReplyTimerExpiry g) := by
  rintro _ _ ⟨⟩

theorem RequestKind.settleTimerExpiry :
    RequestKind.Statement (.settleTimerExpiry) := by
  rintro _ _ ⟨⟩

theorem RequestKind.fillTimerExpiry (head : Fin 4) :
    RequestKind.Statement (.fillTimerExpiry head) := by
  rintro _ _ ⟨⟩

theorem RequestKind.testTimerExpiry (head : Fin 4) :
    RequestKind.Statement (.testTimerExpiry head) := by
  rintro _ _ ⟨⟩

theorem RequestKind.soakExpiry (unit : Word) :
    RequestKind.Statement (.soakExpiry unit) := by
  rintro _ _ ⟨⟩

theorem RequestKind.stagingTimerExpiry :
    RequestKind.Statement (.stagingTimerExpiry) := by
  rintro _ _ ⟨⟩

theorem RequestKind.eot (head : Fin 4) (lines : Vector BinLine 4) :
    RequestKind.Statement (.eot head lines) := by
  rintro _ _ ⟨⟩

theorem RequestKind.doorActive :
    RequestKind.Statement (.doorActive) := by
  rintro _ _ ⟨⟩

theorem RequestKind.doorInactive :
    RequestKind.Statement (.doorInactive) := by
  rintro _ _ ⟨⟩

theorem RequestKind.estopActive :
    RequestKind.Statement (.estopActive) := by
  rintro _ _ ⟨⟩

theorem RequestKind.estopInactive :
    RequestKind.Statement (.estopInactive) := by
  rintro _ _ ⟨⟩

theorem RequestKind.resetNLow :
    RequestKind.Statement (.resetNLow) := by
  rintro _ _ ⟨⟩

theorem RequestKind.resetNRelease (rate : Bool) :
    RequestKind.Statement (.resetNRelease rate) := by
  rintro _ _ ⟨⟩

theorem RequestKind.powerUp (rate : Bool) :
    RequestKind.Statement (.powerUp rate) := by
  rintro _ _ ⟨⟩

theorem RequestKind.byteGapTimeout (link : Link) :
    RequestKind.Statement (.byteGapTimeout link) := by
  rintro _ _ ⟨⟩

end Sys2Proof.Laws
end

