-- ==== Sys2Proof/Laws/Queries.lean ====
section
/-! SUPPORT. What a query reads of a unit whose soak has elapsed, and the bound on the remaining soak (R12, R21). -/
namespace Sys2Proof.Machine

variable {r : UnitRec} {s : State}

theorem asRead_of_expired (h : soakExpired r s = true) : (r.asRead s).state = .ready := by
  simp [UnitRec.asRead, h]

theorem asRead_of_not_expired (h : soakExpired r s = false) : r.asRead s = r := by
  simp [UnitRec.asRead, h]

/-- A query never shows a remaining soak below 1 ms (R21). -/
theorem remainingSoak_asRead_ne_zero {w : BitVec 32} (ht : r.soakTarget < 2 ^ 32)
    (h : remainingSoak (r.asRead s) s = some w) : w ≠ 0 := by
  cases he : soakExpired r s with
  | true => simp [remainingSoak, asRead_of_expired he] at h
  | false =>
    rw [asRead_of_not_expired he] at h
    unfold remainingSoak at h
    split at h
    · rename_i t hs hb
      simp only [soakExpired, hs, hb, decide_eq_false_iff_not, not_le] at he
      cases h
      bv_omega
    · cases h

end Sys2Proof.Machine
end

