-- ==== Sys2Proof/Laws/State.lean ====
section
/-! SUPPORT. The fields of State after each update: one lemma per field per update, each true by unfolding. The last part
says what the records of a gantry, a station, a head, a socket and a zone are after a change of one. -/
namespace Sys2Proof.Machine

/-! ### modUnit -/

section
variable (u : UnitNo) (f : UnitRec → UnitRec) (s : State)

@[simp] theorem modUnit_pending : (modUnit u f s).pending = s.pending := rfl
@[simp] theorem modUnit_free : (modUnit u f s).free = s.free := rfl
@[simp] theorem modUnit_now : (modUnit u f s).now = s.now := rfl
@[simp] theorem modUnit_pins : (modUnit u f s).pins = s.pins := rfl
@[simp] theorem modUnit_clu : (modUnit u f s).clu = s.clu := rfl
@[simp] theorem modUnit_upt : (modUnit u f s).upt = { s.upt with units := s.upt.units.map (fun r => if r.no = u then f r else r) } :=
  rfl
@[simp] theorem modUnit_ltc : (modUnit u f s).ltc = s.ltc := rfl
@[simp] theorem modUnit_fsc : (modUnit u f s).fsc = s.fsc := rfl
@[simp] theorem modUnit_xpl : (modUnit u f s).xpl = s.xpl := rfl
@[simp] theorem modUnit_pcu : (modUnit u f s).pcu = s.pcu := rfl
@[simp] theorem modUnit_gsqL : (modUnit u f s).gsqL = s.gsqL := rfl
@[simp] theorem modUnit_gsqU : (modUnit u f s).gsqU = s.gsqU := rfl
@[simp] theorem modUnit_hsc : (modUnit u f s).hsc = s.hsc := rfl
@[simp] theorem modUnit_zar : (modUnit u f s).zar = s.zar := rfl
@[simp] theorem modUnit_srt : (modUnit u f s).srt = s.srt := rfl
@[simp] theorem modUnit_rcu : (modUnit u f s).rcu = s.rcu := rfl

end

/-! ### dropUnit -/

section
variable (u : UnitNo) (s : State)

@[simp] theorem dropUnit_pending : (dropUnit u s).pending = s.pending := rfl
@[simp] theorem dropUnit_free : (dropUnit u s).free = s.free := rfl
@[simp] theorem dropUnit_now : (dropUnit u s).now = s.now := rfl
@[simp] theorem dropUnit_pins : (dropUnit u s).pins = s.pins := rfl
@[simp] theorem dropUnit_clu : (dropUnit u s).clu = s.clu := rfl
@[simp] theorem dropUnit_upt : (dropUnit u s).upt = { s.upt with units := s.upt.units.filter (fun r => r.no ≠ u) } :=
  rfl
@[simp] theorem dropUnit_ltc : (dropUnit u s).ltc = s.ltc := rfl
@[simp] theorem dropUnit_fsc : (dropUnit u s).fsc = s.fsc := rfl
@[simp] theorem dropUnit_xpl : (dropUnit u s).xpl = s.xpl := rfl
@[simp] theorem dropUnit_pcu : (dropUnit u s).pcu = s.pcu := rfl
@[simp] theorem dropUnit_gsqL : (dropUnit u s).gsqL = s.gsqL := rfl
@[simp] theorem dropUnit_gsqU : (dropUnit u s).gsqU = s.gsqU := rfl
@[simp] theorem dropUnit_hsc : (dropUnit u s).hsc = s.hsc := rfl
@[simp] theorem dropUnit_zar : (dropUnit u s).zar = s.zar := rfl
@[simp] theorem dropUnit_srt : (dropUnit u s).srt = s.srt := rfl
@[simp] theorem dropUnit_rcu : (dropUnit u s).rcu = s.rcu := rfl

end

/-! ### modCounters -/

section
variable (f : UnitCounters → UnitCounters) (s : State)

@[simp] theorem modCounters_pending : (modCounters f s).pending = s.pending := rfl
@[simp] theorem modCounters_free : (modCounters f s).free = s.free := rfl
@[simp] theorem modCounters_now : (modCounters f s).now = s.now := rfl
@[simp] theorem modCounters_pins : (modCounters f s).pins = s.pins := rfl
@[simp] theorem modCounters_clu : (modCounters f s).clu = s.clu := rfl
@[simp] theorem modCounters_upt : (modCounters f s).upt = { s.upt with counters := f s.upt.counters } := rfl
@[simp] theorem modCounters_ltc : (modCounters f s).ltc = s.ltc := rfl
@[simp] theorem modCounters_fsc : (modCounters f s).fsc = s.fsc := rfl
@[simp] theorem modCounters_xpl : (modCounters f s).xpl = s.xpl := rfl
@[simp] theorem modCounters_pcu : (modCounters f s).pcu = s.pcu := rfl
@[simp] theorem modCounters_gsqL : (modCounters f s).gsqL = s.gsqL := rfl
@[simp] theorem modCounters_gsqU : (modCounters f s).gsqU = s.gsqU := rfl
@[simp] theorem modCounters_hsc : (modCounters f s).hsc = s.hsc := rfl
@[simp] theorem modCounters_zar : (modCounters f s).zar = s.zar := rfl
@[simp] theorem modCounters_srt : (modCounters f s).srt = s.srt := rfl
@[simp] theorem modCounters_rcu : (modCounters f s).rcu = s.rcu := rfl

end

/-! ### modUpt -/

section
variable (f : Upt → Upt) (s : State)

@[simp] theorem modUpt_pending : (modUpt f s).pending = s.pending := rfl
@[simp] theorem modUpt_free : (modUpt f s).free = s.free := rfl
@[simp] theorem modUpt_now : (modUpt f s).now = s.now := rfl
@[simp] theorem modUpt_pins : (modUpt f s).pins = s.pins := rfl
@[simp] theorem modUpt_clu : (modUpt f s).clu = s.clu := rfl
@[simp] theorem modUpt_upt : (modUpt f s).upt = f s.upt := rfl
@[simp] theorem modUpt_ltc : (modUpt f s).ltc = s.ltc := rfl
@[simp] theorem modUpt_fsc : (modUpt f s).fsc = s.fsc := rfl
@[simp] theorem modUpt_xpl : (modUpt f s).xpl = s.xpl := rfl
@[simp] theorem modUpt_pcu : (modUpt f s).pcu = s.pcu := rfl
@[simp] theorem modUpt_gsqL : (modUpt f s).gsqL = s.gsqL := rfl
@[simp] theorem modUpt_gsqU : (modUpt f s).gsqU = s.gsqU := rfl
@[simp] theorem modUpt_hsc : (modUpt f s).hsc = s.hsc := rfl
@[simp] theorem modUpt_zar : (modUpt f s).zar = s.zar := rfl
@[simp] theorem modUpt_srt : (modUpt f s).srt = s.srt := rfl
@[simp] theorem modUpt_rcu : (modUpt f s).rcu = s.rcu := rfl

end

/-! ### modSoak -/

section
variable (p : SoakIx) (f : SoakPos → SoakPos) (s : State)

@[simp] theorem modSoak_pending : (modSoak p f s).pending = s.pending := rfl
@[simp] theorem modSoak_free : (modSoak p f s).free = s.free := rfl
@[simp] theorem modSoak_now : (modSoak p f s).now = s.now := rfl
@[simp] theorem modSoak_pins : (modSoak p f s).pins = s.pins := rfl
@[simp] theorem modSoak_clu : (modSoak p f s).clu = s.clu := rfl
@[simp] theorem modSoak_upt : (modSoak p f s).upt = { s.upt with soak := s.upt.soak.set p.val (f s.upt.soak[p]) } :=
  rfl
@[simp] theorem modSoak_ltc : (modSoak p f s).ltc = s.ltc := rfl
@[simp] theorem modSoak_fsc : (modSoak p f s).fsc = s.fsc := rfl
@[simp] theorem modSoak_xpl : (modSoak p f s).xpl = s.xpl := rfl
@[simp] theorem modSoak_pcu : (modSoak p f s).pcu = s.pcu := rfl
@[simp] theorem modSoak_gsqL : (modSoak p f s).gsqL = s.gsqL := rfl
@[simp] theorem modSoak_gsqU : (modSoak p f s).gsqU = s.gsqU := rfl
@[simp] theorem modSoak_hsc : (modSoak p f s).hsc = s.hsc := rfl
@[simp] theorem modSoak_zar : (modSoak p f s).zar = s.zar := rfl
@[simp] theorem modSoak_srt : (modSoak p f s).srt = s.srt := rfl
@[simp] theorem modSoak_rcu : (modSoak p f s).rcu = s.rcu := rfl

end

/-! ### modSocket -/

section
variable (k : SocketIx) (f : SocketRec → SocketRec) (s : State)

@[simp] theorem modSocket_pending : (modSocket k f s).pending = s.pending := rfl
@[simp] theorem modSocket_free : (modSocket k f s).free = s.free := rfl
@[simp] theorem modSocket_now : (modSocket k f s).now = s.now := rfl
@[simp] theorem modSocket_pins : (modSocket k f s).pins = s.pins := rfl
@[simp] theorem modSocket_clu : (modSocket k f s).clu = s.clu := rfl
@[simp] theorem modSocket_upt : (modSocket k f s).upt = s.upt := rfl
@[simp] theorem modSocket_ltc : (modSocket k f s).ltc = s.ltc := rfl
@[simp] theorem modSocket_fsc : (modSocket k f s).fsc = s.fsc := rfl
@[simp] theorem modSocket_xpl : (modSocket k f s).xpl = s.xpl := rfl
@[simp] theorem modSocket_pcu : (modSocket k f s).pcu = s.pcu := rfl
@[simp] theorem modSocket_gsqL : (modSocket k f s).gsqL = s.gsqL := rfl
@[simp] theorem modSocket_gsqU : (modSocket k f s).gsqU = s.gsqU := rfl
@[simp] theorem modSocket_hsc : (modSocket k f s).hsc = { s.hsc with sockets := s.hsc.sockets.set k.val (f s.hsc.sockets[k]) } :=
  rfl
@[simp] theorem modSocket_zar : (modSocket k f s).zar = s.zar := rfl
@[simp] theorem modSocket_srt : (modSocket k f s).srt = s.srt := rfl
@[simp] theorem modSocket_rcu : (modSocket k f s).rcu = s.rcu := rfl

end

/-! ### modHead -/

section
variable (k : HeadIx) (f : HeadRec → HeadRec) (s : State)

@[simp] theorem modHead_pending : (modHead k f s).pending = s.pending := rfl
@[simp] theorem modHead_free : (modHead k f s).free = s.free := rfl
@[simp] theorem modHead_now : (modHead k f s).now = s.now := rfl
@[simp] theorem modHead_pins : (modHead k f s).pins = s.pins := rfl
@[simp] theorem modHead_clu : (modHead k f s).clu = s.clu := rfl
@[simp] theorem modHead_upt : (modHead k f s).upt = s.upt := rfl
@[simp] theorem modHead_ltc : (modHead k f s).ltc = s.ltc := rfl
@[simp] theorem modHead_fsc : (modHead k f s).fsc = s.fsc := rfl
@[simp] theorem modHead_xpl : (modHead k f s).xpl = s.xpl := rfl
@[simp] theorem modHead_pcu : (modHead k f s).pcu = s.pcu := rfl
@[simp] theorem modHead_gsqL : (modHead k f s).gsqL = s.gsqL := rfl
@[simp] theorem modHead_gsqU : (modHead k f s).gsqU = s.gsqU := rfl
@[simp] theorem modHead_hsc : (modHead k f s).hsc = { s.hsc with heads := s.hsc.heads.set k.val (f s.hsc.heads[k]) } :=
  rfl
@[simp] theorem modHead_zar : (modHead k f s).zar = s.zar := rfl
@[simp] theorem modHead_srt : (modHead k f s).srt = s.srt := rfl
@[simp] theorem modHead_rcu : (modHead k f s).rcu = s.rcu := rfl

end

/-! ### modHeads -/

section
variable (f : HeadRec → HeadRec) (s : State)

@[simp] theorem modHeads_pending : (modHeads f s).pending = s.pending := rfl
@[simp] theorem modHeads_free : (modHeads f s).free = s.free := rfl
@[simp] theorem modHeads_now : (modHeads f s).now = s.now := rfl
@[simp] theorem modHeads_pins : (modHeads f s).pins = s.pins := rfl
@[simp] theorem modHeads_clu : (modHeads f s).clu = s.clu := rfl
@[simp] theorem modHeads_upt : (modHeads f s).upt = s.upt := rfl
@[simp] theorem modHeads_ltc : (modHeads f s).ltc = s.ltc := rfl
@[simp] theorem modHeads_fsc : (modHeads f s).fsc = s.fsc := rfl
@[simp] theorem modHeads_xpl : (modHeads f s).xpl = s.xpl := rfl
@[simp] theorem modHeads_pcu : (modHeads f s).pcu = s.pcu := rfl
@[simp] theorem modHeads_gsqL : (modHeads f s).gsqL = s.gsqL := rfl
@[simp] theorem modHeads_gsqU : (modHeads f s).gsqU = s.gsqU := rfl
@[simp] theorem modHeads_hsc : (modHeads f s).hsc = { s.hsc with heads := s.hsc.heads.map f } := rfl
@[simp] theorem modHeads_zar : (modHeads f s).zar = s.zar := rfl
@[simp] theorem modHeads_srt : (modHeads f s).srt = s.srt := rfl
@[simp] theorem modHeads_rcu : (modHeads f s).rcu = s.rcu := rfl

end

/-! ### modGsq -/

section
variable (g : Gantry) (f : Gsq → Gsq) (s : State)

@[simp] theorem modGsq_pending : (modGsq g f s).pending = s.pending := by cases g <;> rfl
@[simp] theorem modGsq_free : (modGsq g f s).free = s.free := by cases g <;> rfl
@[simp] theorem modGsq_now : (modGsq g f s).now = s.now := by cases g <;> rfl
@[simp] theorem modGsq_pins : (modGsq g f s).pins = s.pins := by cases g <;> rfl
@[simp] theorem modGsq_clu : (modGsq g f s).clu = s.clu := by cases g <;> rfl
@[simp] theorem modGsq_upt : (modGsq g f s).upt = s.upt := by cases g <;> rfl
@[simp] theorem modGsq_ltc : (modGsq g f s).ltc = s.ltc := by cases g <;> rfl
@[simp] theorem modGsq_fsc : (modGsq g f s).fsc = s.fsc := by cases g <;> rfl
@[simp] theorem modGsq_xpl : (modGsq g f s).xpl = s.xpl := by cases g <;> rfl
@[simp] theorem modGsq_pcu : (modGsq g f s).pcu = s.pcu := by cases g <;> rfl
@[simp] theorem modGsq_hsc : (modGsq g f s).hsc = s.hsc := by cases g <;> rfl
@[simp] theorem modGsq_zar : (modGsq g f s).zar = s.zar := by cases g <;> rfl
@[simp] theorem modGsq_srt : (modGsq g f s).srt = s.srt := by cases g <;> rfl
@[simp] theorem modGsq_rcu : (modGsq g f s).rcu = s.rcu := by cases g <;> rfl

end

/-! ### modQueue -/

section
variable (g : Gantry) (f : List Order → List Order) (s : State)

@[simp] theorem modQueue_pending : (modQueue g f s).pending = s.pending := by cases g <;> rfl
@[simp] theorem modQueue_free : (modQueue g f s).free = s.free := by cases g <;> rfl
@[simp] theorem modQueue_now : (modQueue g f s).now = s.now := by cases g <;> rfl
@[simp] theorem modQueue_pins : (modQueue g f s).pins = s.pins := by cases g <;> rfl
@[simp] theorem modQueue_clu : (modQueue g f s).clu = s.clu := by cases g <;> rfl
@[simp] theorem modQueue_upt : (modQueue g f s).upt = s.upt := by cases g <;> rfl
@[simp] theorem modQueue_ltc : (modQueue g f s).ltc = s.ltc := by cases g <;> rfl
@[simp] theorem modQueue_fsc : (modQueue g f s).fsc = s.fsc := by cases g <;> rfl
@[simp] theorem modQueue_pcu : (modQueue g f s).pcu = s.pcu := by cases g <;> rfl
@[simp] theorem modQueue_gsqL : (modQueue g f s).gsqL = s.gsqL := by cases g <;> rfl
@[simp] theorem modQueue_gsqU : (modQueue g f s).gsqU = s.gsqU := by cases g <;> rfl
@[simp] theorem modQueue_hsc : (modQueue g f s).hsc = s.hsc := by cases g <;> rfl
@[simp] theorem modQueue_zar : (modQueue g f s).zar = s.zar := by cases g <;> rfl
@[simp] theorem modQueue_srt : (modQueue g f s).srt = s.srt := by cases g <;> rfl
@[simp] theorem modQueue_rcu : (modQueue g f s).rcu = s.rcu := by cases g <;> rfl

end

/-! ### setParked -/

section
variable (g : Gantry) (b : Bool) (s : State)

@[simp] theorem setParked_pending : (setParked g b s).pending = s.pending := by cases g <;> rfl
@[simp] theorem setParked_free : (setParked g b s).free = s.free := by cases g <;> rfl
@[simp] theorem setParked_now : (setParked g b s).now = s.now := by cases g <;> rfl
@[simp] theorem setParked_pins : (setParked g b s).pins = s.pins := by cases g <;> rfl
@[simp] theorem setParked_clu : (setParked g b s).clu = s.clu := by cases g <;> rfl
@[simp] theorem setParked_upt : (setParked g b s).upt = s.upt := by cases g <;> rfl
@[simp] theorem setParked_ltc : (setParked g b s).ltc = s.ltc := by cases g <;> rfl
@[simp] theorem setParked_fsc : (setParked g b s).fsc = s.fsc := by cases g <;> rfl
@[simp] theorem setParked_pcu : (setParked g b s).pcu = s.pcu := by cases g <;> rfl
@[simp] theorem setParked_gsqL : (setParked g b s).gsqL = s.gsqL := by cases g <;> rfl
@[simp] theorem setParked_gsqU : (setParked g b s).gsqU = s.gsqU := by cases g <;> rfl
@[simp] theorem setParked_hsc : (setParked g b s).hsc = s.hsc := by cases g <;> rfl
@[simp] theorem setParked_zar : (setParked g b s).zar = s.zar := by cases g <;> rfl
@[simp] theorem setParked_srt : (setParked g b s).srt = s.srt := by cases g <;> rfl
@[simp] theorem setParked_rcu : (setParked g b s).rcu = s.rcu := by cases g <;> rfl

end

/-! ### modXpl -/

section
variable (f : Xpl → Xpl) (s : State)

@[simp] theorem modXpl_pending : (modXpl f s).pending = s.pending := rfl
@[simp] theorem modXpl_free : (modXpl f s).free = s.free := rfl
@[simp] theorem modXpl_now : (modXpl f s).now = s.now := rfl
@[simp] theorem modXpl_pins : (modXpl f s).pins = s.pins := rfl
@[simp] theorem modXpl_clu : (modXpl f s).clu = s.clu := rfl
@[simp] theorem modXpl_upt : (modXpl f s).upt = s.upt := rfl
@[simp] theorem modXpl_ltc : (modXpl f s).ltc = s.ltc := rfl
@[simp] theorem modXpl_fsc : (modXpl f s).fsc = s.fsc := rfl
@[simp] theorem modXpl_xpl : (modXpl f s).xpl = f s.xpl := rfl
@[simp] theorem modXpl_pcu : (modXpl f s).pcu = s.pcu := rfl
@[simp] theorem modXpl_gsqL : (modXpl f s).gsqL = s.gsqL := rfl
@[simp] theorem modXpl_gsqU : (modXpl f s).gsqU = s.gsqU := rfl
@[simp] theorem modXpl_hsc : (modXpl f s).hsc = s.hsc := rfl
@[simp] theorem modXpl_zar : (modXpl f s).zar = s.zar := rfl
@[simp] theorem modXpl_srt : (modXpl f s).srt = s.srt := rfl
@[simp] theorem modXpl_rcu : (modXpl f s).rcu = s.rcu := rfl

end

/-! ### modLtc -/

section
variable (f : Ltc → Ltc) (s : State)

@[simp] theorem modLtc_pending : (modLtc f s).pending = s.pending := rfl
@[simp] theorem modLtc_free : (modLtc f s).free = s.free := rfl
@[simp] theorem modLtc_now : (modLtc f s).now = s.now := rfl
@[simp] theorem modLtc_pins : (modLtc f s).pins = s.pins := rfl
@[simp] theorem modLtc_clu : (modLtc f s).clu = s.clu := rfl
@[simp] theorem modLtc_upt : (modLtc f s).upt = s.upt := rfl
@[simp] theorem modLtc_ltc : (modLtc f s).ltc = f s.ltc := rfl
@[simp] theorem modLtc_fsc : (modLtc f s).fsc = s.fsc := rfl
@[simp] theorem modLtc_xpl : (modLtc f s).xpl = s.xpl := rfl
@[simp] theorem modLtc_pcu : (modLtc f s).pcu = s.pcu := rfl
@[simp] theorem modLtc_gsqL : (modLtc f s).gsqL = s.gsqL := rfl
@[simp] theorem modLtc_gsqU : (modLtc f s).gsqU = s.gsqU := rfl
@[simp] theorem modLtc_hsc : (modLtc f s).hsc = s.hsc := rfl
@[simp] theorem modLtc_zar : (modLtc f s).zar = s.zar := rfl
@[simp] theorem modLtc_srt : (modLtc f s).srt = s.srt := rfl
@[simp] theorem modLtc_rcu : (modLtc f s).rcu = s.rcu := rfl

end

/-! ### modFsc -/

section
variable (f : Fsc → Fsc) (s : State)

@[simp] theorem modFsc_pending : (modFsc f s).pending = s.pending := rfl
@[simp] theorem modFsc_free : (modFsc f s).free = s.free := rfl
@[simp] theorem modFsc_now : (modFsc f s).now = s.now := rfl
@[simp] theorem modFsc_pins : (modFsc f s).pins = s.pins := rfl
@[simp] theorem modFsc_clu : (modFsc f s).clu = s.clu := rfl
@[simp] theorem modFsc_upt : (modFsc f s).upt = s.upt := rfl
@[simp] theorem modFsc_ltc : (modFsc f s).ltc = s.ltc := rfl
@[simp] theorem modFsc_fsc : (modFsc f s).fsc = f s.fsc := rfl
@[simp] theorem modFsc_xpl : (modFsc f s).xpl = s.xpl := rfl
@[simp] theorem modFsc_pcu : (modFsc f s).pcu = s.pcu := rfl
@[simp] theorem modFsc_gsqL : (modFsc f s).gsqL = s.gsqL := rfl
@[simp] theorem modFsc_gsqU : (modFsc f s).gsqU = s.gsqU := rfl
@[simp] theorem modFsc_hsc : (modFsc f s).hsc = s.hsc := rfl
@[simp] theorem modFsc_zar : (modFsc f s).zar = s.zar := rfl
@[simp] theorem modFsc_srt : (modFsc f s).srt = s.srt := rfl
@[simp] theorem modFsc_rcu : (modFsc f s).rcu = s.rcu := rfl

end

/-! ### modIn -/

section
variable (st : Side) (f : InStation → InStation) (s : State)

@[simp] theorem modIn_pending : (modIn st f s).pending = s.pending := by cases st <;> rfl
@[simp] theorem modIn_free : (modIn st f s).free = s.free := by cases st <;> rfl
@[simp] theorem modIn_now : (modIn st f s).now = s.now := by cases st <;> rfl
@[simp] theorem modIn_pins : (modIn st f s).pins = s.pins := by cases st <;> rfl
@[simp] theorem modIn_clu : (modIn st f s).clu = s.clu := by cases st <;> rfl
@[simp] theorem modIn_upt : (modIn st f s).upt = s.upt := by cases st <;> rfl
@[simp] theorem modIn_ltc : (modIn st f s).ltc = s.ltc := by cases st <;> rfl
@[simp] theorem modIn_xpl : (modIn st f s).xpl = s.xpl := by cases st <;> rfl
@[simp] theorem modIn_pcu : (modIn st f s).pcu = s.pcu := by cases st <;> rfl
@[simp] theorem modIn_gsqL : (modIn st f s).gsqL = s.gsqL := by cases st <;> rfl
@[simp] theorem modIn_gsqU : (modIn st f s).gsqU = s.gsqU := by cases st <;> rfl
@[simp] theorem modIn_hsc : (modIn st f s).hsc = s.hsc := by cases st <;> rfl
@[simp] theorem modIn_zar : (modIn st f s).zar = s.zar := by cases st <;> rfl
@[simp] theorem modIn_srt : (modIn st f s).srt = s.srt := by cases st <;> rfl
@[simp] theorem modIn_rcu : (modIn st f s).rcu = s.rcu := by cases st <;> rfl

end

/-! ### modOut -/

section
variable (st : OutStation) (f : OutRec → OutRec) (s : State)

@[simp] theorem modOut_pending : (modOut st f s).pending = s.pending := rfl
@[simp] theorem modOut_free : (modOut st f s).free = s.free := rfl
@[simp] theorem modOut_now : (modOut st f s).now = s.now := rfl
@[simp] theorem modOut_pins : (modOut st f s).pins = s.pins := rfl
@[simp] theorem modOut_clu : (modOut st f s).clu = s.clu := rfl
@[simp] theorem modOut_upt : (modOut st f s).upt = s.upt := rfl
@[simp] theorem modOut_ltc : (modOut st f s).ltc = s.ltc := rfl
@[simp] theorem modOut_fsc : (modOut st f s).fsc = s.fsc := rfl
@[simp] theorem modOut_xpl : (modOut st f s).xpl = s.xpl := rfl
@[simp] theorem modOut_pcu : (modOut st f s).pcu = s.pcu := rfl
@[simp] theorem modOut_gsqL : (modOut st f s).gsqL = s.gsqL := rfl
@[simp] theorem modOut_gsqU : (modOut st f s).gsqU = s.gsqU := rfl
@[simp] theorem modOut_hsc : (modOut st f s).hsc = s.hsc := rfl
@[simp] theorem modOut_zar : (modOut st f s).zar = s.zar := rfl
@[simp] theorem modOut_srt : (modOut st f s).srt = { s.srt with stations := s.srt.stations.set st.ix.val (f s.srt.stations[st.ix]) } :=
  rfl
@[simp] theorem modOut_rcu : (modOut st f s).rcu = s.rcu := rfl

end

/-! ### modSrt -/

section
variable (f : Srt → Srt) (s : State)

@[simp] theorem modSrt_pending : (modSrt f s).pending = s.pending := rfl
@[simp] theorem modSrt_free : (modSrt f s).free = s.free := rfl
@[simp] theorem modSrt_now : (modSrt f s).now = s.now := rfl
@[simp] theorem modSrt_pins : (modSrt f s).pins = s.pins := rfl
@[simp] theorem modSrt_clu : (modSrt f s).clu = s.clu := rfl
@[simp] theorem modSrt_upt : (modSrt f s).upt = s.upt := rfl
@[simp] theorem modSrt_ltc : (modSrt f s).ltc = s.ltc := rfl
@[simp] theorem modSrt_fsc : (modSrt f s).fsc = s.fsc := rfl
@[simp] theorem modSrt_xpl : (modSrt f s).xpl = s.xpl := rfl
@[simp] theorem modSrt_pcu : (modSrt f s).pcu = s.pcu := rfl
@[simp] theorem modSrt_gsqL : (modSrt f s).gsqL = s.gsqL := rfl
@[simp] theorem modSrt_gsqU : (modSrt f s).gsqU = s.gsqU := rfl
@[simp] theorem modSrt_hsc : (modSrt f s).hsc = s.hsc := rfl
@[simp] theorem modSrt_zar : (modSrt f s).zar = s.zar := rfl
@[simp] theorem modSrt_srt : (modSrt f s).srt = f s.srt := rfl
@[simp] theorem modSrt_rcu : (modSrt f s).rcu = s.rcu := rfl

end

/-! ### modPair -/

section
variable (p : PairIx) (f : PairRec → PairRec) (s : State)

@[simp] theorem modPair_pending : (modPair p f s).pending = s.pending := rfl
@[simp] theorem modPair_free : (modPair p f s).free = s.free := rfl
@[simp] theorem modPair_now : (modPair p f s).now = s.now := rfl
@[simp] theorem modPair_pins : (modPair p f s).pins = s.pins := rfl
@[simp] theorem modPair_clu : (modPair p f s).clu = s.clu := rfl
@[simp] theorem modPair_upt : (modPair p f s).upt = s.upt := rfl
@[simp] theorem modPair_ltc : (modPair p f s).ltc = s.ltc := rfl
@[simp] theorem modPair_fsc : (modPair p f s).fsc = s.fsc := rfl
@[simp] theorem modPair_xpl : (modPair p f s).xpl = s.xpl := rfl
@[simp] theorem modPair_pcu : (modPair p f s).pcu = s.pcu := rfl
@[simp] theorem modPair_gsqL : (modPair p f s).gsqL = s.gsqL := rfl
@[simp] theorem modPair_gsqU : (modPair p f s).gsqU = s.gsqU := rfl
@[simp] theorem modPair_hsc : (modPair p f s).hsc = s.hsc := rfl
@[simp] theorem modPair_zar : (modPair p f s).zar = s.zar := rfl
@[simp] theorem modPair_rcu : (modPair p f s).rcu = s.rcu := rfl

end

/-! ### modZone -/

section
variable (z : HeadIx) (f : Zone → Zone) (s : State)

@[simp] theorem modZone_pending : (modZone z f s).pending = s.pending := rfl
@[simp] theorem modZone_free : (modZone z f s).free = s.free := rfl
@[simp] theorem modZone_now : (modZone z f s).now = s.now := rfl
@[simp] theorem modZone_pins : (modZone z f s).pins = s.pins := rfl
@[simp] theorem modZone_clu : (modZone z f s).clu = s.clu := rfl
@[simp] theorem modZone_upt : (modZone z f s).upt = s.upt := rfl
@[simp] theorem modZone_ltc : (modZone z f s).ltc = s.ltc := rfl
@[simp] theorem modZone_fsc : (modZone z f s).fsc = s.fsc := rfl
@[simp] theorem modZone_xpl : (modZone z f s).xpl = s.xpl := rfl
@[simp] theorem modZone_pcu : (modZone z f s).pcu = s.pcu := rfl
@[simp] theorem modZone_gsqL : (modZone z f s).gsqL = s.gsqL := rfl
@[simp] theorem modZone_gsqU : (modZone z f s).gsqU = s.gsqU := rfl
@[simp] theorem modZone_hsc : (modZone z f s).hsc = s.hsc := rfl
@[simp] theorem modZone_zar : (modZone z f s).zar = s.zar.set z.val (f s.zar[z]) := rfl
@[simp] theorem modZone_srt : (modZone z f s).srt = s.srt := rfl
@[simp] theorem modZone_rcu : (modZone z f s).rcu = s.rcu := rfl

end

/-! ### modRcu -/

section
variable (f : Rcu → Rcu) (s : State)

@[simp] theorem modRcu_pending : (modRcu f s).pending = s.pending := rfl
@[simp] theorem modRcu_free : (modRcu f s).free = s.free := rfl
@[simp] theorem modRcu_now : (modRcu f s).now = s.now := rfl
@[simp] theorem modRcu_pins : (modRcu f s).pins = s.pins := rfl
@[simp] theorem modRcu_clu : (modRcu f s).clu = s.clu := rfl
@[simp] theorem modRcu_upt : (modRcu f s).upt = s.upt := rfl
@[simp] theorem modRcu_ltc : (modRcu f s).ltc = s.ltc := rfl
@[simp] theorem modRcu_fsc : (modRcu f s).fsc = s.fsc := rfl
@[simp] theorem modRcu_xpl : (modRcu f s).xpl = s.xpl := rfl
@[simp] theorem modRcu_pcu : (modRcu f s).pcu = s.pcu := rfl
@[simp] theorem modRcu_gsqL : (modRcu f s).gsqL = s.gsqL := rfl
@[simp] theorem modRcu_gsqU : (modRcu f s).gsqU = s.gsqU := rfl
@[simp] theorem modRcu_hsc : (modRcu f s).hsc = s.hsc := rfl
@[simp] theorem modRcu_zar : (modRcu f s).zar = s.zar := rfl
@[simp] theorem modRcu_srt : (modRcu f s).srt = s.srt := rfl
@[simp] theorem modRcu_rcu : (modRcu f s).rcu = f s.rcu := rfl

end

/-! ### modPcu -/

section
variable (f : Pcu → Pcu) (s : State)

@[simp] theorem modPcu_pending : (modPcu f s).pending = s.pending := rfl
@[simp] theorem modPcu_free : (modPcu f s).free = s.free := rfl
@[simp] theorem modPcu_now : (modPcu f s).now = s.now := rfl
@[simp] theorem modPcu_pins : (modPcu f s).pins = s.pins := rfl
@[simp] theorem modPcu_clu : (modPcu f s).clu = s.clu := rfl
@[simp] theorem modPcu_upt : (modPcu f s).upt = s.upt := rfl
@[simp] theorem modPcu_ltc : (modPcu f s).ltc = s.ltc := rfl
@[simp] theorem modPcu_fsc : (modPcu f s).fsc = s.fsc := rfl
@[simp] theorem modPcu_xpl : (modPcu f s).xpl = s.xpl := rfl
@[simp] theorem modPcu_pcu : (modPcu f s).pcu = f s.pcu := rfl
@[simp] theorem modPcu_gsqL : (modPcu f s).gsqL = s.gsqL := rfl
@[simp] theorem modPcu_gsqU : (modPcu f s).gsqU = s.gsqU := rfl
@[simp] theorem modPcu_hsc : (modPcu f s).hsc = s.hsc := rfl
@[simp] theorem modPcu_zar : (modPcu f s).zar = s.zar := rfl
@[simp] theorem modPcu_srt : (modPcu f s).srt = s.srt := rfl
@[simp] theorem modPcu_rcu : (modPcu f s).rcu = s.rcu := rfl

end

/-! ### modPins -/

section
variable (f : Pins → Pins) (s : State)

@[simp] theorem modPins_pending : (modPins f s).pending = s.pending := rfl
@[simp] theorem modPins_free : (modPins f s).free = s.free := rfl
@[simp] theorem modPins_now : (modPins f s).now = s.now := rfl
@[simp] theorem modPins_pins : (modPins f s).pins = f s.pins := rfl
@[simp] theorem modPins_clu : (modPins f s).clu = s.clu := rfl
@[simp] theorem modPins_upt : (modPins f s).upt = s.upt := rfl
@[simp] theorem modPins_ltc : (modPins f s).ltc = s.ltc := rfl
@[simp] theorem modPins_fsc : (modPins f s).fsc = s.fsc := rfl
@[simp] theorem modPins_xpl : (modPins f s).xpl = s.xpl := rfl
@[simp] theorem modPins_pcu : (modPins f s).pcu = s.pcu := rfl
@[simp] theorem modPins_gsqL : (modPins f s).gsqL = s.gsqL := rfl
@[simp] theorem modPins_gsqU : (modPins f s).gsqU = s.gsqU := rfl
@[simp] theorem modPins_hsc : (modPins f s).hsc = s.hsc := rfl
@[simp] theorem modPins_zar : (modPins f s).zar = s.zar := rfl
@[simp] theorem modPins_srt : (modPins f s).srt = s.srt := rfl
@[simp] theorem modPins_rcu : (modPins f s).rcu = s.rcu := rfl

end

/-! ### modClu -/

section
variable (f : Clu → Clu) (s : State)

@[simp] theorem modClu_pending : (modClu f s).pending = s.pending := rfl
@[simp] theorem modClu_free : (modClu f s).free = s.free := rfl
@[simp] theorem modClu_now : (modClu f s).now = s.now := rfl
@[simp] theorem modClu_pins : (modClu f s).pins = s.pins := rfl
@[simp] theorem modClu_clu : (modClu f s).clu = f s.clu := rfl
@[simp] theorem modClu_upt : (modClu f s).upt = s.upt := rfl
@[simp] theorem modClu_ltc : (modClu f s).ltc = s.ltc := rfl
@[simp] theorem modClu_fsc : (modClu f s).fsc = s.fsc := rfl
@[simp] theorem modClu_xpl : (modClu f s).xpl = s.xpl := rfl
@[simp] theorem modClu_pcu : (modClu f s).pcu = s.pcu := rfl
@[simp] theorem modClu_gsqL : (modClu f s).gsqL = s.gsqL := rfl
@[simp] theorem modClu_gsqU : (modClu f s).gsqU = s.gsqU := rfl
@[simp] theorem modClu_hsc : (modClu f s).hsc = s.hsc := rfl
@[simp] theorem modClu_zar : (modClu f s).zar = s.zar := rfl
@[simp] theorem modClu_srt : (modClu f s).srt = s.srt := rfl
@[simp] theorem modClu_rcu : (modClu f s).rcu = s.rcu := rfl

end

/-! ### setLd -/

section
variable (k : SocketIx) (b : Bool) (s : State)

@[simp] theorem setLd_pending : (setLd k b s).pending = s.pending := rfl
@[simp] theorem setLd_free : (setLd k b s).free = s.free := rfl
@[simp] theorem setLd_now : (setLd k b s).now = s.now := rfl
@[simp] theorem setLd_pins : (setLd k b s).pins = { s.pins with ld := s.pins.ld.set k.val b } := rfl
@[simp] theorem setLd_clu : (setLd k b s).clu = s.clu := rfl
@[simp] theorem setLd_upt : (setLd k b s).upt = s.upt := rfl
@[simp] theorem setLd_ltc : (setLd k b s).ltc = s.ltc := rfl
@[simp] theorem setLd_fsc : (setLd k b s).fsc = s.fsc := rfl
@[simp] theorem setLd_xpl : (setLd k b s).xpl = s.xpl := rfl
@[simp] theorem setLd_pcu : (setLd k b s).pcu = s.pcu := rfl
@[simp] theorem setLd_gsqL : (setLd k b s).gsqL = s.gsqL := rfl
@[simp] theorem setLd_gsqU : (setLd k b s).gsqU = s.gsqU := rfl
@[simp] theorem setLd_hsc : (setLd k b s).hsc = s.hsc := rfl
@[simp] theorem setLd_zar : (setLd k b s).zar = s.zar := rfl
@[simp] theorem setLd_srt : (setLd k b s).srt = s.srt := rfl
@[simp] theorem setLd_rcu : (setLd k b s).rcu = s.rcu := rfl

end

/-! ### setSot -/

section
variable (k : HeadIx) (b : Bool) (s : State)

@[simp] theorem setSot_pending : (setSot k b s).pending = s.pending := rfl
@[simp] theorem setSot_free : (setSot k b s).free = s.free := rfl
@[simp] theorem setSot_now : (setSot k b s).now = s.now := rfl
@[simp] theorem setSot_pins : (setSot k b s).pins = { s.pins with sot := s.pins.sot.set k.val b } := rfl
@[simp] theorem setSot_clu : (setSot k b s).clu = s.clu := rfl
@[simp] theorem setSot_upt : (setSot k b s).upt = s.upt := rfl
@[simp] theorem setSot_ltc : (setSot k b s).ltc = s.ltc := rfl
@[simp] theorem setSot_fsc : (setSot k b s).fsc = s.fsc := rfl
@[simp] theorem setSot_xpl : (setSot k b s).xpl = s.xpl := rfl
@[simp] theorem setSot_pcu : (setSot k b s).pcu = s.pcu := rfl
@[simp] theorem setSot_gsqL : (setSot k b s).gsqL = s.gsqL := rfl
@[simp] theorem setSot_gsqU : (setSot k b s).gsqU = s.gsqU := rfl
@[simp] theorem setSot_hsc : (setSot k b s).hsc = s.hsc := rfl
@[simp] theorem setSot_zar : (setSot k b s).zar = s.zar := rfl
@[simp] theorem setSot_srt : (setSot k b s).srt = s.srt := rfl
@[simp] theorem setSot_rcu : (setSot k b s).rcu = s.rcu := rfl

end

/-! ### setAttn -/

section
variable (s : State)

@[simp] theorem setAttn_pending : (setAttn s).pending = s.pending := rfl
@[simp] theorem setAttn_free : (setAttn s).free = s.free := rfl
@[simp] theorem setAttn_now : (setAttn s).now = s.now := rfl
@[simp] theorem setAttn_pins : (setAttn s).pins = { s.pins with attn := s.clu.attention } := rfl
@[simp] theorem setAttn_clu : (setAttn s).clu = s.clu := rfl
@[simp] theorem setAttn_upt : (setAttn s).upt = s.upt := rfl
@[simp] theorem setAttn_ltc : (setAttn s).ltc = s.ltc := rfl
@[simp] theorem setAttn_fsc : (setAttn s).fsc = s.fsc := rfl
@[simp] theorem setAttn_xpl : (setAttn s).xpl = s.xpl := rfl
@[simp] theorem setAttn_pcu : (setAttn s).pcu = s.pcu := rfl
@[simp] theorem setAttn_gsqL : (setAttn s).gsqL = s.gsqL := rfl
@[simp] theorem setAttn_gsqU : (setAttn s).gsqU = s.gsqU := rfl
@[simp] theorem setAttn_hsc : (setAttn s).hsc = s.hsc := rfl
@[simp] theorem setAttn_zar : (setAttn s).zar = s.zar := rfl
@[simp] theorem setAttn_srt : (setAttn s).srt = s.srt := rfl
@[simp] theorem setAttn_rcu : (setAttn s).rcu = s.rcu := rfl

end

/-! ### raise -/

section
variable (f : Factor) (arg : List Byte) (s : State)

@[simp] theorem raise_pending : (raise f arg s).pending = s.pending := rfl
@[simp] theorem raise_free : (raise f arg s).free = s.free := rfl
@[simp] theorem raise_now : (raise f arg s).now = s.now := rfl
@[simp] theorem raise_pins : (raise f arg s).pins = { s.pins with attn := (s.clu.raise f s.now arg).attention } := rfl
@[simp] theorem raise_clu : (raise f arg s).clu = s.clu.raise f s.now arg := rfl
@[simp] theorem raise_upt : (raise f arg s).upt = s.upt := rfl
@[simp] theorem raise_ltc : (raise f arg s).ltc = s.ltc := rfl
@[simp] theorem raise_fsc : (raise f arg s).fsc = s.fsc := rfl
@[simp] theorem raise_xpl : (raise f arg s).xpl = s.xpl := rfl
@[simp] theorem raise_pcu : (raise f arg s).pcu = s.pcu := rfl
@[simp] theorem raise_gsqL : (raise f arg s).gsqL = s.gsqL := rfl
@[simp] theorem raise_gsqU : (raise f arg s).gsqU = s.gsqU := rfl
@[simp] theorem raise_hsc : (raise f arg s).hsc = s.hsc := rfl
@[simp] theorem raise_zar : (raise f arg s).zar = s.zar := rfl
@[simp] theorem raise_srt : (raise f arg s).srt = s.srt := rfl
@[simp] theorem raise_rcu : (raise f arg s).rcu = s.rcu := rfl

end

/-! ### Records after a change of one -/

variable (s : State)

@[simp] theorem gsq_modGsq (g : Gantry) (f : Gsq → Gsq) : gsq g (modGsq g f s) = f (gsq g s) := by cases g <;> rfl

theorem gsq_modGsq_other (g k : Gantry) (f : Gsq → Gsq) (h : k ≠ g) : gsq k (modGsq g f s) = gsq k s := by
  cases g <;> cases k <;> first | rfl | exact absurd rfl h

@[simp] theorem queue_modQueue (g : Gantry) (f : List Order → List Order) :
    queue g (modQueue g f s) = f (queue g s) := by cases g <;> rfl

@[simp] theorem queue_modGsq (g k : Gantry) (f : Gsq → Gsq) : queue g (modGsq k f s) = queue g s := by
  cases g <;> cases k <;> rfl

@[simp] theorem inStation_modIn (st : Side) (f : InStation → InStation) :
    inStation st (modIn st f s) = f (inStation st s) := by cases st <;> rfl

@[simp] theorem inStation_modIn_other (st : Side) (f : InStation → InStation) :
    inStation st.other (modIn st f s) = inStation st.other s := by cases st <;> rfl

@[simp] theorem outStation_modOut (st : OutStation) (f : OutRec → OutRec) :
    outStation st (modOut st f s) = f (outStation st s) := by simp [outStation, modOut]

@[simp] theorem modHead_same (k : HeadIx) (f : HeadRec → HeadRec) :
    (modHead k f s).hsc.heads[k] = f s.hsc.heads[k] := by simp

theorem modHead_other (k j : HeadIx) (f : HeadRec → HeadRec) (h : j ≠ k) :
    (modHead k f s).hsc.heads[j] = s.hsc.heads[j] := by
  have : k.val ≠ j.val := fun e => h (Fin.ext e.symm)
  simp [this]

@[simp] theorem modSocket_same (k : SocketIx) (f : SocketRec → SocketRec) :
    (modSocket k f s).hsc.sockets[k] = f s.hsc.sockets[k] := by simp

theorem modSocket_other (k j : SocketIx) (f : SocketRec → SocketRec) (h : j ≠ k) :
    (modSocket k f s).hsc.sockets[j] = s.hsc.sockets[j] := by
  have : k.val ≠ j.val := fun e => h (Fin.ext e.symm)
  simp [this]

@[simp] theorem modZone_same (k : HeadIx) (f : Zone → Zone) : (modZone k f s).zar[k] = f s.zar[k] := by simp

theorem modZone_other (k j : HeadIx) (f : Zone → Zone) (h : j ≠ k) : (modZone k f s).zar[j] = s.zar[j] := by
  have : k.val ≠ j.val := fun e => h (Fin.ext e.symm)
  simp [this]

/-- The end of a transfer changes a socket exactly where it is not TESTING (R128). -/
theorem moveSocket_eq (k : SocketIx) (f : SocketRec → SocketRec) :
    moveSocket k f s = modSocket k (fun r => if r.state = .testing then r else f r) s := by
  unfold moveSocket; split <;> rename_i h
  · simp only [modSocket, if_pos h]
    rw [show s.hsc.sockets.set k.val s.hsc.sockets[k] = s.hsc.sockets from Vector.set_getElem_self k.isLt]
  · simp only [modSocket, if_neg h]

/-- The load gantry's release acts as the first part of R138 on a zone that it holds, and not at all on another. -/
theorem releaseLoad_of_holder (z : HeadIx) (h : s.zar[z].holder = .load) : releaseLoad z s = releaseFirst z s := if_pos h

theorem releaseLoad_of_other (z : HeadIx) (h : s.zar[z].holder ≠ .load) : releaseLoad z s = s := if_neg h

@[simp] theorem modSoak_same (p : SoakIx) (f : SoakPos → SoakPos) :
    (modSoak p f s).upt.soak[p] = f s.upt.soak[p] := by simp

theorem modSoak_other (p q : SoakIx) (f : SoakPos → SoakPos) (h : q ≠ p) :
    (modSoak p f s).upt.soak[q] = s.upt.soak[q] := by
  have : p.val ≠ q.val := fun e => h (Fin.ext e.symm)
  simp [this]

/-- The record of a unit after a change of one that keeps its number. -/
theorem findUnit_modUnit (u v : UnitNo) (f : UnitRec → UnitRec) (hf : ∀ x, (f x).no = x.no) :
    findUnit v (modUnit u f s) = (findUnit v s).map (fun x => if v = u then f x else x) := by
  simp only [findUnit, modUnit, List.find?_map]
  have : ((fun r : UnitRec => decide (r.no = v)) ∘ fun r => if r.no = u then f r else r)
      = fun r : UnitRec => decide (r.no = v) := by
    funext r; simp only [Function.comp]; split <;> simp [hf]
  rw [this]
  cases e : List.find? (fun r : UnitRec => decide (r.no = v)) s.upt.units with
  | none => rfl
  | some x =>
    have hx : x.no = v := by simpa using List.find?_some e
    simp [hx]

end Sys2Proof.Machine
end

