-- ==== Sys2Proof/Tests/Slice0.lean ====
section
/-! SUPPORT. Tests: the checks of WellFormed on ill-formed terms, worked examples of the spec, and a witness for each
statement that has hypotheses. -/
namespace Sys2Proof.Tests

open Sys2Proof Sys2Proof.Machine

/-! ### WellFormed refuses -/

theorem test_wf_unknown_kind_known : (Instr.unknownKind 1 0x0C []).wf = false := by decide

set_option maxRecDepth 4000 in
theorem test_wf_unknown_kind_long : (Instr.unknownKind 1 0x07 (List.replicate 241 0)).wf = false := by decide

theorem test_wf_set_lot_empty : (Instr.setLot 1 []).wf = false := by decide

theorem test_wf_set_lot_long : (Instr.setLot 1 (List.replicate 48 { number := 1, value := 0 })).wf = false := by decide

theorem test_wf_set_bin_empty : (Instr.setBin 1 []).wf = false := by decide

theorem test_wf_set_bin_long :
    (Instr.setBin 1 (List.replicate 48 { bin := 0, category := 0, alternate := 0, condition := 0, flags := 0 })).wf
      = false := by decide

theorem test_wf_set_category_empty : (Instr.setCategory 1 []).wf = false := by decide

theorem test_wf_set_category_long :
    (Instr.setCategory 1 (List.replicate 120 { category := 0, destination := 0 })).wf = false := by decide

theorem test_wf_station_part : (Instr.setupStation 1 0 (.other 0 0 0)).wf = false := by decide

/-! ### Frames -/

set_option maxRecDepth 4000 in
/-- CRC-16 with polynomial 0x1021 and initial value 0xFFFF of the digits 1 to 9: the check value that names this CRC. -/
theorem test_crc : crc16 [0x31, 0x32, 0x33, 0x34, 0x35, 0x36, 0x37, 0x38, 0x39] = 0x29B1 := by decide

/-- Soak position 63 is kind 10, index 63, and the nest of input B kind 1, index 4095 (Table 1-1, R174). -/
theorem test_place_codes : (Place.soak 63).code = 0xA03F ∧ (Place.input .b .nest).code = 0x1FFF := by decide

/-! ### Worked examples of the spec -/

/-- Example 1-1, steps 1 and 3: with 6 positions FREE a fresh unit takes the lowest, with 4 FREE it takes none. -/
def plate (first : Nat) : State :=
  { State.reset with
    ltc := { Ltc.reset with state := .running }
    upt := { Upt.reset with
      soak := Vector.ofFn (fun p => if p.val < first then { SoakPos.free with state := .occupied } else .free) } }

theorem test_reserve_fresh : (reserveSoak .fresh 0 (plate 58)).map Prod.fst = some 58 := by decide

theorem test_reserve_none : (reserveSoak .fresh 0 (plate 60)).isNone = true := by decide

/-- Example 4-1, cases a to e. -/
theorem test_estimates : nextEstimate 1000 1100 = 1013 ∧ nextEstimate 1000 900 = 988 ∧ nextEstimate 5 0 = 5
    ∧ nextEstimate 598000 620000 = 600000 ∧ nextEstimate 800 850 = 807 := by decide

/-- The load axes and socket 6 of Example 5-3, the tray of Example 5-2, and the other axes like them. -/
def axis : AxisTeach := { k := 1638, lmax := 1965000, park := 0 }

def socket6 : SocketTeach :=
  { load := { x := 412500, y := 96000 }, unload := { x := 412500, y := 96000 }, tx := 15, ty := -8, window := 150,
    policy := .lenient }

def trayA : TrayTeach :=
  { rows := 12, columns := 16, grid := { originX := 150000, originY := 40000, columnPitch := 18500, rowPitch := 21000 } }

def camera : CameraTeach :=
  { scale := 12000, x := 500000, y := 300000, trimX := #v[0, 0, -4, 0], trimY := #v[0, 0, 3, 0] }

/-- A taught part: the four axes, the camera, the chute, the tray of input A and socket 6. -/
def taught : State :=
  { State.reset with
    pcu := { Pcu.reset with
      loadX := some axis, loadY := some axis, unloadX := some axis, unloadY := some axis, camera := some camera
      chute := some { x := 1000000, y := 1000000 }
      trays := (Vector.replicate 10 none).set 0 (some trayA) }
    hsc := { Hsc.reset with
      sockets := (Vector.replicate 16 SocketRec.reset).set 6 { SocketRec.reset with teach := some socket6 } } }

/-- Example 5-2: pocket 37. -/
theorem test_pocket_counts :
    orderCounts .load { plainOrder .pick with place := some (.input .a (.pocket 37)) } taught = (397215, 134316) := by
  decide

/-- Example 5-3: stage 1 and the counts. -/
theorem test_correction : (stage1 12000 (-37), stage1 12000 52) = (-27, 39)
    ∧ correct socket6 (-4) 3 (some (.um (-27) 39)) = .coordinates 38 (-44) false false
    ∧ correctedCounts 6 38 (-44) taught = (675738, 157176) := by decide

/-- Examples 5-4 and 5-5: outside the window under LENIENT and STRICT, and VOID with W = 8. -/
theorem test_correction_outside : correct socket6 (-4) 3 (some (.um 225 39)) = .coordinates (-150) (-44) true false
    ∧ correct { socket6 with policy := .strict } (-4) 3 (some (.um 225 39)) = .divert false
    ∧ correct { socket6 with window := 8 } (-4) 3 (some .void) = .coordinates 8 (-5) true true := by decide

/-! ### Witnesses: states and operands that meet the hypotheses of each statement, at the bounds of each clause -/

/-- RESET_N is low. -/
def low : State := { State.reset with pins := { Pins.reset with resetLow := true } }

/-- A reply is being sent. -/
def sending : State :=
  { State.reset with
    clu := { Clu.reset with replySlot := some { kind := 0x8C, tag := 1, payload := [0] }, tx := .reply } }

/-- The state after one millisecond. -/
def later : State := { State.reset with now := 1 }

/-- A run control unit with a change. -/
def withRcu (f : Rcu → Rcu) : State := { State.reset with rcu := f Rcu.reset }

/-- A held part under flag protection. -/
def held : State := withRcu (fun r => { r with causes := { HoldCauses.none with holdPoint := true } })

/-- A lot in a state. -/
def lotIn (st : LotState) : State := { State.reset with ltc := { Ltc.reset with state := st } }

/-- Socket 0 in a state. -/
def socketIn (st : SocketState) : State :=
  { State.reset with hsc := { Hsc.reset with
      sockets := Hsc.reset.sockets.set 0 { SocketRec.reset with state := st } } }

/-- Head 0 in TEST since time 0, its timer at its end. -/
def testing : State :=
  { State.reset with
    hsc := { Hsc.reset with
      heads := Hsc.reset.heads.set 0 { HeadRec.reset with state := .test, sot := some 0, test := .running 0 } }
    pins := { Pins.reset with sot := Pins.reset.sot.set 0 true }
    zar := State.reset.zar.set 0 { holder := .head, head := false, unload := false, load := false } }

/-- Unit 1, READY on soak position 0 of lot 1. -/
def unit1 : UnitRec :=
  { no := 1, lot := 1, origin := { st := .a, slot := .pocket 0 }, state := .ready, place := some (.soak 0),
    lastPlace := none, created := 0, soakStart := some 0, soakTarget := 0, offset := none, clamped := false,
    voided := false, realigns := 0, attempts := [], excluded := 0, route := some (.final 0 false), target := none,
    readySeq := 0 }

/-- Unit 1 in a state with a route, with a log entry reserved. -/
def withUnit (st : UnitState) (route : Option Route) : State :=
  { State.reset with
    upt := { Upt.reset with units := [{ unit1 with state := st, route := route }], nextUnit := 2 }
    srt := { Srt.reset with reservations := [1] } }

/-- The load gantry with a PICK of nozzle 1 in a status, in a gantry state, with issue tag 7. -/
def gantryWith (st : GantryState) (o : OrderStatus) : State :=
  { State.reset with
    gsqL := { Gsq.reset with state := st, tag := 7, timer := some 0 }
    xpl := { Xpl.reset with loadQueue := [{ plainOrder .pick with place := some (.soak 0), nozzle := 1, status := o }] } }

/-- Zone 0 with a holder and its standing requests. -/
def zoneWith (h : Holder) (head unload load : Bool) : State :=
  { State.reset with
    zar := State.reset.zar.set 0 { holder := h, head := head, unload := unload, load := load } }

theorem reset_takesNow : takesNow State.reset := ⟨rfl, rfl, rfl⟩

theorem witness_StepRunsTheFrontCommand :
    ({ State.reset with pending := [.doorActive, .replySent] } : State).pending = [.doorActive, .replySent] := rfl

theorem witness_EmptyQueueLetsAMillisecondPass :
    (low.pending = [] ∧ low.pins.resetLow = true)
    ∧ (State.reset.pending = [] ∧ State.reset.pins.resetLow = false ∧ dueEvents State.reset = [])
    ∧ (testing.pending = [] ∧ testing.pins.resetLow = false ∧ dueEvents testing ≠ []) := by decide

theorem witness_CommandsLeaveTheQueueAlone : ∃ t, exec .noticeSent State.reset = .next t := ⟨_, rfl⟩

set_option maxRecDepth 4000 in
theorem witness_RequestPayloadsAreReadBack :
    (Request.setLot [{ number := 1, value := 0 }]).wf = true
    ∧ (Request.setLot (List.replicate 47 { number := 1, value := 0 })).wf = true
    ∧ (Request.setCategory (List.replicate 119 { category := 0, destination := 0 })).wf = true
    ∧ (Request.setupStation 0 (.other 1 0 0)).wf = true ∧ (Request.setupStation 0 (.tray 1 1 ⟨0, 0, 0, 0⟩)).wf = true := by
  decide

set_option maxRecDepth 4000 in
theorem witness_ReceiverFollowsTheFrameRule :
    240 < ((0x00 : Byte) ++ (0xF1 : Byte)).toNat ∧ (List.replicate 240 (0 : Byte)).length ≤ 240
    ∧ (0 : Half) ≠ crc16 (Frame.body { kind := 0x0C, tag := 1, payload := [] })
    ∧ 6 < (Frame.bytes { kind := 0x0C, tag := 1, payload := [] }).length ∧ [(0xA5 : Byte)] ≠ []
    ∧ ([(0xA5 : Byte)] ≠ [] ∧ 10 < ((11 : Time) - 0).toNat) := by decide

theorem witness_FrameOfARequestActsAsItsRow :
    (Request.wf .lotStart = true ∧ State.reset.pins.resetLow = false ∧ State.reset.clu.rx.buf = []
      ∧ State.reset.clu.rxQueue = [] ∧ State.reset.clu.replySlot = none)
    ∧ (sending.pins.resetLow = false ∧ sending.clu.rx.buf = [] ∧ sending.clu.replySlot.isSome) := by decide

theorem witness_BusyReplySlotQueuesFrames : sending.pins.resetLow = false ∧ sending.clu.replySlot ≠ none := by decide

theorem witness_UnknownKindsAndLengthsAreRefused : takesNow State.reset ∧ judge 0x07 [] = .unknownKind
    ∧ State.reset.clu.rx.buf = [] ∧ judge 0x0C [0] = .badLength ∧ [(0 : Byte)].length ≤ 240 :=
  ⟨reset_takesNow, by decide, rfl, by decide, by decide⟩

/-- A notice is being sent while a frame waits. -/
def noticing : State :=
  { State.reset with clu := { Clu.reset with tx := .notice, notices := [noticeFrame .estop 0 [1]] } }

theorem witness_EndOfSendingFreesTheLine :
    (sending.pins.resetLow = false ∧ sending.clu.tx = .reply ∧ sending.clu.resetRequested = false
      ∧ sending.clu.rxQueue = [])
    ∧ judge 0x0C [] = .request .lotStart
    ∧ (noticing.pins.resetLow = false ∧ noticing.clu.tx = .notice ∧ noticing.clu.replySlot = none
      ∧ noticing.clu.notices ≠ [])
    ∧ (State.reset.clu.tx = .idle ∧ sending.clu.replySlot.isSome) := by decide

theorem witness_StepKeepsTheCellLink : LinkInv later ∧ ∃ t, step later = .next t :=
  ⟨⟨by decide, by decide, by decide, by decide, by decide, by decide, by decide, by decide, by decide, by decide⟩,
    _, rfl⟩

theorem witness_NothingIsTakenWhileResetIsLow : low.pins.resetLow = true ∧ lineEvent (.lotStart 1) = false := by decide

theorem witness_EndOfResetGivesResetValues : low.pins.resetLow = true ∧ State.reset.pins.resetLow = false := ⟨rfl, rfl⟩

theorem witness_ResetTakesEffectAfterItsReply : takesNow State.reset
    ∧ ({ sending with clu := { sending.clu with resetRequested := true } } : State).clu.tx = .reply :=
  ⟨reset_takesNow, rfl⟩

theorem witness_NoticeRequestsFollowTheirRule : takesNow State.reset ∧ takesNow held
    ∧ (0x03FFFFFF : Word).toNat < 2 ^ 26 ∧ 2 ^ 26 ≤ (0x04000000 : Word).toNat
    ∧ (held.rcu.causes.holdPoint = true ∧ held.rcu.clearInHold = false)
    ∧ State.reset.rcu.causes.holdPoint = false :=
  ⟨reset_takesNow, ⟨rfl, rfl, rfl⟩, by decide, by decide, by decide, rfl⟩

theorem witness_ReadingRequestsChangeNothing : takesNow State.reset := reset_takesNow

/-- Factor 25, the last, is of group 6. -/
theorem witness_StatusReplyHasItsLayout : takesNow State.reset ∧ State.reset.srt.log.length ≤ 64
    ∧ groupFirst 6 ≤ (25 : Fin 26).val ∧ (25 : Fin 26).val < groupFirst 7 :=
  ⟨reset_takesNow, by decide, by decide, by decide⟩

theorem witness_ReadsThatConsumeFollowProtection : takesNow State.reset ∧ takesNow held
    ∧ 4 ≤ (4 : Byte).toNat ∧ (0 : Byte).toNat < 1 ∧ 4 < (5 : Byte).toNat
    ∧ (1 ≤ (1 : Byte).toNat ∧ (4 : Byte).toNat ≤ 4) ∧ held.rcu.causes.holdPoint = true
    ∧ held.rcu.clearInHold = false ∧ State.reset.rcu.causes.holdPoint = false :=
  ⟨reset_takesNow, ⟨rfl, rfl, rfl⟩, by decide⟩

theorem witness_TeachRequestsNeedLotIdle : takesNow (lotIn .running) ∧ Request.wf (.setupChute 0 0) = true
    ∧ (Request.kind (.setupChute 0 0)).toNat < 7 ∧ (lotIn .running).ltc.state ≠ .idle :=
  ⟨⟨rfl, rfl, rfl⟩, by decide⟩

/-- Load y with the limit of Example 5-2 takes every position taught on it; with limit 1 the camera fails first; scale
20,001 is out of range. -/
theorem witness_SetupAxisChecksEveryTaughtPosition : takesNow taught ∧ taught.ltc.state = .idle
    ∧ axisOf 1 = some (.load, .y)
    ∧ (axis.inReach axis.park = true ∧ (∀ c ∈ taughtOn .load taught, axis.inReach (c.2.coord .y) = true))
    ∧ (∀ c ∈ (noPlace, 0) :: (taughtOn .load taught).map (fun c => (c.1, c.2.coord .y)),
        ({ axis with lmax := 1 } : AxisTeach).inReach c.2 = false → (0x0000 : Half).toNat ≤ c.1.toNat)
    ∧ 20000 < (20001 : Half).toNat ∧ 4 ≤ (4 : Byte).toNat := by
  exact ⟨⟨rfl, rfl, rfl⟩, rfl, by decide, by decide, by decide, by decide, by decide⟩

/-- Each step of R77 in turn: a value beyond its range, axes untaught, a position out of reach, and the bounds in reach. -/
theorem witness_SetupCameraSoakAndChuteStoreTheirItem : takesNow taught ∧ takesNow State.reset
    ∧ taught.ltc.state = .idle ∧ State.reset.ltc.state = .idle
    ∧ 2000 < (BitVec.ofInt 16 (-2001)).toInt.natAbs ∧ ¬GridArgInRange ⟨0, 0, 100001, 0⟩
    ∧ State.reset.pcu.loadX = none ∧ axesTaught State.reset = false
    ∧ pointReach .load { x := 0, y := 1199634 } taught = false ∧ pointReach .load { x := 0, y := 1199633 } taught = true
    ∧ pointReach .unload ((gridOf ⟨0, 0, 100000, 100000⟩).cell 7 7) taught = true
    ∧ pointReach .unload { x := 1199633, y := 0 } taught = true :=
  ⟨⟨rfl, rfl, rfl⟩, ⟨rfl, rfl, rfl⟩, by decide⟩

theorem witness_SetupStationAndSocketStoreTheirItem : takesNow taught ∧ takesNow State.reset
    ∧ taught.ltc.state = .idle ∧ 10 ≤ (10 : Byte).toNat ∧ 16 ≤ (16 : Byte).toNat ∧ 2 ≤ (2 : Byte).toNat ∧ (1 : Byte) ≠ 0
    ∧ frameTaught (stationGantry 9) State.reset = false
    ∧ pointReach (stationGantry 9) ((gridOf ⟨0, 0, 1000, 1000⟩).cell 23 15) taught = true
    ∧ pointReach (stationGantry 9) ((gridOf ⟨0, 0, 100000, 100000⟩).cell 23 15) taught = false
    ∧ axesTaught taught = true ∧ pointReach .load { x := 414500, y := 98000 } taught = true
    ∧ pointReach .unload { x := 412500, y := 96000 } taught = true ∧ (1999 : Nat) < 2000 :=
  ⟨⟨rfl, rfl, rfl⟩, ⟨rfl, rfl, rfl⟩, by decide⟩

/-- The load PLACE of unit 1 into socket 6. -/
def placeIn6 : Order :=
  { plainOrder .place with unit := .unit 1, place := some (.socket 6), reservation := .socket 6 }

/-- The load gantry holds zone 1 with the PLACE of unit 1 into the STRICT socket 6 as its head order; the unit has no offset
and a realign count, and the soak positions from `first` on are FREE. -/
def diverting (realigns first : Nat) : State :=
  { taught with
    upt := { Upt.reset with
      units := [{ unit1 with realigns := realigns }]
      soak := Vector.ofFn (fun p => if p.val < first then { SoakPos.free with state := .blocked } else .free) }
    hsc := { taught.hsc with
      sockets := taught.hsc.sockets.set 6
        { SocketRec.reset with state := .reserved, teach := some { socket6 with policy := .strict } } }
    xpl := { Xpl.reset with loadQueue := [placeIn6] }
    zar := State.reset.zar.set 1 { holder := .load, head := false, unload := false, load := false } }

theorem witness_divert : placeIn6.placeSocket = some 6 ∧ correction 1 6 0 (diverting 0 63) = .divert true
    ∧ findUnit 1 (diverting 2 63) = some { unit1 with realigns := 2 }
    ∧ (diverting 2 63).hsc.sockets[(6 : SocketIx)].state = .reserved
    ∧ (diverting 2 63).zar[(headOf 6 : HeadIx)].holder = .load
    ∧ (diverting 2 63).upt.soak[(63 : SoakIx)].state = .free
    ∧ (∀ q : SoakIx, q < 63 → (diverting 2 63).upt.soak[q].state ≠ .free)
    ∧ (∀ q : SoakIx, (diverting 2 64).upt.soak[q].state ≠ .free) := by decide +kernel

theorem witness_CorrectionsKeepTheCaptureWindow :
    correct socket6 (-4) 3 (some (.um (-139) (-155))) = .coordinates 150 150 false false
    ∧ (socket6.tx + -4 - -139).natAbs ≤ socket6.window ∧ socket6.window < (socket6.tx + -4 - -140).natAbs
    ∧ socket6.policy = .lenient := by decide

theorem taught_TeachInv : TeachInv taught where
  axes := by
    intro g a t h
    cases g <;> cases a <;> cases h <;> (unfold AxisTeach.legal; decide)
  camera := by rintro c ⟨⟩; decide
  trays := by decide
  sockets := by
    intro k t h
    have : ∀ k : SocketIx, taught.hsc.sockets[k].teach = none ∨ taught.hsc.sockets[k].teach = some socket6 := by decide
    rcases this k with e | e <;> rw [e] at h <;> cases h
    unfold SocketTeach.legal; decide
  reach := by intro g; cases g <;> decide

theorem witness_PlainPlacesConvertWithinLimits : TeachInv taught
    ∧ taughtPosition .load { plainOrder .pick with place := some (.input .a (.pocket 191)) } taught
        = some { x := 427500, y := 271000 }
    ∧ 191 < trayA.pockets ∧ taught.pcu.axis .load .x = some axis :=
  ⟨taught_TeachInv, by decide⟩

/-- Unit 1 on load nozzle 2 with the offset of Example 5-3. -/
def aligned : State :=
  { taught with upt := { Upt.reset with units := [{ unit1 with offset := some (.um (-27) 39) }] } }

theorem witness_CorrectedPlacementsConvertWithinLimits :
    aligned.pcu.loadX = some axis ∧ correction 1 6 2 aligned = .coordinates 38 (-44) false false := by decide

theorem witness_StepKeepsEverythingTaughtInReach : TeachInv taught ∧ ∃ t, step taught = .next t :=
  ⟨taught_TeachInv, _, rfl⟩

theorem witness_PlaceCodesNameTheirPlace : Place.ofCode 0xA03F = some (.soak 63) ∧ (0xF000 : Half).toNat / 4096 = 15 := by
  decide

theorem witness_LotOpenPreparesTheLot : takesNow State.reset := reset_takesNow

theorem witness_LotTablesAreStoredWholeOrNotAtAll : takesNow (lotIn .opened) ∧ (lotIn .opened).ltc.state = .opened
    ∧ paramOk { number := 6, value := 3 } = true ∧ paramOk { number := 6, value := 4 } = false
    ∧ (binOf { bin := 33, category := 7, alternate := 7, condition := 2, flags := 7 }).isSome
    ∧ binOf { bin := 34, category := 7, alternate := 7, condition := 2, flags := 7 } = none
    ∧ (categoryOf { category := 7, destination := 5 }).isSome
    ∧ categoryOf { category := 7, destination := 6 } = none :=
  ⟨⟨rfl, rfl, rfl⟩, by decide⟩

/-- A lot in OPEN with socket 0 EMPTY, every bin in category 0, and every category at the chute. -/
def startable : State :=
  { socketIn .empty with
    ltc := { Ltc.reset with state := .opened }
    srt := { Srt.reset with
      binMap := Vector.replicate 34 (some
        { category := 0, alternate := 0, condition := .none, retest := false, fail := false, pass := true })
      categories := Vector.replicate 8 .chute } }

/-- The lot of `startable` with a change of its sort unit and lot controller. -/
def startableWith (f : Srt → Srt) (g : LotParams → LotParams) : State :=
  { startable with srt := f startable.srt, ltc := { startable.ltc with params := g startable.ltc.params } }

theorem startable_mapped (b : BinCode) : ∃ e, startable.srt.binMap[b] = some e
    ∧ startable.srt.categories[e.category] ≠ .unmapped
    ∧ (e.condition ≠ .none → startable.srt.categories[e.alternate] ≠ .unmapped) :=
  ⟨_, Vector.getElem_replicate .., by decide⟩

theorem witness_LotStartTakesACheckedLot : takesNow startable ∧ startable.ltc.state = .opened
    ∧ (∃ k : SocketIx, startable.hsc.sockets[k].active = true)
    ∧ (∀ b : BinCode, ∃ e, startable.srt.binMap[b] = some e ∧ startable.srt.categories[e.category] ≠ .unmapped
        ∧ (e.condition ≠ .none → startable.srt.categories[e.alternate] ≠ .unmapped))
    ∧ startable.srt.categories[startable.ltc.params.purgeCategory] ≠ .unmapped
    ∧ startable.ltc.params.nominalTestTime ≤ startable.ltc.params.testTimeout
    ∧ (∀ k : SocketIx, (lotIn .opened).hsc.sockets[k].active = false)
    ∧ (lotIn .running).ltc.state ≠ .opened
    ∧ (∀ b : BinCode, startable.srt.binMap[b] ≠ none)
    ∧ (startableWith (fun t => { t with categories := t.categories.set 7 .unmapped }) id).srt.categories[(7 : Category)]
        = .unmapped
    ∧ (startableWith id (fun q => { q with testTimeout := 999 })).ltc.params.testTimeout < 1000
    ∧ 64 < (startableWith id (fun q => { q with retestReserve := 65 })).ltc.params.retestReserve := by
  refine ⟨⟨rfl, rfl, rfl⟩, rfl, by decide, startable_mapped, by decide, by decide, by decide,
    by decide, fun b => ?_, by decide, by decide, by decide⟩
  obtain ⟨e, he, -⟩ := startable_mapped b
  exact fun h => nomatch h.symm.trans he

theorem witness_LotPurgeAndLotCloseEndALot : takesNow (lotIn .running) ∧ takesNow (lotIn .drained)
    ∧ ((gantryWith .idle .queued).xpl.loadQueue.map Order.id).Nodup ∧ machineEmpty (purgeLot (lotIn .running)) = true :=
  ⟨⟨rfl, rfl, rfl⟩, ⟨rfl, rfl, rfl⟩, by decide, by decide +kernel⟩

theorem witness_PurgeRoutesEveryUnit : ((withUnit .ready none).upt.units.map UnitRec.no).Nodup
    ∧ (∃ r ∈ (withUnit .ready none).upt.units, r.state ≠ .testing ∧ r.state ≠ .lost ∧ r.route = none)
    ∧ (∃ r ∈ (withUnit .testing none).upt.units, r.state = .testing) := by decide

theorem witness_TimeToEndCountsFromSot : testing.hsc.heads[(0 : HeadIx)].state = .test
    ∧ testing.hsc.heads[(0 : HeadIx)].sot = some 0 ∧ State.reset.hsc.heads[(0 : HeadIx)].state ≠ .test := by decide

/-- Example 4-1, case a, and an estimate at each clamp. -/
theorem witness_EstimateMovesByAnEighth : State.reset.xpl.estimates[(0 : HeadIx)] = 1000
    ∧ (0 : Int) + 0 < 1 ∧ (600000 : Int) < 598000 + 2750 := by decide

theorem witness_StepKeepsParametersAndEstimates : EstimateInv later ∧ ∃ t, step later = .next t :=
  ⟨⟨by unfold LotParams.legal; decide, by decide⟩, _, rfl⟩

theorem witness_ArmingFillsTheStation : takesNow (lotIn .running) ∧ 2 ≤ (2 : Byte).toNat ∧ (1 : Byte).toNat < 2
    ∧ 10 ≤ (10 : Byte).toNat ∧ activeOut 0 State.reset = none :=
  ⟨⟨rfl, rfl, rfl⟩, by decide⟩

/-- Station B of pair 3 ACTIVE with its next pocket 383 and so many pockets remaining; station A in a state; so many log
entries reserved. -/
def outWith (remaining : Nat) (other : StationState) (reserved : Nat) : State :=
  { State.reset with
    srt := { Srt.reset with
      stations := (Srt.reset.stations.set 7 { OutRec.reset with state := .active, next := 383, remaining := remaining }).set 6
        { OutRec.reset with state := other }
      reservations := List.replicate reserved 2 } }

theorem witness_pockets : (∀ st : OutStation, st.pair = 0 → (outStation st State.reset).state ≠ .active)
    ∧ (outStation { pair := 3, side := .b } (outWith 2 .standby 63)).state = .active
    ∧ (outStation { pair := 3, side := Side.b.other } (outWith 2 .standby 63)).state = .standby
    ∧ (outStation { pair := 3, side := .b } (outWith 1 .empty 63)).remaining = 1
    ∧ (outStation { pair := 3, side := .b } (outWith 1 .empty 63)).next = (383 : Pocket).val
    ∧ (outWith 1 .empty 63).srt.log.length + (outWith 1 .empty 63).srt.reservations.length < 64
    ∧ (∀ r ∈ (outWith 1 .empty 63).srt.log, r.no ≠ 1) ∧ (1 : UnitNo) ∉ (outWith 1 .empty 63).srt.reservations
    ∧ ¬((outWith 1 .empty 64).srt.log.length + (outWith 1 .empty 64).srt.reservations.length < 64) := by
  refine ⟨?_, by decide +kernel⟩
  rintro ⟨p, sd⟩ rfl
  cases sd <;> decide +kernel

/-- Station A ACTIVE in mode OPEN with so many picks pending. -/
def nestWith (pending : Nat) : State :=
  { State.reset with fsc := { Fsc.reset with
      stationA := { InStation.reset with state := .active, mode := some .opened, pending := pending }
      current := some .a } }

/-- Station A ACTIVE in mode COUNTED with its next pocket 383, so many pockets remaining and a more flag; station B in a
state, the lot tray counter counted at 1 or free-run. -/
def countedWith (remaining : Nat) (more counted : Bool) (other : StationState) : State :=
  { State.reset with
    ltc := { Ltc.reset with state := .running, params := { LotParams.defaults with soakTime := 1000 } }
    fsc := { Fsc.reset with
      stationA := { InStation.reset with
        state := .active, mode := some .counted, next := 383, remaining := remaining, more := more }
      stationB := { InStation.reset with state := other }
      current := some .a, counted := counted, trayCounter := 1 } }

theorem witness_InputPicksTakeTheNextPlace :
    (∀ st : Side, State.reset.fsc.current = some st → (inStation st State.reset).state ≠ .active)
    ∧ ((nestWith 0).fsc.current = some .a ∧ (inStation .a (nestWith 0)).state = .active
      ∧ (inStation .a (nestWith 0)).mode = some .opened ∧ (inStation .a (nestWith 0)).pending = 0
      ∧ (inStation .a (nestWith 1)).pending ≠ 0)
    ∧ ((countedWith 2 true true .standby).fsc.current = some .a
      ∧ (inStation .a (countedWith 2 true true .standby)).state = .active
      ∧ (inStation .a (countedWith 2 true true .standby)).mode = some .counted
      ∧ (inStation .a (countedWith 2 true true .standby)).next = (383 : Pocket).val
      ∧ 1 < (inStation .a (countedWith 2 true true .standby)).remaining)
    ∧ ((inStation .a (countedWith 1 false true .standby)).remaining = 1
      ∧ (inStation .a (countedWith 1 false true .standby)).more = false
      ∧ (inStation .a (countedWith 1 true true .standby)).more = true
      ∧ (countedWith 1 true true .standby).fsc.trayCounter.toNat ≤ 1
      ∧ (countedWith 1 true false .standby).fsc.counted = false
      ∧ (inStation Side.a.other (countedWith 1 true false .standby)).state = .standby
      ∧ (inStation Side.a.other (countedWith 1 true false .empty)).state ≠ .standby) := by
  refine ⟨fun st h => ?_, by decide⟩
  cases h

theorem witness_SocketRequestsActByTheSocketsState : takesNow (socketIn .jammed) ∧ 16 ≤ (16 : Byte).toNat
    ∧ (socketIn .jammed).hsc.sockets[(0 : SocketIx)].state = .jammed
    ∧ (socketIn .empty).hsc.sockets[(0 : SocketIx)].state = .empty
    ∧ (socketIn .reserved).hsc.sockets[(0 : SocketIx)].state = .reserved
    ∧ (socketIn .loaded).hsc.sockets[(0 : SocketIx)].state = .loaded :=
  ⟨⟨rfl, rfl, rfl⟩, by decide⟩

theorem witness_SoakClearAndUnitClearFollowTheirRules : takesNow (withUnit .lost none) ∧ 64 ≤ (64 : Byte).toNat
    ∧ (2 : Word) ≠ 0 ∧ (∀ r ∈ (withUnit .lost none).upt.units, r.no ≠ 2)
    ∧ findUnit 1 (withUnit .lost none) = some { unit1 with state := .lost, route := none } :=
  ⟨⟨rfl, rfl, rfl⟩, by decide⟩

theorem witness_SoakRequestsKeepTheRetestReserve :
    ∃ p t, reserveSoak .fresh 1 State.reset = some (p, t) := ⟨_, _, rfl⟩

theorem witness_SoakArrivalSetsTheRecord :
    findUnit 1 (withUnit .onLoad none) = some { unit1 with state := .onLoad, route := none } := by decide

theorem witness_LossKeepsTheRecord :
    findUnit 1 (withUnit .ready none) = some { unit1 with route := none } ∧ unit1.state ≠ .lost := by decide

theorem witness_RetirementMovesTheRecordToTheLog :
    findUnit 1 (withUnit .onUnload (some (.final 0 false))) = some { unit1 with state := .onUnload }
    ∧ (1 : UnitNo) ∈ (withUnit .onUnload (some (.final 0 false))).srt.reservations := by decide

theorem witness_StepKeepsTheLogAndTheQueues : LogInv later ∧ QueueInv later ∧ ∃ t, step later = .next t :=
  ⟨⟨by decide, by decide⟩, by unfold QueueInv; decide, _, rfl⟩

theorem witness_HoldStopsWithoutCancelling : takesNow State.reset ∧ State.reset.pins.resetLow = false
    ∧ State.reset.pins.door = false ∧ ∃ t, t = enterHold .none [] State.reset :=
  ⟨reset_takesNow, rfl, rfl, _, rfl⟩

/-- Hold point 3 names unit 1, and the load gantry has a pass grant. -/
def stopping (grant : Option Nat) : State :=
  { diverting 0 63 with
    rcu := { Rcu.reset with
      run := .run, grantLoad := grant, holdPoints := Rcu.reset.holdPoints.set 3 { what := .unit 1, enabled := true } } }

theorem witness_hold_point : passGrant .load (stopping (some 0)) = some placeIn6.id
    ∧ passGrant .load (stopping (some 1)) ≠ some placeIn6.id
    ∧ ((stopping none).rcu.holdPoints[(3 : Fin 4)].enabled = true ∧ placeIn6.kind = .place
      ∧ (stopping none).rcu.holdPoints[(3 : Fin 4)].what = .unit 1 ∧ placeIn6.unit = .unit 1)
    ∧ (∀ j : Fin 4, j < 3 → (stopping none).rcu.holdPoints[j].enabled = false)
    ∧ placeIn6.place = some (.socket 6) ∧ canAttempt .load (stopping none) = true
    ∧ headOrder .load (stopping none) = some placeIn6 ∧ (stopping none).rcu.run = .run := by decide +kernel

theorem witness_ResumeStartsTheSettleTimer : takesNow (lotIn .running) ∧ (lotIn .running).rcu.run = .hold :=
  ⟨⟨rfl, rfl, rfl⟩, rfl⟩

/-- Unit 1 READY in the ready list of a RUNNING lot, in RUN, with socket 6 EMPTY and its head in FILL. -/
def plannable : State :=
  { withUnit .ready none with
    ltc := { Ltc.reset with state := .running }
    rcu := { Rcu.reset with run := .run }
    xpl := { Xpl.reset with readyList := [1] }
    hsc := { Hsc.reset with
      sockets := Hsc.reset.sockets.set 6 { SocketRec.reset with state := .empty }
      heads := Hsc.reset.heads.set 1 { HeadRec.reset with state := .fill } } }

theorem witness_PlansAreMadeInRunWithTheseFirstLegs : ((gantryWith .idle .queued).rcu.run ≠ .run
      ∧ canAttempt .load (gantryWith .idle .queued) = true)
    ∧ (queue .load plannable = [] ∧ (gsq .load plannable).state ≠ .fault ∧ plannable.rcu.run = .run
      ∧ plannable.ltc.state = .running ∧ parked .load plannable = false)
    ∧ (plannable.xpl.readyList = [1] ∧ findUnit 1 plannable = some { unit1 with route := none }
      ∧ (∀ n : NozzleIx, plannable.upt.loadNozzles[n] = 0) ∧ findUnit 0 plannable = none
      ∧ chooseSocket 0 plannable = some 6)
    ∧ ((∀ n : NozzleIx, (countedWith 1 true false .empty).upt.loadNozzles[n] = 0)
      ∧ findUnit 0 (countedWith 1 true false .empty) = none ∧ queue .load (countedWith 1 true false .empty) = []
      ∧ 0 < tableRoom (countedWith 1 true false .empty) ∧ 0 < (countedWith 1 true false .empty).ltc.params.soakTime
      ∧ (reserveSoak .fresh 0 (countedWith 1 true false .empty)).map Prod.fst = some 0) := by decide +kernel

/-- Unit 1 at a spot in a state with a final route, in RUN of a RUNNING lot, with socket 6 EMPTY in a head in FILL and each
category at the chute. -/
def spotted (st : UnitState) (route : Option Route) (sp : Spot) : State :=
  let s := setAt sp 1 plannable
  { s with
    upt := { s.upt with units := [{ unit1 with state := st, place := some sp, route := route }] }
    xpl := Xpl.reset
    srt := { Srt.reset with categories := Vector.replicate 8 .chute } }

theorem witness_nozzle_trips : (∀ m : NozzleIx, m < 3 →
      nozzleLeg m (spotted .staged none (.loadNozzle 3)) = (none, spotted .staged none (.loadNozzle 3)))
    ∧ (nozzleLeg 3 (spotted .staged none (.loadNozzle 3))).1.isSome
    ∧ chooseSocket 0 (spotted .staged none (.loadNozzle 3)) = some 6
    ∧ findUnit (nozzleUnit .load 3 (spotted .staged none (.loadNozzle 3))) (spotted .staged none (.loadNozzle 3))
      = some { unit1 with state := .staged, place := some (.loadNozzle 3), route := none }
    ∧ (reserveSoak .giveBack 1 (spotted .returnWait none (.loadNozzle 3))).isSome
    ∧ (∀ m : NozzleIx, m < 3 → unloadNozzleLeg m (spotted .onUnload (some (.final 0 false)) (.unloadNozzle 3))
      = (none, spotted .onUnload (some (.final 0 false)) (.unloadNozzle 3)))
    ∧ (unloadNozzleLeg 3 (spotted .onUnload (some (.final 0 false)) (.unloadNozzle 3))).1.isSome := by decide +kernel

theorem witness_pickup_trip : (∀ n : NozzleIx, (spotted .ready (some (.final 0 false)) (.soak 63)).upt.unloadNozzles[n] = 0)
    ∧ findUnit 0 (spotted .ready (some (.final 0 false)) (.soak 63)) = none
    ∧ queue .unload (spotted .ready (some (.final 0 false)) (.soak 63)) = []
    ∧ doneUnits (spotted .ready (some (.final 0 false)) (.soak 63))
      ++ plateUnits (spotted .ready (some (.final 0 false)) (.soak 63)) = [1]
    ∧ findUnit 1 (spotted .ready (some (.final 0 false)) (.soak 63)) = some { unit1 with place := some (.soak 63) }
    ∧ (unloadLeg 0 { unit1 with place := some (.soak 63) } (some (.soak 63))
      (spotted .ready (some (.final 0 false)) (.soak 63))).isSome
    ∧ (reserveLog 1 (spotted .ready (some (.final 0 false)) (.soak 63))).isSome := by decide +kernel

theorem witness_no_trip : nozzleLegs nozzleLeg allNozzles State.reset = ([], State.reset) ∧ lotTesting State.reset = false
    ∧ inputTrip State.reset = none ∧ (stagingTrip State.reset).1 = false
    ∧ nozzleLegs unloadNozzleLeg allNozzles State.reset = ([], State.reset)
    ∧ pickupLegs (doneUnits State.reset ++ plateUnits State.reset) (freeNozzles .unload State.reset) State.reset
      = ([], State.reset) := by decide +kernel

theorem witness_EstopVoidsEveryTest : testing.pins.resetLow = false ∧ testing.pins.estop = false
    ∧ testing.rcu.run ≠ .estop ∧ testing.hsc.heads[(0 : HeadIx)].state = .test
    ∧ testing.hsc.heads[(1 : HeadIx)].state ≠ .test
    ∧ (withRcu (fun r => { r with run := .estop })).rcu.run = .estop
    ∧ (gsq .load (gantryWith .zoneWait .queued)).state = .zoneWait
    ∧ (gsq .load (gantryWith .inFlight .issued)).state = .inFlight
    ∧ (inFlight .load (gantryWith .inFlight .issued)).isSome
    ∧ (gsq .unload (gantryWith .inFlight .issued)).state = .idle := by decide

theorem witness_RecoverLeavesEstopForHold : takesNow (gantryWith .held .uncertain)
    ∧ (((1 : Byte).getLsbD 0 = true ∧ 16 ≤ (16 : Byte).toNat) ∧ 4 ≤ (4 : Byte).toNat)
    ∧ ¬((3 : Byte) = 0 ∨ 4 ≤ (3 : Byte).toNat ∨ ((3 : Byte).getLsbD 0 = true ∧ 16 ≤ (15 : Byte).toNat)
      ∨ ((3 : Byte).getLsbD 1 = true ∧ 16 ≤ (15 : Byte).toNat))
    ∧ (∀ o ∈ (queue .load (gantryWith .held .uncertain)).drop 1, o.status = .queued)
    ∧ (∀ o ∈ (gantryWith .held .uncertain).xpl.unloadQueue, o.kind ≠ .inspect)
    ∧ (∀ z : HeadIx, (zoneWith .load true true false).zar[z].load = false) :=
  ⟨⟨rfl, rfl, rfl⟩, by decide⟩

/-- Head 1 in START_WAIT in RUN without a credit, socket 6 LOADED with unit 1, its zone with a holder, in a run mode. -/
def waiting (holder : Holder) (mode : RunMode) : State :=
  { withUnit .loaded none with
    rcu := { Rcu.reset with run := .run, mode := mode }
    hsc := { Hsc.reset with
      sockets := Hsc.reset.sockets.set 6 { SocketRec.reset with state := .loaded, unit := 1 }
      heads := Hsc.reset.heads.set 1 { HeadRec.reset with state := .startWait } }
    zar := State.reset.zar.set 1 { holder := holder, head := false, unload := false, load := false } }

theorem witness_ModeAndHoldPointRequestsStoreTheirValues : takesNow State.reset
    ∧ (4 ≤ (4 : Byte).toNat ∧ 3 ≤ (3 : Byte).toNat ∧ 2 ≤ (2 : Byte).toNat)
    ∧ ((0x1FFF : Word).toNat < 65536 ∧ (Place.ofCode ((0x1FFF : Word).setWidth 16)).isSome)
    ∧ (65536 ≤ (0x10000 : Word).toNat ∧ Place.ofCode ((0xF000 : Word).setWidth 16) = none)
    ∧ (takesNow (waiting .none .single) ∧ takesNow (waiting .unload .single))
    ∧ ((waiting .none .single).hsc.heads[(1 : HeadIx)].state = .startWait ∧ (waiting .none .single).rcu.run = .run
      ∧ (waiting .none .single).zar[(1 : HeadIx)].holder = .none
      ∧ (waiting .unload .single).zar[(1 : HeadIx)].holder = .unload
      ∧ (waiting .none .single).hsc.heads[(0 : HeadIx)].state ≠ .startWait
      ∧ (waiting .none .single).rcu.mode = .single ∧ State.reset.rcu.mode = .continuous
      ∧ (2 : Byte).getLsbD (1 : HeadIx).val = true ∧ (2 : Byte).getLsbD (0 : HeadIx).val = false) :=
  ⟨reset_takesNow, by decide, by decide, by decide, ⟨⟨rfl, rfl, rfl⟩, ⟨rfl, rfl, rfl⟩⟩, by decide⟩

theorem witness_StepKeepsTheRunState : RunInv later ∧ ∃ t, step later = .next t :=
  ⟨⟨by decide, by decide, by decide, by decide, fun _ h => by
    have : ∀ h : HeadIx, later.hsc.heads[h] = HeadRec.reset := by decide
    rw [this h]; exact ⟨trivial, trivial⟩⟩, _, rfl⟩

/-- The load gantry waits for zone 1, which the unload gantry holds, with its PLACE of unit 1 into socket 6. -/
def waitingLoad : State :=
  { aligned with
    xpl := { Xpl.reset with
      loadQueue := [placeIn6] }
    zar := State.reset.zar.set 1 { holder := .unload, head := false, unload := false, load := true } }

theorem witness_ZonesAreGrantedInOrder : (zoneWith .none false false false).zar[(0 : HeadIx)].holder = .none
    ∧ (zoneWith .unload true true false).zar[(0 : HeadIx)].holder = .unload
    ∧ (zoneWith .unload true true false).zar[(0 : HeadIx)].head = true
    ∧ (zoneWith .load false true false).zar[(0 : HeadIx)].unload = true
    ∧ (zoneWith .load false true false).zar[(0 : HeadIx)].head = false
    ∧ (waitingLoad.zar[(1 : HeadIx)].load = true ∧ (headOrder .load waitingLoad).bind Order.placeSocket = some 6
      ∧ ∃ cx cy c v, correction 1 6 0 waitingLoad = .coordinates cx cy c v)
    ∧ ((waiting .none .continuous).hsc.heads[(1 : HeadIx)].state = .startWait
      ∧ (waiting .none .continuous).rcu.run = .run ∧ (waiting .none .continuous).rcu.mode = .continuous
      ∧ (waiting .none .continuous).zar[(1 : HeadIx)].holder = .none
      ∧ (waiting .head .continuous).zar[(1 : HeadIx)].holder = .head)
    ∧ (headOf 6 = 1 ∧ (waiting .none .continuous).hsc.sockets[(6 : SocketIx)].state = .loaded
      ∧ findUnit 1 (waiting .none .continuous) = some { unit1 with state := .loaded, route := none }) := by
  refine ⟨by decide, by decide, by decide, by decide, by decide, ⟨by decide, by decide, ?_⟩, by decide, by decide⟩
  exact ⟨_, _, _, _, rfl⟩

/-- The head of `waiting` in a state. -/
def headIn (st : HeadState) (k : SocketState) : State :=
  let s := waiting .none .continuous
  { s with
    ltc := { Ltc.reset with state := .running }
    hsc := { s.hsc with
      sockets := s.hsc.sockets.set 7 { SocketRec.reset with state := k }
      heads := s.hsc.heads.set 1 { HeadRec.reset with state := st } } }

theorem witness_head_states : startCondition 1 (headIn .fill .jammed) = true
    ∧ startCondition 1 (headIn .fill .reserved) = false ∧ startCondition 1 (headIn .fill .empty) = false
    ∧ ((headIn .idle .off).hsc.heads[(1 : HeadIx)].state = .idle ∧ (headIn .idle .off).ltc.state = .running
      ∧ headOf 6 = 1 ∧ (headIn .idle .off).hsc.sockets[(6 : SocketIx)].active = true)
    ∧ ((headIn .startWait .done).hsc.heads[(1 : HeadIx)].state = .startWait
      ∧ headOf 7 = 1 ∧ (headIn .startWait .done).hsc.sockets[(7 : SocketIx)].state = .done)
    ∧ (anyActive 2 (headIn .fill .off) = false ∧ anySocket 1 .loaded (headIn .fill .off) = true
      ∧ anySocket 2 .loaded (headIn .fill .off) = false) := by decide +kernel

theorem witness_SendingAnOrderStartsItsTimer :
    (∃ t, t = sendOrder .load (plainOrder .park) (0, 2 ^ 24 - 1) (gantryWith .idle .queued))
    ∧ ((0 : Int) ≤ 2 ^ 24 - 1 ∧ (2 ^ 24 - 1 : Int) < 2 ^ 24)
    ∧ ({ plainOrder .place with place := some .chute } : Order).place = some .chute := ⟨⟨_, rfl⟩, by decide, rfl⟩

/-- Unit 1 on load nozzle 0 in a state, its offset to come, with the camera taught. -/
def onNozzle (st : UnitState) (sp : Spot) : State :=
  { setAt sp 1 taught with
    upt := { (setAt sp 1 taught).upt with units := [{ unit1 with state := st, place := some sp, route := none }] } }

theorem witness_DoneEndsTheOrderInFlight :
    ((gantryWith .inFlight .issued).pins.resetLow = false ∧ (gsq .load (gantryWith .inFlight .issued)).rx.buf = []
      ∧ (headOrder .load (gantryWith .inFlight .issued)).map Order.status = some .issued
      ∧ (gsq .load (gantryWith .inFlight .issued)).tag = 7)
    ∧ (∃ o, headOrder .load (gantryWith .inFlight .issued) = some o ∧ o.kind = .pick
      ∧ (2 : Byte).getLsbD o.nozzle.val = true ∧ readDone o [0, 2] = some .ok)
    ∧ ((queue .load (gantryWith .inFlight .issued)).map Order.id).Nodup
    ∧ (∀ o ∈ (gantryWith .inFlight .issued).xpl.unloadQueue, o.kind ≠ .inspect)
    ∧ ((plainOrder .pick).kind = .pick ∧ (plainOrder .place).kind = .place)
    ∧ (∀ sp : Spot, sp = .soak 63 ∨ sp = .socket 15 ∨ sp = .loadNozzle 0 →
      findUnit 1 (onNozzle .onLoad sp) = some { unit1 with state := .onLoad, place := some sp, route := none })
    ∧ ((Place.soak 63).spot = some (.soak 63) ∧ (Place.socket 15).spot = some (.socket 15)
      ∧ nozzleSpot .load 0 = .loadNozzle 0)
    ∧ ((onNozzle .onLoad (.loadNozzle 0)).upt.loadNozzles[(0 : NozzleIx)] = 1
      ∧ (∀ m : NozzleIx, m ≠ 0 → (onNozzle .onLoad (.loadNozzle 0)).upt.loadNozzles[m] ≠ 1)
      ∧ (onNozzle .onLoad (.loadNozzle 0)).pcu.camera = some camera
      ∧ (onNozzle .onLoad (.loadNozzle 0)).hsc.sockets[(6 : SocketIx)].offPending = none
      ∧ (onNozzle .onLoad (.loadNozzle 0)).ltc.state ≠ .purging)
    ∧ ((lotIn .purging).ltc.state = .purging ∧ State.reset.upt.nextUnit = 1) := by
  refine ⟨by decide, ⟨_, rfl, by decide, by decide, by decide⟩, by decide, by decide, by decide, ?_, by decide, by decide,
    by decide⟩
  rintro _ (rfl | rfl | rfl) <;> rfl

theorem witness_StrayDoneIsIgnored : State.reset.pins.resetLow = false ∧ (gsq .load State.reset).rx.buf = []
    ∧ headOrder .load State.reset = none ∧ (gsq .load (gantryWith .inFlight .issued)).tag ≠ 8 := by decide

theorem witness_ExpiriesActWhenTheyHaveCome : driveDue .load (gantryWith .inFlight .issued) = true
    ∧ driveDue .load (gantryWith .held .uncertain) = false ∧ testDue 0 testing = true
    ∧ gapDue .cell State.reset = false
    ∧ gapDue .cell { later with now := 11, clu := { Clu.reset with rx := { buf := [0xA5], last := 0 } } } = true
    ∧ gapDue .cell { later with now := 10, clu := { Clu.reset with rx := { buf := [0xA5], last := 0 } } } = false
    ∧ (∀ i : Fin 4, State.reset.rcu.holdPoints[i].enabled = false) ∧ (findUnit 1 (withUnit .soaking none)).isSome := by
  decide

/-- Head 0 in TEST with unit 1 TESTING in its socket 0, every bin in category 0. -/
def captured : State :=
  { withUnit .testing none with
    hsc := { testing.hsc with
      sockets := testing.hsc.sockets.set 0 { SocketRec.reset with state := .testing, unit := 1 } }
    pins := testing.pins, zar := testing.zar, srt := startable.srt }

theorem witness_EotCapturesAHeadInTest : testing.pins.resetLow = false
    ∧ testing.hsc.heads[(0 : HeadIx)].state = .test ∧ testing.hsc.heads[(0 : HeadIx)].sot = some 0
    ∧ testing.hsc.heads[(1 : HeadIx)].state ≠ .test
    ∧ (headOf 0 = 0 ∧ captured.hsc.sockets[(0 : SocketIx)].state = .testing
      ∧ captured.hsc.sockets[(0 : SocketIx)].unit = 1 ∧ captured.hsc.heads[(0 : HeadIx)].sot = some 0
      ∧ findUnit 1 captured = some { unit1 with state := .testing, route := none }
      ∧ (captured.srt.binMap[(33 : BinCode)]).isSome
      ∧ ∀ j : SocketIx, j ≠ 0 → captured.hsc.sockets[j].state ≠ .testing) := by decide

/-- `captured` with the LD line of its socket high. -/
def lit : State := { captured with pins := { captured.pins with ld := captured.pins.ld.set 0 true } }

theorem witness_StepKeepsSotAtTheTest : SotInv lit ∧ lit.pins.ld[(0 : SocketIx)] = true ∧ ∃ t, step lit = .next t := by
  refine ⟨⟨?_, ?_, ?_, ?_⟩, ?_, _, rfl⟩ <;> decide

/-! ### Steps -/

/-- A field of the next state of a step. -/
def field {α : Type} (f : State → α) : Host.Outcome State Fault Refusal → Option α
  | .next t => some (f t)
  | _ => none

/-- A step with one command waiting. -/
def stepWith (c : Instr) (s : State) : Host.Outcome State Fault Refusal := step { s with pending := [c] }

/-- R163: HOLD_NOW in RUN enters HOLD with cause HOLD_POINT. -/
theorem test_hold_now : field (fun t => (t.rcu.run, t.rcu.causes)) (stepWith (.holdNow 1) (withRcu (fun r =>
    { r with run := .run }))) = some (.hold, { HoldCauses.none with holdPoint := true }) := by decide +kernel

/-- R165: the run state left is the argument of ESTOP; R132: the test is voided and SOT falls. -/
theorem test_estop : field (fun t => (t.clu.args[21], t.pins.sot[0], t.hsc.heads[0].state, t.ltc.captures.voided))
    (stepWith .estopActive testing) = some ([1], false, .fill, 1) := by decide +kernel

/-- R131: an edge on EOT outside TEST raises STRAY_EOT with the head, and ATTN rises if it is enabled (R178). -/
theorem test_stray_eot : field (fun t => (t.clu.args[13], t.pins.attn, t.clu.notices.length))
    (stepWith (.eot 2 (Vector.replicate 4 { valid := false, code := 0 }))
      { State.reset with clu := { Clu.reset with enabled := 0x2000 } }) = some ([2], true, 1) := by decide +kernel

/-- R108, R110: the reply timer expires; the order is UNCERTAIN, and GANTRY_FAULT carries gantry, cause, kind and
place. -/
theorem test_no_reply : field (fun t => (t.gsqL.state, t.xpl.loadQueue.map Order.status, t.clu.args[16]))
    (stepWith (.driveReplyTimerExpiry .load) (gantryWith .inFlight .issued))
      = some (.fault, [.uncertain], [0, 1, 1, 0xA0, 0x00]) := by decide +kernel

/-- R182: the reply to RESET is sent, and the part is reset. -/
theorem test_reset : field (fun t => (t.now, t.clu.replySlot, t.clu.resetRequested))
    (stepWith .replySent { later with clu := { sending.clu with resetRequested := true } })
      = some (0, none, false) := by decide +kernel

/-- R172: RATE high gives 921,600 baud. -/
theorem test_rate : field (fun t => t.clu.rate) (stepWith (.resetNRelease true) low) = some 921600 := by
  decide +kernel

/-- R181: a power-up that completes while RESET_N is low ends nothing. -/
theorem test_power_up_low : field (fun t => t.pins.resetLow) (stepWith (.powerUp true) low) = some true := by
  decide +kernel

/-- R129, R147: the socket is DONE, and its unit, bin 33, is routed to category 0. -/
theorem test_capture : field (fun t => (t.hsc.sockets[0].state, t.upt.units.map UnitRec.route, t.clu.args[15]))
    (stepWith (.eot 0 (Vector.replicate 4 { valid := false, code := 0 })) captured)
      = some (.done, [some (.final 0 false)], [0, 0, 0, 0, 0, 1]) := by decide +kernel

/-- R175, Table 11-1: LOT_OPEN of lot 0x1234 with tag 9 as bytes on the line; the reply has kind 0x88 and tag 9. -/
theorem test_lot_open_frame : field (fun t => (t.ltc.lot, t.clu.replySlot))
    (stepWith (.cellFrameReceived (0x00 :: Frame.bytes { kind := 0x08, tag := 9, payload := [0x12, 0x34] })) State.reset)
      = some (some 0x1234, some { kind := 0x88, tag := 9, payload := [0] }) := by decide +kernel

/-- R128, Table 7-1: a TESTING socket is not JAMMED by the end of a transfer, and a DONE one is. -/
theorem test_testing_stays : ((jamSocket 0 captured).hsc.sockets[(0 : SocketIx)].state,
    (jamSocket 0 (socketIn .done)).hsc.sockets[(0 : SocketIx)].state) = (.testing, .jammed) := by decide +kernel

/-- R138: the zone is released by the load gantry while head and unload gantry wait; the head has it. -/
theorem test_release : ((releaseZone .load 0 (zoneWith .load true true false)).zar[(0 : HeadIx)].holder,
    (releaseZone .load 0 (zoneWith .load true true false)).pins.sot[(0 : HeadIx)]) = (.head, true) := by decide +kernel

end Sys2Proof.Tests
end

section
/-! PROOF. The values after reset, a step on an empty queue, and the place codes. -/
namespace Sys2Proof.Machine

/-! ### A step on an empty queue -/

theorem step_of_no_command {s : State} (h : s.pending = []) : step s = .next (idle s) := by simp [step, h]

theorem idle_of_reset_low {s : State} (h : s.pins.resetLow = true) : idle s = s := if_pos h

theorem idle_of_nothing_due {s : State} (h : s.pins.resetLow = false) (hd : dueEvents s = []) :
    idle s = { s with now := s.now + 1 } := by simp [idle, h, hd]

theorem idle_of_due {s : State} {e : Instr} {es : List Instr} (h : s.pins.resetLow = false)
    (hd : dueEvents s = e :: es) : idle s = pickEvent e es s := by simp [idle, h, hd]

/-- Whatever the free choice is, one of the expiries that have come joins the queue. -/
theorem pickEvent_spec (e : Instr) (es : List Instr) (s : State) :
    ∃ c ∈ e :: es, ∃ n, pickEvent e es s = { s with pending := [c], free := n } := by
  cases es with
  | nil => exact ⟨e, by simp, s.free, rfl⟩
  | cons e' es =>
    have hlt : (drawBelow ((e' :: es).length + 1) s).1 < (e :: e' :: es).length := Nat.mod_lt _ (by simp)
    refine ⟨_, List.getElem_mem hlt, s.free + 1, ?_⟩
    simp only [pickEvent, List.getD_eq_getElem _ _ hlt]
    rfl

/-- Settles O2: the three cases of `idle`, of which the third is `pickEvent_spec`. -/
theorem emptyQueueLetsAMillisecondPass : Obligations.EmptyQueueLetsAMillisecondPass := by
  intro s hq
  refine ⟨fun hr => ?_, fun hr hd => ?_, fun hr hd => ?_⟩
  · rw [step_of_no_command hq, idle_of_reset_low hr]
  · rw [step_of_no_command hq, idle_of_nothing_due hr hd]
  · obtain ⟨e, es, he⟩ := List.exists_cons_of_ne_nil hd
    obtain ⟨c, hc, n, hn⟩ := pickEvent_spec e es s
    exact ⟨c, he ▸ hc, n, by rw [step_of_no_command hq, idle_of_due hr he, hn]⟩

/-! ### The state after reset -/

theorem unitAt_reset (sp : Spot) : unitAt sp State.reset = 0 := by
  cases sp <;> simp [unitAt, State.reset, Upt.reset, Hsc.reset, SoakPos.free, SocketRec.reset]

theorem freeCount_reset : freeCount State.reset = 64 := by
  simp [freeCount, State.reset, Upt.reset, SoakPos.free]

/-- Settles O14: every value stands in the reset value of its block. -/
theorem resetLeavesTheValuesOfEachChapter : Obligations.ResetLeavesTheValuesOfEachChapter := by
  have perHead : ∀ h : HeadIx, State.reset.xpl.estimates[h] = 1000 ∧ State.reset.hsc.heads[h].state = .idle
      ∧ State.reset.zar[h].holder = .none := by decide
  have perSocket : ∀ k : SocketIx,
      State.reset.hsc.sockets[k].state = .off ∧ State.reset.hsc.sockets[k].teach = none := by decide
  have perGantry : ∀ g : Gantry,
      (gsq g State.reset).state = .idle ∧ queue g State.reset = [] ∧ parked g State.reset = false := by
    rintro (_ | _) <;> exact ⟨rfl, rfl, rfl⟩
  have perInStation : ∀ st : Side, inStation st State.reset = InStation.reset := by rintro (_ | _) <;> rfl
  have perOutStation : ∀ st : OutStation, outStation st State.reset = OutRec.reset := by
    intro st; simp [outStation, State.reset, Srt.reset]
  refine ⟨rfl, rfl, rfl, rfl, rfl, rfl, rfl, rfl, rfl, rfl, rfl, rfl, rfl, rfl, freeCount_reset, unitAt_reset, perHead,
    perSocket, perGantry, rfl, rfl, rfl, ?_, ?_, perInStation, rfl, rfl, rfl, perOutStation, ?_, rfl, rfl, rfl, ?_, ?_⟩
    <;> intro i <;> simp [State.reset, Srt.reset, Pins.reset]

/-! ### The invariants at reset -/

theorem reset_LinkInv : LinkInv State.reset where
  queue := by decide
  notices := by decide
  raised := by decide
  enabled := by decide
  waits h := absurd rfl h
  reply := nofun
  notice := nofun
  reset := nofun
  free _ _ := ⟨rfl, rfl⟩
  attn := by decide

/-- Nothing is taught after reset (R76). -/
theorem taughtOn_reset (g : Gantry) : taughtOn g State.reset = [] := by
  have hcamera : State.reset.pcu.camera = none := rfl
  have hchute : State.reset.pcu.chute = none := rfl
  have hplate : plateCheck g State.reset = [] := rfl
  have htray : ∀ i, trayCheck State.reset i = [] := fun i => by simp [trayCheck, State.reset, Pcu.reset]
  have hnest : ∀ i, nestCheck State.reset i = [] := fun i => by simp [nestCheck, State.reset, Pcu.reset]
  have hsocket : ∀ k, socketCheck g State.reset k = [] := fun k => by
    simp [socketCheck, State.reset, Hsc.reset, SocketRec.reset]
  cases g <;> simp [taughtOn, hcamera, hchute, hplate, htray, hnest, hsocket]

theorem reset_TeachInv : TeachInv State.reset where
  axes g a t h := by cases g <;> cases a <;> cases h
  camera := nofun
  trays i t h := by simp [State.reset, Pcu.reset] at h
  sockets k t h := by simp [State.reset, Hsc.reset, SocketRec.reset] at h
  reach g c h := by simp [taughtOn_reset] at h

theorem reset_EstimateInv : EstimateInv State.reset where
  params := by simp [State.reset, Ltc.reset, LotParams.defaults, LotParams.legal]
  estimates h := by simp [State.reset, Xpl.reset]

theorem reset_RunInv : RunInv State.reset where
  causes _ := rfl
  settle := by decide
  delay := by decide
  timeout := by decide
  timers _ h := by simp [State.reset, Hsc.reset, HeadRec.reset, HeadTimer.still]

theorem reset_SotInv : SotInv State.reset where
  sot := by decide
  ld k h := by simp [State.reset, Pins.reset] at h
  request h hr := by simp [State.reset, Zone.reset] at hr
  zone h ht := by simp [State.reset, Hsc.reset, HeadRec.reset] at ht

/-- Settles O15, one invariant after another. -/
theorem resetMeetsTheInvariants : Obligations.ResetMeetsTheInvariants :=
  ⟨reset_LinkInv, reset_TeachInv, reset_EstimateInv, ⟨by decide, .nil⟩, ⟨by decide, by decide⟩, reset_RunInv,
    reset_SotInv⟩

/-! ### Place codes (R1, R174) -/

theorem index_val {n : Nat} (i : Fin n) : index n i.val = some i := dif_pos i.isLt

theorem index_eq_some {n a : Nat} {i : Fin n} (h : index n a = some i) : i.val = a := by
  unfold index at h
  split at h
  · cases h; rfl
  · cases h

theorem InSlot.ofIndex_index (x : InSlot) : InSlot.ofIndex x.index = some x := by
  cases x with
  | nest => rfl
  | pocket p =>
    have hp : p.val ≠ 4095 := by omega
    simp [InSlot.ofIndex, InSlot.index, hp, index_val]

theorem InSlot.index_of_ofIndex {i : Nat} {x : InSlot} (h : InSlot.ofIndex i = some x) : x.index = i := by
  unfold InSlot.ofIndex at h
  split at h
  · rename_i hi; cases h; exact hi.symm
  · obtain ⟨p, hp, rfl⟩ := Option.map_eq_some_iff.1 h
    exact index_eq_some hp

theorem InSlot.index_lt (x : InSlot) : x.index < 4096 := by
  cases x with
  | nest => decide
  | pocket p => exact p.isLt.trans (by decide)

theorem OutStation.ofIx_ix (st : OutStation) : OutStation.ofIx st.ix = st := by
  obtain ⟨p, side⟩ := st
  cases side <;> simp [OutStation.ofIx, OutStation.ix]
  exact Fin.ext (by dsimp only; omega)

theorem OutStation.ix_ofIx (i : Fin 8) : (OutStation.ofIx i).ix = i := by revert i; decide

/-- Kinds 2 to 9, the output stations, are read by the last arm of `Place.ofKindIndex`. -/
theorem Place.ofKindIndex_output (j : Fin 8) (i : Nat) :
    Place.ofKindIndex (2 + j.val) i = (index 384 i).map (.output (.ofIx j)) := by
  fin_cases j <;> rfl

theorem Place.ofKindIndex_kindIndex (p : Place) : Place.ofKindIndex p.kindIndex.1 p.kindIndex.2 = some p := by
  cases p with
  | input st slot => cases st <;> simp [Place.kindIndex, Side.inputKind, Place.ofKindIndex, InSlot.ofIndex_index]
  | output st p =>
    simp [Place.kindIndex, OutStation.kind, Place.ofKindIndex_output, index_val, OutStation.ofIx_ix]
  | chute => rfl
  | _ => simp [Place.kindIndex, Place.ofKindIndex, index_val]

/-- No kind from 15 on names a place. -/
theorem Place.ofKindIndex_of_ge {k : Nat} (i : Nat) (h : 15 ≤ k) : Place.ofKindIndex k i = none := by
  have hk : index 8 (k - 2) = none := dif_neg (by omega)
  unfold Place.ofKindIndex
  split <;> first | omega | simp [hk]

theorem Place.kindIndex_of_ofKindIndex {k i : Nat} {p : Place} (h : Place.ofKindIndex k i = some p) :
    p.kindIndex = (k, i) := by
  unfold Place.ofKindIndex at h
  split at h
  · obtain ⟨x, hx, rfl⟩ := Option.map_eq_some_iff.1 h
    simp [Place.kindIndex, Side.inputKind, InSlot.index_of_ofIndex hx]
  · obtain ⟨x, hx, rfl⟩ := Option.map_eq_some_iff.1 h
    simp [Place.kindIndex, Side.inputKind, InSlot.index_of_ofIndex hx]
  · obtain ⟨x, hx, rfl⟩ := Option.map_eq_some_iff.1 h
    simp [Place.kindIndex, index_eq_some hx]
  · obtain ⟨x, hx, rfl⟩ := Option.map_eq_some_iff.1 h
    simp [Place.kindIndex, index_eq_some hx]
  · obtain ⟨x, hx, rfl⟩ := Option.map_eq_some_iff.1 h
    simp [Place.kindIndex, index_eq_some hx]
  · obtain ⟨x, hx, rfl⟩ := Option.map_eq_some_iff.1 h
    simp [Place.kindIndex, index_eq_some hx]
  · split at h
    · cases h; simp_all [Place.kindIndex]
    · cases h
  · rename_i k0 k1 _ _ _ _ _
    split at h
    · rename_i st hst
      obtain ⟨x, hx, rfl⟩ := Option.map_eq_some_iff.1 h
      have hk : 2 ≤ k := (Nat.two_le_iff k).2 ⟨k0, k1⟩
      have hi := index_eq_some hst
      simp only [Place.kindIndex, OutStation.kind, OutStation.ix_ofIx, index_eq_some hx, Prod.mk.injEq, and_true]
      omega
    · cases h

theorem Place.kindIndex_bounds (p : Place) : p.kindIndex.1 < 15 ∧ p.kindIndex.2 < 4096 := by
  cases p with
  | input st slot => exact ⟨by cases st <;> simp [Place.kindIndex, Side.inputKind], slot.index_lt⟩
  | chute => decide
  | _ => simp only [Place.kindIndex, OutStation.kind]; omega

theorem Place.code_toNat (p : Place) : p.code.toNat = p.kindIndex.1 * 4096 + p.kindIndex.2 := by
  have := p.kindIndex_bounds
  simp only [Place.code, BitVec.toNat_ofNat]
  omega

theorem Place.ofCode_code (p : Place) : Place.ofCode p.code = some p := by
  have hb := p.kindIndex_bounds
  have hk : p.code.toNat / 4096 = p.kindIndex.1 := by rw [p.code_toNat]; omega
  have hi : p.code.toNat % 4096 = p.kindIndex.2 := by rw [p.code_toNat]; omega
  rw [Place.ofCode, hk, hi, Place.ofKindIndex_kindIndex]

theorem Place.code_of_ofCode {c : Half} {p : Place} (h : Place.ofCode c = some p) : p.code = c := by
  apply BitVec.eq_of_toNat_eq
  rw [p.code_toNat, Place.kindIndex_of_ofKindIndex h]
  dsimp only
  omega

/-- Settles O29: `Place.code` and `Place.ofCode` are inverse to each other, and kind 15 is not read. -/
theorem placeCodesNameTheirPlace : Obligations.PlaceCodesNameTheirPlace :=
  ⟨fun p => ⟨p.code_toNat, p.kindIndex_bounds.1, p.kindIndex_bounds.2, p.ofCode_code⟩,
    fun _ _ h => Place.code_of_ofCode h, fun _ h => Place.ofKindIndex_of_ge _ h.ge⟩

end Sys2Proof.Machine
end

section
/-! PROOF. Requests that are taken at once, the soak positions and the clearing requests (R4, R5, R15). -/
namespace Sys2Proof.Machine

/-! ### Requests taken at once -/

/-- A well-formed request that is taken at once has its owner's effect, and its reply is begun (R175). -/
theorem live_submit_of_takesNow {tag : Byte} {q : Request} {s : State} (h : takesNow s) (hw : q.wf = true) :
    live (submit tag q) s = replied q.kind tag (serve q s).2 (serve q s).1 := by
  obtain ⟨hreset, hslot, hqueue⟩ := h
  simp [live, submit, hreset, hslot, hqueue, hw, takeRequest, putReply, modClu, replyFrame, replied]

theorem exec_soakClear_of_takesNow {s : State} (h : takesNow s) (tag position : Byte) :
    exec (.soakClear tag position) s
      = .next (replied 0x15 tag (serveSoakClear position s).2 (serveSoakClear position s).1) :=
  congrArg Host.Outcome.next (live_submit_of_takesNow h rfl)

theorem exec_unitClear_of_takesNow {s : State} (h : takesNow s) (tag : Byte) (u : Word) :
    exec (.unitClear tag u) s = .next (replied 0x16 tag (serveUnitClear u s).2 (serveUnitClear u s).1) :=
  congrArg Host.Outcome.next (live_submit_of_takesNow h rfl)

theorem serveSoakClear_of_ge {position : Byte} {s : State} (h : 64 ≤ position.toNat) :
    serveSoakClear position s = (s, [3]) := by
  have hi : index 64 position.toNat = none := dif_neg (by omega)
  simp [serveSoakClear, hi, answer, Status.code]

theorem serveSoakClear_position (p : SoakIx) (s : State) :
    serveSoakClear (BitVec.ofNat 8 p.val) s =
      if s.upt.soak[p].state = .blocked then (settle (modSoak p (fun q => { q with state := .free }) s), [0])
      else (s, [4]) := by
  have hp : (BitVec.ofNat 8 p.val).toNat = p.val := by simp only [BitVec.toNat_ofNat]; omega
  have hi : index 64 p.val = some p := dif_pos p.isLt
  simp only [serveSoakClear, hp, hi, answer, Status.code]

theorem serveUnitClear_zero (s : State) : serveUnitClear 0 s = (s, [3]) := rfl

theorem serveUnitClear_of_missing {u : Word} {s : State} (hu : u ≠ 0) (h : findUnit u s = none) :
    serveUnitClear u s = (s, [5]) := by rw [serveUnitClear, if_neg hu, h]; rfl

theorem serveUnitClear_of_found {u : Word} {r : UnitRec} {s : State} (hu : u ≠ 0) (h : findUnit u s = some r) :
    serveUnitClear u s = if r.state ≠ .lost then (s, [4]) else (settle (dropUnit u s), [0]) := by
  rw [serveUnitClear, if_neg hu, h]; rfl

theorem findUnit_eq_none_iff {u : UnitNo} {s : State} : findUnit u s = none ↔ ∀ r ∈ s.upt.units, r.no ≠ u := by
  simp [findUnit]

theorem findUnit_no {u : UnitNo} {r : UnitRec} {s : State} (h : findUnit u s = some r) : r.no = u := by
  simpa using List.find?_some h

/-- Settles O41: each request is taken at once, and its answer is that of `serveSoakClear` or `serveUnitClear`. -/
theorem soakClearAndUnitClearFollowTheirRules : Obligations.SoakClearAndUnitClearFollowTheirRules := by
  intro tag s h
  refine ⟨fun position hp => ?_, fun p => ?_, ?_, fun u hu hno => ?_, fun u r hu hr => ?_⟩
  · rw [exec_soakClear_of_takesNow h, serveSoakClear_of_ge hp]
  · rw [exec_soakClear_of_takesNow h, serveSoakClear_position]
    split <;> rfl
  · rw [exec_unitClear_of_takesNow h, serveUnitClear_zero]
  · rw [exec_unitClear_of_takesNow h, serveUnitClear_of_missing hu (findUnit_eq_none_iff.2 hno)]
  · rw [exec_unitClear_of_takesNow h, serveUnitClear_of_found hu hr]
    split <;> rfl

/-! ### Soak positions (R4) -/

theorem lowestFree_eq_some {p : SoakIx} {s : State} (h : lowestFree s = some p) :
    s.upt.soak[p].state = .free ∧ ∀ q : SoakIx, q < p → s.upt.soak[q].state ≠ .free := by
  obtain ⟨hp, before, after, hl, hb⟩ := List.find?_eq_some_iff_append.1 h
  refine ⟨by simpa using hp, fun q hq => ?_⟩
  have hmem : q ∈ before := by
    have hsorted : (before ++ p :: after).Pairwise (· < ·) := hl ▸ List.pairwise_lt_finRange 64
    have hq' : q ∈ before ++ p :: after := hl ▸ List.mem_finRange q
    rcases List.mem_append.1 hq' with hq' | hq'
    · exact hq'
    · obtain ⟨_, hafter, _⟩ := List.pairwise_append.1 hsorted
      rcases List.mem_cons.1 hq' with rfl | hq'
      · exact absurd hq (lt_irrefl _)
      · exact absurd hq (lt_asymm (List.rel_of_pairwise_cons hafter hq'))
  simpa using hb q hmem

theorem lowestFree_eq_none_iff {s : State} : lowestFree s = none ↔ ∀ p : SoakIx, s.upt.soak[p].state ≠ .free := by
  simp [lowestFree]

/-- A FREE position that takes another state is one FREE position less. -/
theorem freeCount_modSoak {p : SoakIx} {f : SoakPos → SoakPos} {s : State} (hp : s.upt.soak[p].state = .free)
    (hf : (f s.upt.soak[p]).state ≠ .free) : freeCount (modSoak p f s) + 1 = freeCount s := by
  have hlen : p.val < s.upt.soak.toList.length := by simp
  have hget : s.upt.soak.toList[p.val] = s.upt.soak[p] := by simp
  have hpos : 0 < freeCount s := by
    apply List.countP_pos_iff.2
    exact ⟨_, List.getElem_mem hlen, by rw [hget]; simpa using hp⟩
  have hset : freeCount (modSoak p f s) = freeCount s - 1 := by
    simp only [freeCount, modSoak_upt, Vector.toList_set]
    rw [List.countP_set hlen, hget, if_pos (by simpa using hp), if_neg (by simpa using hf), Nat.add_zero]
  omega

theorem reserveSoak_eq_none_iff {purpose : Purpose} {u : UnitNo} {s : State} : reserveSoak purpose u s = none ↔
    (∀ p : SoakIx, s.upt.soak[p].state ≠ .free) ∨ (purpose = .fresh ∧ freeCount s ≤ retestReserve s) := by
  unfold reserveSoak
  split
  · rename_i hfull; simp [hfull]
  · rename_i hroom
    rw [← lowestFree_eq_none_iff]
    cases lowestFree s <;> simp [hroom]

theorem reserveSoak_eq_some {purpose : Purpose} {u : UnitNo} {p : SoakIx} {s t : State}
    (h : reserveSoak purpose u s = some (p, t)) :
    lowestFree s = some p ∧ t = modSoak p (fun r => { r with state := .reserved, reservedFor := u }) s
      ∧ (purpose = .fresh → retestReserve s < freeCount s) := by
  unfold reserveSoak at h
  split at h
  · cases h
  · rename_i hroom
    split at h
    · rename_i q hq
      obtain ⟨rfl, rfl⟩ := Prod.mk.inj (Option.some.inj h)
      exact ⟨hq, rfl, fun hfresh => not_le.1 fun hle => hroom ⟨hfresh, hle⟩⟩
    · cases h

/-- Settles O42: the answer is the lowest FREE position, and one FREE position less is left. -/
theorem soakRequestsKeepTheRetestReserve : Obligations.SoakRequestsKeepTheRetestReserve := by
  intro purpose u s
  refine ⟨fun p t h => ?_, reserveSoak_eq_none_iff⟩
  obtain ⟨hlow, rfl, hroom⟩ := reserveSoak_eq_some h
  obtain ⟨hfree, hfirst⟩ := lowestFree_eq_some hlow
  have hcount := freeCount_modSoak (p := p) (f := fun r => { r with state := .reserved, reservedFor := u }) hfree
    (by simp)
  refine ⟨hfree, hfirst, rfl, hcount, fun hfresh => ?_⟩
  have := hroom hfresh
  omega

end Sys2Proof.Machine
end

section
/-! PROOF. The rules of the unit table and the place map: what a spot, a record and a counter are after each operation
on them (R2, R6), then the arrival on the soak plate (R11) and retirement (R16). -/
namespace Sys2Proof.Machine

variable {s : State} {u v : UnitNo} {r : UnitRec}

/-! ### Records after an operation that leaves the table alone -/

theorem findUnit_congr {t : State} (h : t.upt.units = s.upt.units) (u : UnitNo) : findUnit u t = findUnit u s := by
  simp only [findUnit, h]

theorem setAt_units (sp : Spot) (v : UnitNo) (s : State) : (setAt sp v s).upt.units = s.upt.units := by
  cases sp <;> rfl

theorem leaveSpot_eq_or (u : UnitNo) (s : State) : leaveSpot u s = s ∨ ∃ sp, leaveSpot u s = setAt sp 0 s := by
  unfold leaveSpot; split
  · exact .inr ⟨_, rfl⟩
  · exact .inl rfl

/-- A property that every write of 0 into a spot keeps is kept by a unit's leaving its spot. -/
theorem leaveSpot_induct {motive : State → Prop} (h0 : motive s) (h : ∀ sp, motive (setAt sp 0 s)) :
    motive (leaveSpot u s) := by
  rcases leaveSpot_eq_or u s with e | ⟨sp, e⟩ <;> rw [e]
  · exact h0
  · exact h sp

theorem leaveSpot_of_place {sp : Spot} (h : findUnit u s = some r) (hp : r.place = some sp) :
    leaveSpot u s = setAt sp 0 s := by simp [leaveSpot, spotOf, h, hp]

theorem leaveSpot_units (u : UnitNo) (s : State) : (leaveSpot u s).upt.units = s.upt.units :=
  leaveSpot_induct (motive := fun t => t.upt.units = s.upt.units) rfl (fun sp => setAt_units sp 0 s)

@[simp] theorem findUnit_setAt (sp : Spot) (w : UnitNo) : findUnit u (setAt sp w s) = findUnit u s :=
  findUnit_congr (setAt_units sp w s) u

@[simp] theorem findUnit_leaveSpot : findUnit u (leaveSpot v s) = findUnit u s := findUnit_congr (leaveSpot_units v s) u

/-! ### One record after a change of records -/

/-- The record changed, found under its own number. -/
theorem findUnit_modUnit_same {f : UnitRec → UnitRec} (h : findUnit u s = some r)
    (hf : ∀ x, (f x).no = x.no := by intro; rfl) : findUnit u (modUnit u f s) = some (f r) := by
  simp [findUnit_modUnit s u u f hf, h]

theorem findUnit_modUnit_other {f : UnitRec → UnitRec} (h : v ≠ u)
    (hf : ∀ x, (f x).no = x.no := by intro; rfl) : findUnit v (modUnit u f s) = findUnit v s := by
  simp [findUnit_modUnit s u v f hf, h]

theorem findUnit_dropUnit_same : findUnit u (dropUnit u s) = none := by simp [findUnit_eq_none_iff]

theorem findUnit_moveUnit_same (sp : Spot) (h : findUnit u s = some r) :
    findUnit u (moveUnit u sp s) = some { r with place := some sp } :=
  findUnit_modUnit_same (by simpa using h)

theorem findUnit_moveUnit_other (sp : Spot) (h : v ≠ u) : findUnit v (moveUnit u sp s) = findUnit v s := by
  rw [moveUnit, findUnit_modUnit_other h, findUnit_setAt, findUnit_leaveSpot]

/-! ### Spots -/

theorem unitAt_setAt_same (sp : Spot) (w : UnitNo) (s : State) : unitAt sp (setAt sp w s) = w := by
  cases sp <;> simp [unitAt, setAt]

theorem unitAt_setAt_other {sp sp' : Spot} (w : UnitNo) (s : State) (h : sp' ≠ sp) :
    unitAt sp' (setAt sp w s) = unitAt sp' s := by
  cases sp <;> cases sp' <;> simp_all [unitAt, setAt, Fin.val_inj, eq_comm]

/-- The spot that a unit leaves is empty. -/
theorem unitAt_leaveSpot {sp : Spot} (h : findUnit u s = some r) (hp : r.place = some sp) :
    unitAt sp (leaveSpot u s) = 0 := by rw [leaveSpot_of_place h hp, unitAt_setAt_same]

/-- The spots read the place map alone. -/
theorem unitAt_congr {t : State} (hs : t.upt.soak = s.upt.soak) (hl : t.upt.loadNozzles = s.upt.loadNozzles)
    (hu : t.upt.unloadNozzles = s.upt.unloadNozzles) (hk : t.hsc.sockets = s.hsc.sockets) (sp : Spot) :
    unitAt sp t = unitAt sp s := by cases sp <;> simp [unitAt, hs, hl, hu, hk]

theorem unitAt_modUnit (sp : Spot) (f : UnitRec → UnitRec) : unitAt sp (modUnit u f s) = unitAt sp s :=
  unitAt_congr rfl rfl rfl rfl sp

theorem unitAt_moveUnit_same (sp : Spot) : unitAt sp (moveUnit u sp s) = u := by
  rw [moveUnit, unitAt_modUnit, unitAt_setAt_same]

/-- The spot that a moved unit leaves is empty. -/
theorem unitAt_moveUnit_left {sp sp' : Spot} (h : findUnit u s = some r) (hp : r.place = some sp') (hne : sp' ≠ sp) :
    unitAt sp' (moveUnit u sp s) = 0 := by
  rw [moveUnit, unitAt_modUnit, unitAt_setAt_other _ _ hne, unitAt_leaveSpot h hp]

theorem setAt_sockets (sp : Spot) (w : UnitNo) (s : State) (k : SocketIx) : (setAt sp w s).hsc.sockets[k] =
    if sp = .socket k then { s.hsc.sockets[k] with unit := w } else s.hsc.sockets[k] := by
  cases sp with
  | socket j =>
    by_cases h : j = k
    · subst h; simp [setAt]
    · simpa [setAt, h] using modSocket_other s j k (fun x => { x with unit := w }) (Ne.symm h)
  | _ => simp [setAt]

/-! ### Arrival on the soak plate (R11) -/

/-- A unit set down on a soak position with the state and soak target of its purpose, before it becomes READY. -/
def setDown (u : UnitNo) (p : SoakIx) (a : UnitState × Nat) (s : State) : State :=
  s |> moveUnit u (.soak p)
    |> modSoak p (fun q => { q with state := .occupied, reservedFor := 0 })
    |> modUnit u (fun r => { r with
        state := a.1, soakStart := some s.now, soakTarget := a.2, target := none, noSocket := false })

theorem arriveSoak_of_found {p : SoakIx} {purpose : Purpose} (h : findUnit u s = some r) :
    arriveSoak u p purpose s =
      if (arrival purpose r s).1 ≠ .rejectWait ∧ (arrival purpose r s).2 = 0 then
        becomeReady u (setDown u p (arrival purpose r s) s)
      else setDown u p (arrival purpose r s) s := by simp only [arriveSoak, h]; rfl

theorem findUnit_setDown {p : SoakIx} {a : UnitState × Nat} (h : findUnit u s = some r) :
    findUnit u (setDown u p a s) = some { r with
      place := some (.soak p), state := a.1, soakStart := some s.now, soakTarget := a.2, target := none,
      noSocket := false } :=
  findUnit_modUnit_same (findUnit_moveUnit_same (.soak p) h)

theorem setDown_soak (u : UnitNo) (p : SoakIx) (a : UnitState × Nat) (s : State) :
    (setDown u p a s).upt.soak[p].state = .occupied ∧ (setDown u p a s).upt.soak[p].unit = u := by
  have hu : (moveUnit u (.soak p) s).upt.soak[p].unit = u := unitAt_moveUnit_same (.soak p)
  have hp := modSoak_same (moveUnit u (.soak p) s) p (fun q => { q with state := .occupied, reservedFor := 0 })
  rw [show (setDown u p a s).upt.soak[p] = _ from hp]
  exact ⟨rfl, hu⟩

/-- What becoming READY and being examined leave as it is: the place map, and of a record its place and its soak. -/
structure Readies (s t : State) : Prop where
  soak : t.upt.soak = s.upt.soak
  loadNozzles : t.upt.loadNozzles = s.upt.loadNozzles
  unloadNozzles : t.upt.unloadNozzles = s.upt.unloadNozzles
  sockets : t.hsc.sockets = s.hsc.sockets
  record : ∀ u r, findUnit u s = some r → ∃ r', findUnit u t = some r' ∧ r'.state = r.state ∧ r'.place = r.place
    ∧ r'.soakStart = r.soakStart ∧ r'.soakTarget = r.soakTarget ∧ r'.target = r.target

theorem Readies.refl (s : State) : Readies s s :=
  ⟨rfl, rfl, rfl, rfl, fun _ r h => ⟨r, h, rfl, rfl, rfl, rfl, rfl⟩⟩

theorem Readies.trans {s t w : State} (a : Readies s t) (b : Readies t w) : Readies s w where
  soak := b.soak.trans a.soak
  loadNozzles := b.loadNozzles.trans a.loadNozzles
  unloadNozzles := b.unloadNozzles.trans a.unloadNozzles
  sockets := b.sockets.trans a.sockets
  record u r h := by
    obtain ⟨r', h', e1, e2, e3, e4, e5⟩ := a.record u r h
    obtain ⟨q, hq, d1, d2, d3, d4, d5⟩ := b.record u r' h'
    exact ⟨q, hq, d1.trans e1, d2.trans e2, d3.trans e3, d4.trans e4, d5.trans e5⟩

theorem Readies.onXpl (s : State) (x : Xpl) : Readies s { s with xpl := x } :=
  ⟨rfl, rfl, rfl, rfl, fun _ r h => ⟨r, h, rfl, rfl, rfl, rfl, rfl⟩⟩

theorem Readies.modUnit (s : State) (u : UnitNo) {f : UnitRec → UnitRec} (hf : ∀ x, (f x).no = x.no
    ∧ (f x).state = x.state ∧ (f x).place = x.place ∧ (f x).soakStart = x.soakStart ∧ (f x).soakTarget = x.soakTarget
    ∧ (f x).target = x.target := by intro; exact ⟨rfl, rfl, rfl, rfl, rfl, rfl⟩) : Readies s (modUnit u f s) where
  soak := rfl
  loadNozzles := rfl
  unloadNozzles := rfl
  sockets := rfl
  record v r h := by
    by_cases e : v = u
    · subst e; exact ⟨f r, findUnit_modUnit_same h (fun x => (hf x).1), (hf r).2⟩
    · exact ⟨r, (findUnit_modUnit_other e (fun x => (hf x).1)).trans h, rfl, rfl, rfl, rfl, rfl⟩

theorem reroute_readies (u : UnitNo) (s : State) : Readies s (reroute u s) := by
  unfold reroute
  split
  · split
    · split
      · exact (Readies.modUnit s u).trans (Readies.onXpl _ _)
      · exact .refl s
    · exact .refl s
  · exact .refl s

theorem examineRetest_readies (u : UnitNo) (s : State) : Readies s (examineRetest u s) := by
  have hx : Readies s (modUnit u (UnitRec.examined s) s) := .modUnit s u
  unfold examineRetest
  split
  · dsimp only
    split
    · exact hx.trans (reroute_readies _ _)
    · exact hx
  · exact .refl s

theorem addReady_readies (u : UnitNo) (s : State) : Readies s (addReady u s) := by
  unfold addReady
  split
  · split
    · exact .onXpl _ _
    · exact .refl s
  · exact .refl s

/-- Becoming READY after its record has taken that state. -/
theorem becomeReady_readies (u : UnitNo) (s : State) :
    Readies (modUnit u (fun r => { r with state := .ready, readySeq := s.xpl.readySeq }) s) (becomeReady u s) :=
  ((Readies.onXpl _ _).trans (examineRetest_readies _ _)).trans (addReady_readies _ _)

theorem becomeReady_soak (u : UnitNo) (s : State) : (becomeReady u s).upt.soak = s.upt.soak :=
  (becomeReady_readies u s).soak

/-- A unit that becomes READY keeps its place and its soak. -/
theorem findUnit_becomeReady (h : findUnit u s = some r) : ∃ r', findUnit u (becomeReady u s) = some r'
    ∧ r'.state = .ready ∧ r'.place = r.place ∧ r'.soakStart = r.soakStart ∧ r'.soakTarget = r.soakTarget
    ∧ r'.target = r.target :=
  (becomeReady_readies u s).record u _ (findUnit_modUnit_same h)

theorem arriveSoak_soak {p : SoakIx} {purpose : Purpose} (h : findUnit u s = some r) :
    (arriveSoak u p purpose s).upt.soak[p].state = .occupied ∧ (arriveSoak u p purpose s).upt.soak[p].unit = u := by
  rw [arriveSoak_of_found h]
  split
  · simpa only [becomeReady_soak] using setDown_soak u p (arrival purpose r s) s
  · exact setDown_soak _ _ _ _

/-- The record of a unit set down: the soak target of its purpose, and READY at once where that is 0 (R11). -/
theorem findUnit_arriveSoak {p : SoakIx} {purpose : Purpose} (h : findUnit u s = some r) :
    ∃ r', findUnit u (arriveSoak u p purpose s) = some r' ∧ r'.place = some (.soak p) ∧ r'.soakStart = some s.now
      ∧ r'.target = none ∧ r'.soakTarget = (arrival purpose r s).2
      ∧ r'.state = if (arrival purpose r s).1 ≠ .rejectWait ∧ (arrival purpose r s).2 = 0 then .ready
          else (arrival purpose r s).1 := by
  have hd := findUnit_setDown (p := p) (a := arrival purpose r s) h
  rw [arriveSoak_of_found h]
  split
  · obtain ⟨r', hr', hstate, hplace, hstart, htarget, hnone⟩ := findUnit_becomeReady hd
    exact ⟨r', hr', hplace, hstart, hnone, htarget, hstate⟩
  · exact ⟨_, hd, rfl, rfl, rfl, rfl, rfl⟩

/-- Settles O43: the record of `findUnit_arriveSoak`, for each purpose of R11. -/
theorem soakArrivalSetsTheRecord : Obligations.SoakArrivalSetsTheRecord := by
  intro u p purpose r s h
  obtain ⟨hoccupied, hunit⟩ := arriveSoak_soak (p := p) (purpose := purpose) h
  obtain ⟨r', hr', hplace, hstart, htarget, hsoak, hstate⟩ := findUnit_arriveSoak (p := p) (purpose := purpose) h
  refine ⟨r', hr', hplace, hstart, htarget, ?_, ?_, ?_, ?_, hoccupied, hunit⟩
  · rintro rfl; simpa [arrival] using And.intro hsoak hstate
  · rintro rfl; simpa [arrival] using And.intro hsoak hstate
  · rintro rfl; simpa [arrival] using And.intro hsoak hstate
  · rintro rfl
    by_cases hreject : r.route = some .realignReject <;> simpa [arrival, hreject] using And.intro hsoak hstate

/-! ### Retirement (R16, R156) -/

@[simp] theorem setAt_srt (sp : Spot) (w : UnitNo) (s : State) : (setAt sp w s).srt = s.srt := by cases sp <;> rfl

@[simp] theorem setAt_counters (sp : Spot) (w : UnitNo) (s : State) :
    (setAt sp w s).upt.counters = s.upt.counters := by cases sp <;> rfl

@[simp] theorem leaveSpot_srt (u : UnitNo) (s : State) : (leaveSpot u s).srt = s.srt :=
  leaveSpot_induct (motive := fun t => t.srt = s.srt) rfl (fun sp => setAt_srt sp 0 s)

@[simp] theorem leaveSpot_counters (u : UnitNo) (s : State) : (leaveSpot u s).upt.counters = s.upt.counters :=
  leaveSpot_induct (motive := fun t => t.upt.counters = s.upt.counters) rfl (fun sp => setAt_counters sp 0 s)

/-- A property that raising a factor keeps is kept by the factors of the log. -/
theorem raiseLogFactors_induct {motive : State → Prop} (h : motive s)
    (hr : ∀ f arg t, motive t → motive (raise f arg t)) : motive (raiseLogFactors s) := by
  unfold raiseLogFactors
  dsimp only
  split <;> split
  · exact hr _ _ _ (hr _ _ _ h)
  · exact hr _ _ _ h
  · exact hr _ _ _ h
  · exact h

theorem raiseLogFactors_srt (s : State) : (raiseLogFactors s).srt = s.srt :=
  raiseLogFactors_induct (motive := fun t => t.srt = s.srt) rfl (fun _ _ _ h => h)

@[simp] theorem appendLog_upt (r : UnitRec) (dest : Place) (s : State) : (appendLog r dest s).upt = s.upt := by
  unfold appendLog
  split
  · exact raiseLogFactors_induct (motive := fun t => t.upt = s.upt) rfl (fun _ _ _ h => h)
  · rfl

/-- The reservation becomes the last record of the log (R156). -/
theorem appendLog_srt_of_mem {dest : Place} (h : r.no ∈ s.srt.reservations) : (appendLog r dest s).srt = { s.srt with
    log := s.srt.log ++ [r.logRec dest s.now], reservations := s.srt.reservations.filter (fun v => v ≠ r.no) } := by
  rw [appendLog, if_pos h]
  exact raiseLogFactors_srt _

@[simp] theorem findUnit_appendLog {dest : Place} : findUnit u (appendLog r dest s) = findUnit u s :=
  findUnit_congr (by rw [appendLog_upt]) u

@[simp] theorem countRetired_srt (r : UnitRec) (dest : Place) (s : State) : (countRetired r dest s).srt = s.srt := by
  unfold countRetired; split <;> rfl

theorem countRetired_hsc (r : UnitRec) (dest : Place) (s : State) : (countRetired r dest s).hsc = s.hsc := by
  unfold countRetired; split <;> rfl

/-- The counting of a retired unit changes nothing in the table but the counters. -/
theorem countRetired_upt (r : UnitRec) (dest : Place) (s : State) :
    (countRetired r dest s).upt = { s.upt with counters := (countRetired r dest s).upt.counters } := by
  unfold countRetired; split <;> rfl

theorem unitAt_countRetired (dest : Place) (sp : Spot) : unitAt sp (countRetired r dest s) = unitAt sp s :=
  unitAt_congr (by rw [countRetired_upt]) (by rw [countRetired_upt]) (by rw [countRetired_upt])
    (by rw [countRetired_hsc]) sp

/-- Neither the created nor the lost units are counted again at a retirement. -/
theorem countRetired_created_lost (r : UnitRec) (dest : Place) (s : State) :
    (countRetired r dest s).upt.counters.created = s.upt.counters.created
      ∧ (countRetired r dest s).upt.counters.lost = s.upt.counters.lost := by
  unfold countRetired; split <;> exact ⟨rfl, rfl⟩

theorem countRetired_chute (r : UnitRec) (s : State) :
    (countRetired r .chute s).upt.counters.chute = satInc s.upt.counters.chute := rfl

theorem countRetired_binned {c : Category} {purged : Bool} (st : OutStation) (p : Pocket) (s : State)
    (h : r.route = some (.final c purged)) :
    (countRetired r (.output st p) s).upt.counters.binned[c] = satInc s.upt.counters.binned[c] := by
  simp [countRetired, h, countBinned]

theorem retire_of_found {dest : Place} (h : findUnit u s = some r) :
    retire u dest s = dropUnit u (countRetired r dest (leaveSpot u (appendLog r dest s))) := by simp [retire, h]

theorem retire_srt {dest : Place} (h : findUnit u s = some r) :
    (retire u dest s).srt = (appendLog r dest s).srt := by simp [retire_of_found h]

theorem retire_counters {dest : Place} (h : findUnit u s = some r) : (retire u dest s).upt.counters =
    (countRetired r dest (leaveSpot u (appendLog r dest s))).upt.counters := by simp [retire_of_found h]

/-- The spot of a retired unit is empty. -/
theorem unitAt_retire {dest : Place} {sp : Spot} (h : findUnit u s = some r) (hp : r.place = some sp) :
    unitAt sp (retire u dest s) = 0 := by
  have hdrop : ∀ t, unitAt sp (dropUnit u t) = unitAt sp t := fun t => unitAt_congr rfl rfl rfl rfl sp
  rw [retire_of_found h, hdrop, unitAt_countRetired, unitAt_leaveSpot (by simpa using h) hp]

/-- Settles O45: the log by `appendLog_srt_of_mem`, the counters by the lemmas about `countRetired`. -/
theorem retirementMovesTheRecordToTheLog : Obligations.RetirementMovesTheRecordToTheLog := by
  intro u r dest s h hres
  have hno : r.no = u := findUnit_no h
  have hsrt := (retire_srt (dest := dest) h).trans (appendLog_srt_of_mem (dest := dest) (hno ▸ hres))
  have hcount := retire_counters (dest := dest) h
  obtain ⟨hcreated, hlost⟩ := countRetired_created_lost r dest (leaveSpot u (appendLog r dest s))
  refine ⟨by rw [hsrt], by simp [hsrt, hno], ?_, fun sp hp => unitAt_retire h hp, ?_, ?_, ?_, ?_⟩
  · rw [retire_of_found h, findUnit_dropUnit_same]
  · rintro rfl
    rw [hcount, countRetired_chute, leaveSpot_counters, appendLog_upt]
  · rintro st pocket c purged rfl hroute
    rw [hcount, countRetired_binned st pocket _ hroute, leaveSpot_counters, appendLog_upt]
  · rw [hcount, hcreated, leaveSpot_counters, appendLog_upt]
  · rw [hcount, hlost, leaveSpot_counters, appendLog_upt]

end Sys2Proof.Machine
end

section
/-! PROOF. What cancellations leave as they are (R71): the records of LOST units, the sequencers' timers, the sockets
that are not RESERVED and the orders of the queues, of which they only take some away. Then the loss of a unit (R14). -/
namespace Sys2Proof.Machine

variable {r s t w : State}

/-! ### Changes outside the table, the planner, the sockets and the sequencers -/

/-- The unit table, the planner, the heads and sockets and the sequencers of s are those of r. -/
structure SameTable (r s : State) : Prop where
  upt : s.upt = r.upt
  xpl : s.xpl = r.xpl
  hsc : s.hsc = r.hsc
  gsqL : s.gsqL = r.gsqL
  gsqU : s.gsqU = r.gsqU

theorem SameTable.refl (s : State) : SameTable s s := ⟨rfl, rfl, rfl, rfl, rfl⟩

theorem SameTable.trans (a : SameTable r s) (b : SameTable s t) : SameTable r t :=
  ⟨b.upt.trans a.upt, b.xpl.trans a.xpl, b.hsc.trans a.hsc, b.gsqL.trans a.gsqL, b.gsqU.trans a.gsqU⟩

theorem SameTable.gsq_eq (h : SameTable r s) (g : Gantry) : gsq g s = gsq g r := by
  cases g
  · exact h.gsqL
  · exact h.gsqU

theorem SameTable.queue_eq (h : SameTable r s) (g : Gantry) : queue g s = queue g r := by
  cases g <;> simp only [queue, h.xpl]

theorem SameTable.findUnit_eq (h : SameTable r s) (u : UnitNo) : findUnit u s = findUnit u r :=
  findUnit_congr (by rw [h.upt]) u

theorem raise_same (f : Factor) (arg : List Byte) (h : SameTable r s) : SameTable r (raise f arg s) :=
  h.trans ⟨rfl, rfl, rfl, rfl, rfl⟩

theorem modLtc_same (f : Ltc → Ltc) (h : SameTable r s) : SameTable r (modLtc f s) := h.trans ⟨rfl, rfl, rfl, rfl, rfl⟩

theorem modFsc_same (f : Fsc → Fsc) (h : SameTable r s) : SameTable r (modFsc f s) := h.trans ⟨rfl, rfl, rfl, rfl, rfl⟩

theorem modSrt_same (f : Srt → Srt) (h : SameTable r s) : SameTable r (modSrt f s) := h.trans ⟨rfl, rfl, rfl, rfl, rfl⟩

theorem modOut_same (st : OutStation) (f : OutRec → OutRec) (h : SameTable r s) : SameTable r (modOut st f s) :=
  h.trans ⟨rfl, rfl, rfl, rfl, rfl⟩

theorem modIn_same (st : Side) (f : InStation → InStation) (h : SameTable r s) : SameTable r (modIn st f s) :=
  h.trans ⟨modIn_upt .., modIn_xpl .., modIn_hsc .., modIn_gsqL .., modIn_gsqU ..⟩

theorem checkEmpty_same (h : SameTable r s) : SameTable r (checkEmpty s) := by
  unfold checkEmpty; split
  · exact raise_same _ _ (modLtc_same _ h)
  · exact h

theorem inputDone_same (h : SameTable r s) : SameTable r (inputDone s) := by
  unfold inputDone; split
  · exact checkEmpty_same (raise_same _ _ (modLtc_same _ h))
  · exact h

theorem handOver_same (st : Side) (h : SameTable r s) : SameTable r (handOver st s) := by
  unfold handOver
  repeat' split
  · exact inputDone_same h
  · exact h
  · exact modFsc_same _ (modIn_same _ _ h)
  · exact raise_same _ _ (modFsc_same _ h)

theorem spendStation_same (st : Side) (h : SameTable r s) : SameTable r (spendStation st s) := by
  unfold spendStation; exact modIn_same _ _ (raise_same _ _ h)

theorem trayCountEnds_same (st : Side) (h : SameTable r s) : SameTable r (trayCountEnds st s) := by
  have h' := modFsc_same (fun f => { f with starved := false }) (inputDone_same h)
  unfold trayCountEnds; dsimp only; split
  · exact spendStation_same _ (modIn_same _ _ h')
  · exact h'

theorem stepTrayCounter_same (st : Side) (h : SameTable r s) : SameTable r (stepTrayCounter st s) := by
  unfold stepTrayCounter
  dsimp only
  repeat' split
  · exact h
  · exact trayCountEnds_same _ (modFsc_same _ h)
  · exact modFsc_same _ h
  · exact raise_same _ _ (modFsc_same _ h)
  · exact modFsc_same _ h

theorem spendIfDone_same (st : Side) (h : SameTable r s) : SameTable r (spendIfDone st s) := by
  unfold spendIfDone
  dsimp only
  repeat' split
  · exact stepTrayCounter_same _ (spendStation_same _ h)
  · exact spendStation_same _ h
  · exact h

theorem runDry_same (st : Side) (h : SameTable r s) : SameTable r (runDry st s) := by
  unfold runDry
  dsimp only
  split
  · exact handOver_same _ (modIn_same _ _ (raise_same _ _ h))
  · exact raise_same _ _ h

theorem endInputPick_same (st : Side) (e : PickEnd) (h : SameTable r s) : SameTable r (endInputPick st e s) := by
  unfold endInputPick
  dsimp only
  apply spendIfDone_same
  split
  · exact runDry_same _ (modIn_same _ _ h)
  · exact modIn_same _ _ h

/-- The counts of an output station at the end of a placement (R153). -/
def OutRec.endPlace (filled : Bool) (x : OutRec) : OutRec :=
  { x with
    pending := x.pending - 1
    filled := if filled then x.filled + 1 else x.filled
    skipped := if filled then x.skipped else x.skipped + 1 }

theorem endOutPlace_eq (st : OutStation) (b : Bool) (s : State) : endOutPlace st b s =
    if ((outStation st s).endPlace b).state = .finishing ∧ ((outStation st s).endPlace b).pending = 0 then
      modOut st (fun x => { x with state := .empty }) (raise .outSpent (n8 st.kind
        ++ n16 ((outStation st s).endPlace b).filled ++ n16 ((outStation st s).endPlace b).skipped)
        (modOut st (OutRec.endPlace b) s))
    else modOut st (OutRec.endPlace b) s := by
  rw [← outStation_modOut s st (OutRec.endPlace b)]
  rfl

theorem endOutPlace_same (st : OutStation) (b : Bool) (h : SameTable r s) : SameTable r (endOutPlace st b s) := by
  have hcounted := modOut_same st (OutRec.endPlace b) h
  rw [endOutPlace_eq]
  split
  · exact modOut_same _ _ (raise_same _ _ hcounted)
  · exact hcounted

theorem releaseLog_same (u : UnitNo) (h : SameTable r s) : SameTable r (releaseLog u s) := modSrt_same _ h

/-! ### Sockets that yield -/

/-- A socket that gives up at most its reservation and its unit. -/
structure SocketRec.Yields (a b : SocketRec) : Prop where
  state : b.state = a.state ∨ (a.state = .reserved ∧ b.state ≠ .testing)
  unit : b.unit = a.unit ∨ b.unit = 0

theorem SocketRec.Yields.refl (a : SocketRec) : a.Yields a := ⟨.inl rfl, .inl rfl⟩

theorem SocketRec.Yields.trans {a b c : SocketRec} (x : a.Yields b) (y : b.Yields c) : a.Yields c where
  state := by
    rcases y.state with hc | ⟨hb, hc⟩
    · rw [hc]; exact x.state
    · rcases x.state with ha | ⟨ha, _⟩
      · exact .inr ⟨ha ▸ hb, hc⟩
      · exact .inr ⟨ha, hc⟩
  unit := by
    rcases y.unit with hc | hc
    · rw [hc]; exact x.unit
    · exact .inr hc

/-! ### What cancellations leave as it is -/

/-- What of an order no cancellation changes. -/
def Order.face (o : Order) : Nat × OrderKind × OrderStatus := (o.id, o.kind, o.status)

/-- What cancellations keep between two states: the numbers and the counters of the table, every LOST record, which
never joins the ready list, all of a socket but its reservation and its unit, the timers of the sequencers with their
fault causes, and the orders that stay. -/
structure Cancels (r s : State) : Prop where
  numbers : s.upt.units.map UnitRec.no = r.upt.units.map UnitRec.no
  counters : s.upt.counters = r.upt.counters
  lost : ∀ u x, findUnit u r = some x → x.state = .lost → findUnit u s = some x
  unready : ∀ u x, findUnit u r = some x → x.state = .lost → u ∉ r.xpl.readyList → u ∉ s.xpl.readyList
  sockets : ∀ k : SocketIx, r.hsc.sockets[k].Yields s.hsc.sockets[k]
  timers : ∀ g, (gsq g s).timer = (gsq g r).timer ∧ (gsq g s).cause = (gsq g r).cause
  orders : ∀ g, ((queue g s).map Order.face).Sublist ((queue g r).map Order.face)

theorem Cancels.refl (s : State) : Cancels s s :=
  ⟨rfl, rfl, fun _ _ h _ => h, fun _ _ _ _ h => h, fun _ => .refl _, fun _ => ⟨rfl, rfl⟩, fun _ => .refl _⟩

theorem Cancels.trans (a : Cancels r s) (b : Cancels s t) : Cancels r t where
  numbers := b.numbers.trans a.numbers
  counters := b.counters.trans a.counters
  lost u x h hl := b.lost u x (a.lost u x h hl) hl
  unready u x h hl hr := b.unready u x (a.lost u x h hl) hl (a.unready u x h hl hr)
  sockets k := (a.sockets k).trans (b.sockets k)
  timers g := ⟨(b.timers g).1.trans (a.timers g).1, (b.timers g).2.trans (a.timers g).2⟩
  orders g := (b.orders g).trans (a.orders g)

theorem SameTable.cancels (h : SameTable r s) : Cancels r s where
  numbers := by rw [h.upt]
  counters := by rw [h.upt]
  lost u x hu _ := (h.findUnit_eq u).trans hu
  unready u x _ _ hr := by rw [h.xpl]; exact hr
  sockets k := by rw [h.hsc]; exact .refl _
  timers g := by rw [h.gsq_eq]; exact ⟨rfl, rfl⟩
  orders g := by rw [h.queue_eq]

theorem Cancels.same (h : Cancels r s) (hs : SameTable s t) : Cancels r t := h.trans hs.cancels

theorem Cancels.foldl {α : Type} {f : State → α → State} (hf : ∀ s a, Cancels r s → Cancels r (f s a)) :
    ∀ (l : List α) (s : State), Cancels r s → Cancels r (l.foldl f s)
  | [], _, h => h
  | a :: l, s, h => Cancels.foldl hf l (f s a) (hf s a h)

/-! ### Single changes -/

theorem modUpt_cancels (f : Upt → Upt) (h : Cancels r s)
    (hf : (f s.upt).units = s.upt.units ∧ (f s.upt).counters = s.upt.counters := by exact ⟨rfl, rfl⟩) :
    Cancels r (modUpt f s) :=
  h.trans { Cancels.refl s with
    numbers := by rw [modUpt_upt, hf.1]
    counters := hf.2
    lost := fun u x hu _ => (findUnit_congr hf.1 u).trans hu }

theorem modSoak_cancels (p : SoakIx) (f : SoakPos → SoakPos) (h : Cancels r s) : Cancels r (modSoak p f s) :=
  h.trans { Cancels.refl s with }

theorem modSocket_cancels (k : SocketIx) (f : SocketRec → SocketRec) (hf : s.hsc.sockets[k].Yields (f s.hsc.sockets[k]))
    (h : Cancels r s) : Cancels r (modSocket k f s) :=
  h.trans { Cancels.refl s with
    sockets := fun j => by
      by_cases e : j = k
      · subst e; rw [modSocket_same]; exact hf
      · rw [modSocket_other s k j f e]; exact .refl _ }

theorem gsq_modXpl (g : Gantry) (f : Xpl → Xpl) (s : State) : gsq g (modXpl f s) = gsq g s := by cases g <;> rfl

theorem gsq_modQueue (g k : Gantry) (f : List Order → List Order) (s : State) : gsq g (modQueue k f s) = gsq g s := by
  cases g <;> cases k <;> rfl

theorem readyList_modQueue (g : Gantry) (f : List Order → List Order) (s : State) :
    (modQueue g f s).xpl.readyList = s.xpl.readyList := by cases g <;> rfl

theorem queue_modQueue_other {g k : Gantry} (f : List Order → List Order) (s : State) (h : k ≠ g) :
    queue k (modQueue g f s) = queue k s := by
  cases g <;> cases k <;> first | rfl | exact absurd rfl h

theorem modXpl_cancels (f : Xpl → Xpl) (h : Cancels r s)
    (hr : ∀ u x, findUnit u s = some x → x.state = .lost → u ∉ s.xpl.readyList → u ∉ (f s.xpl).readyList)
    (hq : ∀ g, queue g (modXpl f s) = queue g s) : Cancels r (modXpl f s) :=
  h.trans { Cancels.refl s with
    unready := hr
    timers := fun g => by rw [gsq_modXpl]; exact ⟨rfl, rfl⟩
    orders := fun g => by rw [hq g] }

theorem modQueue_cancels (g : Gantry) (f : List Order → List Order)
    (hf : ∀ l, ((f l).map Order.face).Sublist (l.map Order.face)) (h : Cancels r s) : Cancels r (modQueue g f s) :=
  h.trans { Cancels.refl s with
    numbers := by rw [modQueue_upt]
    counters := by rw [modQueue_upt]
    lost := fun u x hu _ => (findUnit_congr (by rw [modQueue_upt]) u).trans hu
    unready := fun u x _ _ hr => by rw [readyList_modQueue]; exact hr
    sockets := fun k => by rw [modQueue_hsc]; exact .refl _
    timers := fun k => by rw [gsq_modQueue]; exact ⟨rfl, rfl⟩
    orders := fun k => by
      by_cases e : k = g
      · subst e; rw [queue_modQueue]; exact hf _
      · rw [queue_modQueue_other f s e] }

theorem modGsq_cancels (g : Gantry) (f : Gsq → Gsq) (hf : ∀ q, (f q).timer = q.timer ∧ (f q).cause = q.cause)
    (h : Cancels r s) : Cancels r (modGsq g f s) :=
  h.trans { Cancels.refl s with
    numbers := by rw [modGsq_upt]
    counters := by rw [modGsq_upt]
    lost := fun u x hu _ => (findUnit_congr (by rw [modGsq_upt]) u).trans hu
    unready := fun u x _ _ hr => by rw [modGsq_xpl]; exact hr
    sockets := fun k => by rw [modGsq_hsc]; exact .refl _
    timers := fun k => by
      by_cases e : k = g
      · subst e; rw [gsq_modGsq]; exact hf _
      · rw [gsq_modGsq_other s g k f e]; exact ⟨rfl, rfl⟩
    orders := fun k => by rw [queue_modGsq] }

/-- A change of the records that are not LOST. -/
theorem modHeld_cancels (u : UnitNo) (f : UnitRec → UnitRec) (h : Cancels r s)
    (hf : ∀ x, (f x).no = x.no := by intro; rfl) : Cancels r (modHeld u f s) := by
  have hno : ∀ x : UnitRec, (if x.state = .lost then x else f x).no = x.no := fun x => by split <;> simp [hf]
  refine h.trans { Cancels.refl s with numbers := ?_, lost := ?_ }
  · simp only [modHeld, modUnit_upt, List.map_map]
    refine List.map_congr_left fun x _ => ?_
    simp only [Function.comp]
    split <;> simp [hno]
  · intro v x hv hl
    rw [modHeld, findUnit_modUnit s u v _ hno, hv]
    simp [hl]

/-! ### Releases -/

theorem SocketRec.yields_vacate {a : SocketRec} (h : a.state = .reserved) : a.Yields a.vacate where
  state := .inr ⟨h, by simp only [SocketRec.vacate]; split <;> simp⟩
  unit := .inr rfl

theorem releaseSocket_cancels (k : SocketIx) (h : Cancels r s) : Cancels r (releaseSocket k s) := by
  unfold releaseSocket; split
  · rename_i hr; exact modSocket_cancels _ _ (SocketRec.yields_vacate hr) h
  · exact h

theorem releaseSoak_cancels (p : SoakIx) (h : Cancels r s) : Cancels r (releaseSoak p s) := by
  unfold releaseSoak; split
  · exact modSoak_cancels _ _ h
  · exact h

theorem releaseOrder_cancels (o : Order) (h : Cancels r s) : Cancels r (releaseOrder o s) := by
  unfold releaseOrder; split
  · exact h
  · exact releaseSocket_cancels _ h
  · exact releaseSoak_cancels _ h
  · exact h.same (releaseLog_same _ (endOutPlace_same _ _ (.refl s)))
  · exact h.same (releaseLog_same _ (.refl s))

theorem removeOrder_cancels (g : Gantry) (id : Nat) (h : Cancels r s) : Cancels r (removeOrder g id s) :=
  modQueue_cancels _ _ (fun _ => List.filter_sublist.map _) h

theorem dropOrder_cancels (g : Gantry) (o : Order) (h : Cancels r s) : Cancels r (dropOrder g o s) :=
  releaseOrder_cancels _ (removeOrder_cancels _ _ h)

theorem setStageHead_cancels (n : NozzleIx) (x : Option HeadIx) (h : Cancels r s) : Cancels r (setStageHead n x s) :=
  modXpl_cancels _ h (fun _ _ _ _ hr => hr) (fun g => by cases g <;> rfl)

theorem unmask_cancels (n : NozzleIx) (h : Cancels r s) : Cancels r (unmask n s) := by
  refine modQueue_cancels _ _ (fun _ => List.filter_sublist.map _) (modQueue_cancels _ _ (fun l => ?_) h)
  rw [List.map_map]
  have hface : ∀ o ∈ l, (Order.face ∘ fun o => if o.kind = .inspect then
      { o with mask := o.mask &&& ~~~(BitVec.twoPow 4 n.val) } else o) o = o.face := fun o _ => by
    simp only [Function.comp]; split <;> rfl
  rw [List.map_congr_left hface]

/-- A LOST unit does not join the ready list. -/
theorem addReady_cancels (u : UnitNo) (h : Cancels r s) : Cancels r (addReady u s) := by
  unfold addReady
  split
  · rename_i x hx
    split
    · rename_i hc
      refine modXpl_cancels _ h (fun v y hv hl hr => ?_) (fun g => by cases g <;> rfl)
      have hne : v ≠ u := by
        rintro rfl
        have : x = y := by simpa [hx] using hv
        simp_all
      simp only [List.mem_append, List.mem_cons, not_or]
      exact ⟨fun hm => hr ((List.takeWhile_sublist _).subset hm), hne,
        fun hm => hr ((List.dropWhile_sublist _).subset hm)⟩
    · exact h
  · exact h

/-! ### Cancellations (R71) -/

theorem pickCancelled_cancels (g : Gantry) (o : Order) (h : Cancels r s) : Cancels r (pickCancelled g o s) := by
  unfold pickCancelled; split
  · exact (modUpt_cancels _ h).same (endInputPick_same _ _ (.refl _))
  · exact addReady_cancels _ (modHeld_cancels _ _ h)
  · exact modHeld_cancels _ _ h

theorem cancelPick_cancels (g : Gantry) (o : Order) (h : Cancels r s) : Cancels r (cancelPick g o s) := by
  have h' := Cancels.foldl (fun s p => dropOrder_cancels (s := s) g p) (placesOf g o.nozzle s) _
    (dropOrder_cancels g o h)
  unfold cancelPick; dsimp only; split
  · exact pickCancelled_cancels _ _ (setStageHead_cancels _ _ (unmask_cancels _ h'))
  · exact pickCancelled_cancels _ _ h'

theorem placeEffect_cancels (g : Gantry) (o : Order) (h : Cancels r s) : Cancels r (placeEffect g o s) := by
  unfold placeEffect placeCancelled
  repeat' split
  · exact h
  · exact modHeld_cancels _ _ h
  · exact setStageHead_cancels _ _ (modHeld_cancels _ _ h)
  all_goals exact modHeld_cancels _ _ h

theorem inspectCancelledFor_cancels (n : NozzleIx) (h : Cancels r s) : Cancels r (inspectCancelledFor s n) := by
  unfold inspectCancelledFor; dsimp only
  split <;> exact modHeld_cancels _ _ (setStageHead_cancels _ _ h)

theorem cancelOrder_cancels (g : Gantry) (o : Order) (h : Cancels r s) : Cancels r (cancelOrder g o s) := by
  unfold cancelOrder
  repeat' split
  · exact cancelPick_cancels _ _ h
  · exact Cancels.foldl (fun _ _ => inspectCancelledFor_cancels _) _ _ (dropOrder_cancels _ _ h)
  · exact cancelPick_cancels _ _ h
  · exact placeEffect_cancels _ _ (dropOrder_cancels _ _ h)
  · exact dropOrder_cancels _ _ h

theorem cancelOne_cancels (g : Gantry) (id : Nat) (h : Cancels r s) : Cancels r (cancelOne g s id) := by
  unfold cancelOne
  split
  · split
    · exact cancelOrder_cancels _ _ h
    · exact h
  · exact h

theorem setGantry_cancels (g : Gantry) (st : GantryState) (h : Cancels r s) : Cancels r (setGantry g st s) :=
  modGsq_cancels _ _ (fun _ => ⟨rfl, rfl⟩) h

theorem afterCancel_cancels (g : Gantry) (before : State) (h : Cancels r s) : Cancels r (afterCancel g before s) := by
  unfold afterCancel
  repeat' split
  · exact setGantry_cancels _ _ (h.same ⟨rfl, rfl, rfl, rfl, rfl⟩)
  · exact setGantry_cancels _ _ h
  · exact h

theorem cancelWhere_cancels (g : Gantry) (p : Order → Bool) (h : Cancels r s) : Cancels r (cancelWhere g p s) :=
  afterCancel_cancels _ _ (Cancels.foldl (fun _ _ => cancelOne_cancels _ _) _ _ h)

theorem releaseTarget_cancels (x : Option Target) (h : Cancels r s) : Cancels r (releaseTarget x s) := by
  unfold releaseTarget; split
  · exact releaseSocket_cancels _ h
  · exact releaseSoak_cancels _ h
  · exact h

/-! ### The loss of a unit (R14) -/

/-- The record of a unit that becomes LOST. -/
def UnitRec.lose (x : UnitRec) : UnitRec :=
  { x with state := .lost, lastPlace := x.place, place := none, target := none }

/-- A unit has left its spot with a LOST record. -/
def leaveLost (u : UnitNo) (s : State) : State := s |> leaveSpot u |> modUnit u UnitRec.lose

/-- The steps of a loss before its orders are cancelled (R14, steps 1 to 5). -/
def markLost (u : UnitNo) (x : UnitRec) (s : State) : State :=
  s |> leaveLost u |> releaseTarget x.target
    |> modCounters (fun c => { c with lost := satInc c.lost })
    |> raise .unitLost (be32 u)
    |> unready u

variable {u : UnitNo} {x : UnitRec}

theorem loseUnit_of_found (h : findUnit u s = some x) (hx : x.state ≠ .lost) : loseUnit u s =
    cancelWhere .unload (fun o => o.unit = .unit u)
      (cancelWhere .load (fun o => o.unit = .unit u) (markLost u x s)) := by
  simp only [loseUnit, h, if_neg hx]
  rfl

/-- A unit that is LOST already, or that has no record, is not lost again. -/
theorem loseUnit_eq_self (h : ∀ x, findUnit u s = some x → x.state = .lost) : loseUnit u s = s := by
  unfold loseUnit
  split
  · rename_i x hx; exact if_pos (h x hx)
  · rfl

theorem findUnit_leaveLost (h : findUnit u s = some x) : findUnit u (leaveLost u s) = some x.lose :=
  findUnit_modUnit_same (by simpa using h)

theorem leaveLost_numbers (u : UnitNo) (s : State) :
    (leaveLost u s).upt.units.map UnitRec.no = s.upt.units.map UnitRec.no := by
  simp only [leaveLost, modUnit_upt, leaveSpot_units, List.map_map]
  refine List.map_congr_left fun x _ => ?_
  simp only [Function.comp]
  split <;> rfl

theorem findUnit_markLost (h : findUnit u s = some x) : findUnit u (markLost u x s) = some x.lose :=
  (releaseTarget_cancels x.target (.refl _)).lost u _ (findUnit_leaveLost h) rfl

theorem markLost_numbers (u : UnitNo) (x : UnitRec) (s : State) :
    (markLost u x s).upt.units.map UnitRec.no = s.upt.units.map UnitRec.no :=
  (releaseTarget_cancels x.target (.refl _)).numbers.trans (leaveLost_numbers u s)

theorem markLost_lost (u : UnitNo) (x : UnitRec) (s : State) :
    (markLost u x s).upt.counters.lost = satInc s.upt.counters.lost := by
  have hc := (releaseTarget_cancels x.target (.refl (leaveLost u s))).counters
  have hl : (leaveLost u s).upt.counters = s.upt.counters := leaveSpot_counters u s
  rw [← hl, ← hc]
  rfl

theorem raise_raised (f : Factor) (arg : List Byte) (s : State) :
    (raise f arg s).clu.raised.getLsbD f.number.val = true := by
  have hlt : f.number.val < 32 := by omega
  simp [Clu.raise, Factor.bit, hlt]

theorem markLost_raised (u : UnitNo) (x : UnitRec) (s : State) :
    (markLost u x s).clu.raised.getLsbD Factor.unitLost.number.val = true := by
  have hclu : ∀ t, (unready u t).clu = t.clu := fun _ => rfl
  rw [markLost, hclu, raise_raised]

theorem markLost_unready (u : UnitNo) (x : UnitRec) (s : State) : u ∉ (markLost u x s).xpl.readyList := by
  simp [markLost, unready]

theorem loseUnit_cancels (h : findUnit u s = some x) (hx : x.state ≠ .lost) :
    Cancels (markLost u x s) (loseUnit u s) := by
  rw [loseUnit_of_found h hx]
  exact cancelWhere_cancels _ _ (cancelWhere_cancels _ _ (.refl _))

theorem findUnit_loseUnit (h : findUnit u s = some x) (hx : x.state ≠ .lost) :
    findUnit u (loseUnit u s) = some x.lose := (loseUnit_cancels h hx).lost u _ (findUnit_markLost h) rfl

/-- A socket under a unit that leaves it gives up that unit alone. -/
theorem leaveSpot_yields (u : UnitNo) (s : State) (k : SocketIx) :
    s.hsc.sockets[k].Yields (leaveSpot u s).hsc.sockets[k] := by
  refine leaveSpot_induct (motive := fun t => s.hsc.sockets[k].Yields t.hsc.sockets[k]) (.refl _) fun sp => ?_
  rw [setAt_sockets]
  split
  · exact ⟨.inl rfl, .inr rfl⟩
  · exact .refl _

theorem loseUnit_yields (u : UnitNo) (s : State) (k : SocketIx) :
    s.hsc.sockets[k].Yields (loseUnit u s).hsc.sockets[k] := by
  by_cases hlost : ∀ x, findUnit u s = some x → x.state = .lost
  · rw [loseUnit_eq_self hlost]; exact .refl _
  · push Not at hlost
    obtain ⟨x, h, hx⟩ := hlost
    have hrelease := (releaseTarget_cancels x.target (.refl (leaveLost u s))).sockets k
    exact ((leaveSpot_yields u s k).trans hrelease).trans ((loseUnit_cancels h hx).sockets k)

/-- Settles O44: the facts about `markLost`, which the cancellations leave as they are. -/
theorem lossKeepsTheRecord : Obligations.LossKeepsTheRecord := by
  intro u x s h hx
  have hc := loseUnit_cancels h hx
  refine ⟨findUnit_loseUnit h hx, ?_, ?_, ?_, ?_⟩
  · rw [hc.counters, markLost_lost]
  · rw [loseUnit_of_found h hx]
    exact (cancelWhere_keeps _ _ (cancelWhere_keeps _ _ (.refl _))).raised _ (markLost_raised u x s)
  · exact hc.unready u _ (findUnit_markLost h) rfl (markLost_unready u x s)
  · exact hc.numbers.trans (markLost_numbers u x s)

end Sys2Proof.Machine
end

section
/-! PROOF. A DONE frame at a sequencer: the bytes of a frame are read back as it (R173, R99), and the frame is taken by
the order in flight (R101, R102, R110). -/
namespace Sys2Proof.Machine

variable {s : State} {g : Gantry} {o : Order}

/-! ### The receiver -/

/-- The two bytes of a field give it back. -/
theorem be16_join (w : Half) : w.extractLsb' 8 8 ++ w.extractLsb' 0 8 = w := by
  rw [BitVec.extractLsb'_append_extractLsb'_eq_extractLsb' (by decide)]
  simp

theorem Frame.body_eq (f : Frame) :
    f.body = be16 (BitVec.ofNat 16 f.payload.length) ++ [f.kind, f.tag] ++ f.payload := rfl

theorem Frame.body_length (f : Frame) : f.body.length = f.payload.length + 4 := by simp [Frame.body_eq, be16]

theorem Frame.bytes_length (f : Frame) : f.bytes.length = f.payload.length + 7 := by
  simp [Frame.bytes, Frame.body_length, be16]

/-- A field read from the front part of some bytes that holds it is that of all the bytes. -/
theorem rd8_of_prefix {a b : List Byte} (h : a <+: b) {i : Nat} (hi : i < a.length) : rd8 a i = rd8 b i := by
  obtain ⟨c, rfl⟩ := h
  simp [rd8, List.getD_eq_getElem?_getD, List.getElem?_append_left hi]

theorem statedLength_of_prefix {f : Frame} {buf : List Byte} (hf : f.payload.length ≤ 240) (h : buf <+: f.bytes)
    (h3 : 3 ≤ buf.length) : statedLength buf = f.payload.length := by
  have hlen : rd16 f.bytes 1 = BitVec.ofNat 16 f.payload.length := be16_join _
  rw [statedLength, rd16, rd8_of_prefix h (by omega), rd8_of_prefix h (by omega), ← rd16, hlen, BitVec.toNat_ofNat]
  omega

/-- A frame is not closed before its last byte. -/
theorem closeFrame_of_prefix {f : Frame} {buf : List Byte} (hf : f.payload.length ≤ 240) (h : buf <+: f.bytes)
    (hlt : buf.length < f.bytes.length) : closeFrame buf = (buf, none) := by
  have hbytes := f.bytes_length
  have hlen : 3 ≤ buf.length → statedLength buf = f.payload.length := statedLength_of_prefix hf h
  rw [closeFrame, if_neg, if_neg]
  · rintro ⟨h3, he⟩
    have := hlen h3
    omega
  · rintro ⟨h3, he⟩
    have := hlen h3.ge
    omega

theorem Frame.rd16_check (f : Frame) : rd16 f.bytes (f.payload.length + 5) = crc16 f.body := by
  have hget : ∀ i, rd8 f.bytes (f.payload.length + 5 + i) = rd8 (be16 (crc16 f.body)) i := fun i => by
    have : f.payload.length + 5 + i = (f.body.length + i) + 1 := by rw [f.body_length]; omega
    simp [this, rd8, Frame.bytes, List.getD_eq_getElem?_getD, List.getElem?_append_right]
  rw [rd16, hget 1, show f.payload.length + 5 = f.payload.length + 5 + 0 from rfl, hget 0]
  exact be16_join _

/-- The last byte of a frame closes it with its check right. -/
theorem closeFrame_bytes {f : Frame} (hf : f.payload.length ≤ 240) : closeFrame f.bytes = ([], some f) := by
  have hbytes := f.bytes_length
  have hlen := statedLength_of_prefix hf (List.prefix_refl _) (by omega)
  have hbody : (f.bytes.drop 1).take (f.payload.length + 4) = f.body := by
    rw [← f.body_length]; exact List.take_left
  rw [closeFrame, if_neg (by omega), if_pos (by omega), hlen]
  simp only [hbody, f.rd16_check, if_true]
  rfl

/-- From inside a frame, its remaining bytes complete it. -/
theorem rxBytes_of_rest {f : Frame} (hf : f.payload.length ≤ 240) :
    ∀ (rest buf : List Byte), buf ≠ [] → rest ≠ [] → buf ++ rest = f.bytes → rxBytes buf rest = ([], [f])
  | [], _, _, hr, _ => absurd rfl hr
  | b :: rest, buf, hb, _, he => by
    have hjoin : (buf ++ [b]) ++ rest = f.bytes := by simpa using he
    have hbyte : rxByte buf b = closeFrame (buf ++ [b]) := by
      obtain ⟨c, cs, rfl⟩ := List.exists_cons_of_ne_nil hb; rfl
    cases rest with
    | nil =>
      rw [List.append_nil] at hjoin
      simp [rxBytes, hbyte, hjoin, closeFrame_bytes hf]
    | cons c rest =>
      have hopen : closeFrame (buf ++ [b]) = (buf ++ [b], none) :=
        closeFrame_of_prefix hf ⟨_, hjoin⟩ (by rw [← hjoin]; simp)
      rw [rxBytes, hbyte, hopen]
      exact rxBytes_of_rest hf (c :: rest) (buf ++ [b]) (by simp) (by simp) hjoin

/-- A hunting receiver reads the bytes of a frame as that frame (R173). -/
theorem rxBytes_frame {f : Frame} (hf : f.payload.length ≤ 240) : rxBytes [] f.bytes = ([], [f]) :=
  rxBytes_of_rest hf (f.body ++ be16 (crc16 f.body)) [0xA5] (by simp) (by simp [be16]) rfl

theorem LinkRx.take_frame {f : Frame} {rx : LinkRx} (now : Time) (hrx : rx.buf = []) (hf : f.payload.length ≤ 240) :
    rx.take now f.bytes = ({ buf := [], last := now }, [f]) := by
  have hne : f.bytes ≠ [] := List.cons_ne_nil _ _
  simp [LinkRx.take, hrx, rxBytes_frame hf, hne]

/-! ### The order in flight -/

theorem exec_done_frame {f : Frame} (hr : s.pins.resetLow = false) (hrx : (gsq g s).rx.buf = [])
    (hf : f.payload.length ≤ 240) :
    exec (.done g f.bytes) s = .next (startTx (takeDone g (driveHunted g s) f)) := by
  have hbytes : driveBytes g f.bytes s = takeDone g (driveHunted g s) f := by
    simp only [driveBytes, LinkRx.take_frame s.now hrx hf, List.foldl_cons, List.foldl_nil, driveHunted]
  have hexec : exec (.done g f.bytes) s = .next (live (driveBytes g f.bytes) s) := rfl
  rw [hexec, live, hr, hbytes]
  rfl

theorem inFlight_of_issued (h : headOrder g s = some o) (ho : o.status = .issued) : inFlight g s = some o := by
  simp [inFlight, h, ho]

/-- A DONE that the order in flight takes: a fault of its link or drive, or its completion (R101, R102, R110). -/
theorem takeDone_of_issued {f : Frame} (hk : f.kind = 0xA1) (hh : headOrder g s = some o) (ho : o.status = .issued)
    (ht : f.tag = (gsq g s).tag) :
    (readDone o f.payload = none → takeDone g s f = faultStep g .badDone s)
    ∧ (readDone o f.payload = some .fault → takeDone g s f = faultStep g .drive s)
    ∧ (∀ r, readDone o f.payload = some r → r ≠ .fault →
      takeDone g s f = complete g o f.payload (r.fate o (rd8 f.payload 1)) s) := by
  refine ⟨fun h => ?_, fun h => ?_, fun r h hr => ?_⟩
  · simp [takeDone, hk, inFlight_of_issued hh ho, ho, ht, h]
  · simp [takeDone, hk, inFlight_of_issued hh ho, ho, ht, h]
  · cases r <;> simp_all [takeDone, inFlight_of_issued hh ho]

/-- A DONE at a hunting drive link, taken by the order in flight. -/
theorem exec_done_of_issued {f : Frame} (hr : s.pins.resetLow = false) (hrx : (gsq g s).rx.buf = [])
    (hk : f.kind = 0xA1) (hf : f.payload.length ≤ 240) (hh : headOrder g s = some o) (ho : o.status = .issued)
    (ht : f.tag = (gsq g s).tag) :
    (readDone o f.payload = none →
      exec (.done g f.bytes) s = .next (startTx (faultStep g .badDone (driveHunted g s))))
    ∧ (readDone o f.payload = some .fault →
      exec (.done g f.bytes) s = .next (startTx (faultStep g .drive (driveHunted g s))))
    ∧ (∀ r, readDone o f.payload = some r → r ≠ .fault → exec (.done g f.bytes) s
      = .next (startTx (complete g o f.payload (r.fate o (rd8 f.payload 1)) (driveHunted g s)))) := by
  have hh' : headOrder g (driveHunted g s) = some o := by rw [← hh, headOrder, driveHunted, queue_modGsq]; rfl
  have ht' : f.tag = (gsq g (driveHunted g s)).tag := by rw [ht, driveHunted, gsq_modGsq]
  obtain ⟨hbad, hfault, hdone⟩ := takeDone_of_issued hk hh' ho ht'
  rw [exec_done_frame hr hrx hf]
  exact ⟨fun h => by rw [hbad h], fun h => by rw [hfault h], fun r h hne => by rw [hdone r h hne]⟩

/-- A PICK or PLACE with result OK is admitted when the presence bit of its nozzle agrees (R101). -/
theorem readDone_pick_ok (mask : Byte) (h : o.kind = .pick) :
    readDone o [0, mask] = if mask.getLsbD o.nozzle.val then some .ok else none := by
  simp [readDone, rd8, DoneResult.ofCode, DoneResult.admitted, doneLength, presenceAgrees, presenceBit, h]

theorem readDone_place_ok (mask : Byte) (h : o.kind = .place) :
    readDone o [0, mask] = if mask.getLsbD o.nozzle.val then none else some .ok := by
  cases hb : mask.getLsbD o.nozzle.val <;>
    simp [readDone, rd8, DoneResult.ofCode, DoneResult.admitted, doneLength, presenceAgrees, presenceBit, h, hb]

/-! ### The steps of a completion (R102) -/

theorem releaseOrderZone_of_zone {z : HeadIx} (h : o.zone = some z) :
    releaseOrderZone g o s = releaseZone (gantryHolder g) z s := by simp [releaseOrderZone, h]

theorem releaseOrderZone_of_none (h : o.zone = none) : releaseOrderZone g o s = s := by simp [releaseOrderZone, h]

end Sys2Proof.Machine
end

section
/-! PROOF. A gantry that enters FAULT cancels every QUEUED order (R110, R71): what each cancellation takes out of its
queue, and that none of them is missed. -/
namespace Sys2Proof.Machine

variable {s t : State} {g : Gantry} {o p : Order}

/-! ### What a cancellation takes out of the queue -/

theorem releaseOrder_queue (o : Order) (g : Gantry) (s : State) : queue g (releaseOrder o s) = queue g s := by
  unfold releaseOrder
  split
  · rfl
  · unfold releaseSocket; split <;> cases g <;> rfl
  · unfold releaseSoak; split <;> cases g <;> rfl
  · exact (releaseLog_same _ (endOutPlace_same _ _ (.refl s))).queue_eq g
  · exact (releaseLog_same _ (.refl s)).queue_eq g

theorem queue_dropOrder (g : Gantry) (o : Order) (s : State) :
    queue g (dropOrder g o s) = (queue g s).filter (fun q => q.id ≠ o.id) := by
  rw [dropOrder, releaseOrder_queue, removeOrder, queue_modQueue]

/-- Of several orders dropped one after another none is left. -/
theorem mem_queue_dropOrders {x : Order} : ∀ (l : List Order) (s : State),
    x ∈ queue g (l.foldl (fun s p => dropOrder g p s) s) → x ∈ queue g s ∧ ∀ q ∈ l, x.id ≠ q.id
  | [], _, h => ⟨h, by simp⟩
  | q :: l, s, h => by
    obtain ⟨hx, hl⟩ := mem_queue_dropOrders l _ h
    simp only [queue_dropOrder, List.mem_filter, decide_eq_true_eq] at hx
    exact ⟨hx.1, List.forall_mem_cons.2 ⟨hx.2, hl⟩⟩

/-- An order that stays in a queue stood there with the same face before the cancellation. -/
theorem Cancels.exists_order (h : Cancels s t) {x : Order} (hx : x ∈ queue g t) :
    ∃ y ∈ queue g s, y.face = x.face := by
  simpa using (h.orders g).subset (List.mem_map_of_mem hx)

theorem Order.id_eq_of_face {x y : Order} (h : x.face = y.face) : x.id = y.id := congrArg Prod.fst h

theorem Order.kind_eq_of_face {x y : Order} (h : x.face = y.face) : x.kind = y.kind :=
  congrArg (fun f => f.2.1) h

theorem Order.status_eq_of_face {x y : Order} (h : x.face = y.face) : x.status = y.status :=
  congrArg (fun f => f.2.2) h

/-- A cancelled PICK leaves the queue, and so does every PLACE of its nozzle. -/
theorem cancelPick_removes {x : Order} (h : x ∈ queue g (cancelPick g p s)) :
    x.id ≠ p.id ∧ ∀ q ∈ placesOf g p.nozzle s, x.id ≠ q.id := by
  have hdropped : ∀ t, Cancels ((placesOf g p.nozzle s).foldl (fun s q => dropOrder g q s) (dropOrder g p s)) t →
      x ∈ queue g t → x.id ≠ p.id ∧ ∀ q ∈ placesOf g p.nozzle s, x.id ≠ q.id := by
    intro t ht hx
    obtain ⟨y, hy, hface⟩ := ht.exists_order hx
    obtain ⟨hy', hplaces⟩ := mem_queue_dropOrders _ _ hy
    simp only [queue_dropOrder, List.mem_filter, decide_eq_true_eq] at hy'
    rw [← Order.id_eq_of_face hface]
    exact ⟨hy'.2, hplaces⟩
  refine hdropped _ ?_ h
  unfold cancelPick; dsimp only; split
  · exact pickCancelled_cancels _ _ (setStageHead_cancels _ _ (unmask_cancels _ (.refl _)))
  · exact pickCancelled_cancels _ _ (.refl _)

/-- An order that is cancelled leaves its queue; where it is an INSPECT, that is the load queue. -/
theorem cancelOrder_removes (ho : o ∈ queue g s) (hi : o.kind = .inspect → g = .load) {x : Order}
    (hx : x ∈ queue g (cancelOrder g o s)) : x.id ≠ o.id := by
  have hdropped : ∀ t, Cancels (dropOrder g o s) t → x ∈ queue g t → x.id ≠ o.id := by
    intro t ht hx
    obtain ⟨y, hy, hface⟩ := ht.exists_order hx
    simp only [queue_dropOrder, List.mem_filter, decide_eq_true_eq] at hy
    rw [← Order.id_eq_of_face hface]
    exact hy.2
  unfold cancelOrder at hx
  split at hx
  · exact (cancelPick_removes hx).1
  · rename_i hk
    obtain rfl := hi hk
    exact hdropped _ (Cancels.foldl (fun _ _ => inspectCancelledFor_cancels _) _ _ (.refl _)) hx
  · rename_i hk
    split at hx
    · rename_i p hp
      have hn : p.nozzle = o.nozzle := by
        have := List.find?_some hp
        simp_all
      exact (cancelPick_removes hx).2 o (List.mem_filter.2 ⟨ho, by simp [hk, hn]⟩)
    · exact hdropped _ (placeEffect_cancels _ _ (.refl _)) hx
  · exact hdropped _ (.refl _) hx

/-! ### No QUEUED order is missed -/

/-- A queue whose orders are told apart by their ids, and in which only the load gantry has an INSPECT (R55). -/
structure QueueApart (g : Gantry) (s : State) : Prop where
  ids : ((queue g s).map Order.id).Nodup
  inspects : ∀ o ∈ queue g s, o.kind = .inspect → g = .load

theorem QueueApart.cancels (a : QueueApart g s) (h : Cancels s t) : QueueApart g t where
  ids := by
    have hsub := (h.orders g).map Prod.fst
    simp only [List.map_map] at hsub
    exact a.ids.sublist hsub
  inspects o ho hk := by
    obtain ⟨y, hy, hface⟩ := h.exists_order ho
    exact a.inspects y hy (Order.kind_eq_of_face hface ▸ hk)

theorem QueueApart.eq_of_id (a : QueueApart g s) {x y : Order} (hx : x ∈ queue g s) (hy : y ∈ queue g s)
    (h : x.id = y.id) : x = y := List.inj_on_of_nodup_map a.ids hx hy h

/-- After the cancellation of an id no QUEUED order has it. -/
theorem cancelOne_spec (a : QueueApart g s) (id : Nat) {x : Order} (hx : x ∈ queue g (cancelOne g s id))
    (hid : x.id = id) : x.status ≠ .queued := by
  unfold cancelOne at hx
  split at hx
  · rename_i o ho
    have hmem : o ∈ queue g s := List.mem_of_find?_eq_some ho
    have hoid : o.id = id := by simpa using List.find?_some ho
    split at hx
    · exact absurd (hid.trans hoid.symm) (cancelOrder_removes hmem (a.inspects o hmem) hx)
    · rename_i hst
      rw [a.eq_of_id hx hmem (hid.trans hoid.symm)]
      exact hst
  · rename_i hnone
    exact absurd hid (by simpa using List.find?_eq_none.1 hnone x hx)

theorem cancelAll_spec : ∀ (ids : List Nat) (s : State), QueueApart g s →
    ∀ x ∈ queue g (ids.foldl (cancelOne g) s), x.id ∈ ids → x.status ≠ .queued
  | [], _, _, _, _, h => absurd h (by simp)
  | id :: ids, s, a, x, hx, hid => by
    have hrest : Cancels (cancelOne g s id) (ids.foldl (cancelOne g) (cancelOne g s id)) :=
      Cancels.foldl (fun _ _ => cancelOne_cancels _ _) _ _ (.refl _)
    rcases List.mem_cons.1 hid with hid | hid
    · obtain ⟨y, hy, hface⟩ := hrest.exists_order hx
      rw [← Order.status_eq_of_face hface]
      exact cancelOne_spec a id hy ((Order.id_eq_of_face hface).trans hid)
    · exact cancelAll_spec ids _ (a.cancels (cancelOne_cancels g id (.refl s))) x hx hid

theorem queue_setGantry (k : GantryState) : queue g (setGantry g k s) = queue g s := queue_modGsq s g g _

theorem queue_withdrawGantry : queue g (withdrawGantry g s) = queue g s := by cases g <;> rfl

theorem queue_afterCancel (before : State) : queue g (afterCancel g before s) = queue g s := by
  unfold afterCancel
  split
  · rw [queue_setGantry, queue_withdrawGantry]
  · split
    · exact queue_setGantry _
    · rfl

/-- A cancellation of all orders leaves none QUEUED (R71). -/
theorem cancelWhere_all_spec (a : QueueApart g s) :
    ∀ x ∈ queue g (cancelWhere g (fun _ => true) s), x.status ≠ .queued := by
  intro x hx
  rw [cancelWhere, queue_afterCancel, List.filter_true] at hx
  refine cancelAll_spec _ _ a x hx ?_
  obtain ⟨y, hy, hface⟩ :=
    (Cancels.foldl (r := s) (fun _ _ => cancelOne_cancels _ _) _ _ (.refl s)).exists_order hx
  exact Order.id_eq_of_face hface ▸ List.mem_map_of_mem hy

/-! ### The fault (R110) -/

/-- A fault before its cancellations: the order in flight is UNCERTAIN, the timer is stopped and the cause is kept. -/
def faulted (g : Gantry) (c : FaultCause) (s : State) : State :=
  (match inFlight g s with
    | some o => setStatus g o.id .uncertain s
    | none => s)
  |> modGsq g (fun q => { q with timer := none, cause := some c })
  |> raise .gantryFault (faultArg g c (inFlight g s))

theorem enterFault_eq (g : Gantry) (c : FaultCause) (s : State) :
    enterFault g c s = checkEmpty (setGantry g .fault (cancelWhere g (fun _ => true) (faulted g c s))) := rfl

theorem queue_faulted (c : FaultCause) : ∃ f : Order → Order, (∀ o, (f o).id = o.id ∧ (f o).kind = o.kind)
    ∧ queue g (faulted g c s) = (queue g s).map f := by
  have hraise : ∀ t, queue g (raise .gantryFault (faultArg g c (inFlight g s)) t) = queue g t := fun t =>
    (raise_same _ _ (.refl t)).queue_eq g
  unfold faulted
  rw [hraise, queue_modGsq]
  split
  · rename_i o _
    refine ⟨fun q => if q.id = o.id then { q with status := .uncertain } else q, fun q => ?_, queue_modQueue ..⟩
    dsimp only; split <;> exact ⟨rfl, rfl⟩
  · exact ⟨id, fun _ => ⟨rfl, rfl⟩, (List.map_id _).symm⟩

theorem gsq_faulted (c : FaultCause) :
    (gsq g (faulted g c s)).timer = none ∧ (gsq g (faulted g c s)).cause = some c := by
  unfold faulted
  rw [(raise_same _ _ (.refl _)).gsq_eq, gsq_modGsq]
  exact ⟨rfl, rfl⟩

theorem QueueApart.faulted (a : QueueApart g s) (c : FaultCause) : QueueApart g (faulted g c s) := by
  obtain ⟨f, hf, hq⟩ := queue_faulted (g := g) (s := s) c
  constructor
  · rw [hq, List.map_map, show Order.id ∘ f = Order.id from funext fun o => (hf o).1]
    exact a.ids
  · rw [hq]
    intro o ho hk
    obtain ⟨q, hmem, rfl⟩ := List.mem_map.1 ho
    exact a.inspects q hmem ((hf q).2 ▸ hk)

/-- A gantry in FAULT has its timer stopped and its cause, and keeps no QUEUED order (R110). -/
theorem enterFault_spec (c : FaultCause) (a : QueueApart g s) :
    (gsq g (enterFault g c s)).state = .fault ∧ (gsq g (enterFault g c s)).timer = none
    ∧ (gsq g (enterFault g c s)).cause = some c ∧ ∀ o ∈ queue g (enterFault g c s), o.status ≠ .queued := by
  have hcancel : Cancels (faulted g c s) (cancelWhere g (fun _ => true) (faulted g c s)) :=
    cancelWhere_cancels _ _ (.refl _)
  obtain ⟨htimer, hcause⟩ := gsq_faulted (g := g) (s := s) c
  rw [enterFault_eq, (checkEmpty_same (.refl _)).gsq_eq, (checkEmpty_same (.refl _)).queue_eq, queue_setGantry,
    setGantry, gsq_modGsq]
  exact ⟨rfl, (hcancel.timers g).1.trans htimer, (hcancel.timers g).2.trans hcause,
    cancelWhere_all_spec (a.faulted c)⟩

end Sys2Proof.Machine
end

section
/-! PROOF. The effects of a PICK and of a PLACE that are done (R103, R104). -/
namespace Sys2Proof.Machine

variable {s : State} {u : UnitNo} {r : UnitRec} {g : Gantry} {o : Order}

/-! ### Applying a fate -/

theorem applyFate_pick_done (p : List Byte) (h : o.kind = .pick) : applyFate g o p .done s = pickDone g o s := by
  simp [applyFate, h]

theorem applyFate_place_done (p : List Byte) (h : o.kind = .place) : applyFate g o p .done s = placeDone o s := by
  simp [applyFate, h]

theorem applyFate_inspect_done (p : List Byte) (h : o.kind = .inspect) :
    applyFate g o p .done s = inspectDone o p s := by simp [applyFate, h]

theorem applyFate_park_done (p : List Byte) (h : o.kind = .park) : applyFate g o p .done s = setParked g true s := by
  simp [applyFate, h]

theorem applyFate_noPart (p : List Byte) : applyFate g o p .noPart s = pickEmpty g o s := by
  simp [applyFate]

theorem applyFate_dropped (p : List Byte) : applyFate g o p .dropped s = placeDropped o s := by
  simp [applyFate]

theorem applyFate_notDone (p : List Byte) : applyFate g o p .notDone s = s := by
  simp [applyFate]

theorem Order.unitNo_of_unit (h : o.unit = .unit u) : o.unitNo = u := by simp [Order.unitNo, Order.unitNo?, h]

/-! ### The stations at the end of a pick (R42) -/

theorem inStation_congr {t : State} (h : t.fsc = s.fsc) (st : Side) : inStation st t = inStation st s := by
  cases st <;> simp only [inStation, h]

theorem checkEmpty_fsc (s : State) : (checkEmpty s).fsc = s.fsc := by
  unfold checkEmpty; split <;> rfl

theorem inputDone_fsc (s : State) : (inputDone s).fsc = s.fsc := by
  unfold inputDone; split
  · exact checkEmpty_fsc _
  · rfl

theorem inStation_modFsc (st : Side) (f : Fsc → Fsc) (s : State)
    (hf : (f s.fsc).stationA = s.fsc.stationA ∧ (f s.fsc).stationB = s.fsc.stationB := by exact ⟨rfl, rfl⟩) :
    inStation st (modFsc f s) = inStation st s := by
  cases st
  · exact hf.1
  · exact hf.2

/-- A change of the other station leaves a station as it is. -/
theorem inStation_modIn_of_other (st : Side) (f : InStation → InStation) (s : State) :
    inStation st (modIn st.other f s) = inStation st s := by cases st <;> rfl

/-- The end of the counted trays changes at most the other station. -/
theorem inStation_trayCountEnds (st : Side) (s : State) : inStation st (trayCountEnds st s) = inStation st s := by
  have hstart : inStation st (modFsc (fun f => { f with starved := false }) (inputDone s)) = inStation st s :=
    (inStation_modFsc st _ _).trans (inStation_congr (inputDone_fsc s) st)
  have hspend : ∀ t, inStation st (spendStation st.other t) = inStation st t := fun t =>
    inStation_modIn_of_other st _ _
  have hdisarm : ∀ t, inStation st (disarmStation st.other t) = inStation st t := fun t =>
    inStation_modIn_of_other st _ _
  unfold trayCountEnds; dsimp only; split
  · rw [hspend, hdisarm, hstart]
  · exact hstart

theorem inStation_stepTrayCounter (st : Side) (s : State) : inStation st (stepTrayCounter st s) = inStation st s := by
  unfold stepTrayCounter
  dsimp only
  split
  · split
    · rfl
    · split
      · rw [inStation_trayCountEnds]; exact inStation_modFsc st _ s
      · exact inStation_modFsc st _ s
  · split
    · exact inStation_modFsc st (fun f => { f with trayCounter := f.trayCounter + 1 }) s
    · exact inStation_modFsc st _ s

/-- A station spent keeps its counts: it changes its state alone (R46). -/
theorem inStation_spendIfDone (st : Side) (s : State) :
    ∃ x, inStation st (spendIfDone st s) = { inStation st s with state := x } := by
  have hspend : inStation st (spendStation st s) = { inStation st s with state := .empty } := by
    unfold spendStation; rw [inStation_modIn]; cases st <;> rfl
  unfold spendIfDone
  dsimp only
  split
  · split
    · exact ⟨_, (inStation_stepTrayCounter st _).trans hspend⟩
    · exact ⟨_, hspend⟩
  · exact ⟨_, rfl⟩

/-- A pick that found its device is counted as picked (R42). -/
theorem inStation_endInputPick_picked (st : Side) (s : State) : ∃ x,
    inStation st (endInputPick st .picked s) = { (inStation st s).endPick .picked with state := x } := by
  have he : endInputPick st .picked s = spendIfDone st (modIn st (InStation.endPick .picked) s) := by
    simp [endInputPick]
  obtain ⟨x, hx⟩ := inStation_spendIfDone st (modIn st (InStation.endPick .picked) s)
  exact ⟨x, by rw [he, hx, inStation_modIn]⟩

theorem capInc_eq_min (n : Nat) : capInc 65535 n = min 65535 (n + 1) := by
  unfold capInc; split <;> omega

/-! ### A record created by an input PICK (R9) -/

/-- What naming a reservation changes: soak positions alone. -/
theorem nameReservation_spec (n : NozzleIx) (u : UnitNo) (s : State) : ∃ soak,
    nameReservation n u s = { s with upt := { s.upt with soak := soak } } := by
  unfold nameReservation; split
  · exact ⟨_, rfl⟩
  · exact ⟨s.upt.soak, rfl⟩

/-- The table after a record has been created, but for the soak positions. -/
theorem createUnit_upt (st : Side) (slot : InSlot) (n : NozzleIx) (s : State) : ∃ soak,
    (createUnit st slot n s).upt = { s.upt with
      units := s.upt.units ++ [newUnit st slot n s], nextUnit := s.upt.nextUnit + 1
      pendingCreations := s.upt.pendingCreations - 1
      loadNozzles := s.upt.loadNozzles.set n.val s.upt.nextUnit, soak := soak
      counters := { s.upt.counters with created := satInc s.upt.counters.created } } := by
  obtain ⟨soak, hsoak⟩ := nameReservation_spec n s.upt.nextUnit s
  refine ⟨soak, ?_⟩
  simp only [createUnit, hsoak, modQueue_upt]
  rfl

theorem createUnit_fsc (st : Side) (slot : InSlot) (n : NozzleIx) (s : State) :
    (createUnit st slot n s).fsc = s.fsc := by
  obtain ⟨soak, hsoak⟩ := nameReservation_spec n s.upt.nextUnit s
  simp only [createUnit, hsoak, modQueue_fsc]
  rfl

theorem newUnit_target (st : Side) (slot : InSlot) (n : NozzleIx) (s : State) :
    (newUnit st slot n s).target = (placeFor n s).bind (fun q => q.reservation.target) := rfl

theorem pickDone_input {st : Side} {slot : InSlot} (h : o.place = some (.input st slot)) :
    pickDone g o s = endInputPick st .picked (createUnit st slot o.nozzle s) := by simp [pickDone, h]

theorem pickDone_input_upt {st : Side} {slot : InSlot} (h : o.place = some (.input st slot)) :
    (pickDone g o s).upt = (createUnit st slot o.nozzle s).upt := by
  rw [pickDone_input h]; exact (endInputPick_same _ _ (.refl _)).upt

/-- The station of an input PICK counts it. -/
theorem pickDone_input_station {st : Side} {slot : InSlot} (h : o.place = some (.input st slot)) :
    (inStation st (pickDone g o s)).pending = (inStation st s).pending - 1
    ∧ (inStation st (pickDone g o s)).picked = min 65535 ((inStation st s).picked + 1)
    ∧ (inStation st (pickDone g o s)).noPartRun = 0 := by
  obtain ⟨x, hx⟩ := inStation_endInputPick_picked st (createUnit st slot o.nozzle s)
  rw [pickDone_input h, hx, inStation_congr (createUnit_fsc st slot o.nozzle s)]
  exact ⟨rfl, capInc_eq_min _, rfl⟩

/-! ### Sockets at the end of a transfer -/

theorem moveSocket_same (k : SocketIx) (f : SocketRec → SocketRec) (s : State) :
    (moveSocket k f s).hsc.sockets[k] =
      if s.hsc.sockets[k].state = .testing then s.hsc.sockets[k] else f s.hsc.sockets[k] := by
  rw [moveSocket_eq, modSocket_same]

theorem moveSocket_upt (k : SocketIx) (f : SocketRec → SocketRec) (s : State) : (moveSocket k f s).upt = s.upt := by
  rw [moveSocket_eq, modSocket_upt]

/-- A socket under a move: it takes the unit that goes into it, and loses the one that leaves it. -/
theorem moveUnit_sockets (u : UnitNo) (sp : Spot) (s : State) (k : SocketIx) :
    (moveUnit u sp s).hsc.sockets[k] = { s.hsc.sockets[k] with
      unit := if sp = .socket k then u else if spotOf u s = some (.socket k) then 0 else s.hsc.sockets[k].unit } := by
  have hleave : (leaveSpot u s).hsc.sockets[k] = { s.hsc.sockets[k] with
      unit := if spotOf u s = some (.socket k) then 0 else s.hsc.sockets[k].unit } := by
    unfold leaveSpot
    split <;> rename_i h
    · rw [setAt_sockets, h]; split <;> simp_all
    · simp [h]
  have hmove : (moveUnit u sp s).hsc = (setAt sp u (leaveSpot u s)).hsc := rfl
  simp only [hmove, setAt_sockets, hleave]
  split <;> rfl

theorem spotOf_of_found (h : findUnit u s = some r) : spotOf u s = r.place := by simp [spotOf, h]

/-! ### A PICK that is done (R103) -/

/-- A unit taken by a nozzle, with its record. -/
def takeUp (g : Gantry) (n : NozzleIx) (u : UnitNo) (s : State) : State :=
  s |> moveUnit u (nozzleSpot g n) |> modUnit u (fun r => { r with state := pickedState g })

theorem pickDone_soak {i : SoakIx} (h : o.place = some (.soak i)) :
    pickDone g o s = freeSoak i (takeUp g o.nozzle o.unitNo s) := by simp [pickDone, h, takeUp]

theorem pickDone_socket {k : SocketIx} (h : o.place = some (.socket k)) :
    pickDone g o s = moveSocket k SocketRec.vacate (takeUp g o.nozzle o.unitNo s) := by simp [pickDone, h, takeUp]

theorem unitAt_takeUp (g : Gantry) (n : NozzleIx) (u : UnitNo) (s : State) :
    unitAt (nozzleSpot g n) (takeUp g n u s) = u := by
  rw [takeUp, unitAt_modUnit, unitAt_moveUnit_same]

theorem findUnit_takeUp (g : Gantry) (n : NozzleIx) (h : findUnit u s = some r) : findUnit u (takeUp g n u s)
    = some { r with state := pickedState g, place := some (nozzleSpot g n) } :=
  findUnit_modUnit_same (findUnit_moveUnit_same _ h)

theorem findUnit_takeUp_other {v : UnitNo} (g : Gantry) (n : NozzleIx) (h : v ≠ u) :
    findUnit v (takeUp g n u s) = findUnit v s := by
  rw [takeUp, findUnit_modUnit_other h, findUnit_moveUnit_other _ h]

theorem takeUp_soak (g : Gantry) (n : NozzleIx) {i : SoakIx} (h : findUnit u s = some r)
    (hp : r.place = some (.soak i)) : (takeUp g n u s).upt.soak[i].unit = 0 := by
  have hne : Spot.soak i ≠ nozzleSpot g n := by cases g <;> simp [nozzleSpot]
  have := unitAt_moveUnit_left h hp hne
  rwa [← unitAt_modUnit (u := u) _ (fun r => { r with state := pickedState g })] at this

theorem takeUp_socket (g : Gantry) (n : NozzleIx) {k : SocketIx} (h : findUnit u s = some r)
    (hp : r.place = some (.socket k)) : (takeUp g n u s).hsc.sockets[k] = { s.hsc.sockets[k] with unit := 0 } := by
  have hne : nozzleSpot g n ≠ Spot.socket k := by cases g <;> simp [nozzleSpot]
  have hhsc : (takeUp g n u s).hsc = (moveUnit u (nozzleSpot g n) s).hsc := rfl
  simp only [hhsc, moveUnit_sockets, if_neg hne, spotOf_of_found h, hp, if_true]

/-- The nozzles, and the records, stay when the source of a PICK is emptied. -/
theorem unitAt_nozzle_freeSoak (g : Gantry) (n : NozzleIx) (i : SoakIx) (s : State) :
    unitAt (nozzleSpot g n) (freeSoak i s) = unitAt (nozzleSpot g n) s := by cases g <;> rfl

theorem unitAt_nozzle_moveSocket (g : Gantry) (n : NozzleIx) (k : SocketIx) (f : SocketRec → SocketRec) (s : State) :
    unitAt (nozzleSpot g n) (moveSocket k f s) = unitAt (nozzleSpot g n) s := by
  cases g <;> simp [nozzleSpot, unitAt, moveSocket_upt]

@[simp] theorem findUnit_moveSocket (k : SocketIx) (f : SocketRec → SocketRec) :
    findUnit u (moveSocket k f s) = findUnit u s := findUnit_congr (by rw [moveSocket_upt]) u

/-- The source of a PICK that is done is empty. -/
theorem pickDone_empties_soak {i : SoakIx} (hu : o.unitNo = u) (h : findUnit u s = some r)
    (ho : o.place = some (.soak i)) (hp : r.place = some (.soak i)) :
    (pickDone g o s).upt.soak[i] = { state := .free, unit := 0, reservedFor := 0 } := by
  rw [pickDone_soak ho, hu, freeSoak, modSoak_same, takeUp_soak g o.nozzle h hp]

theorem pickDone_empties_socket {k : SocketIx} (hu : o.unitNo = u) (h : findUnit u s = some r)
    (ho : o.place = some (.socket k)) (hp : r.place = some (.socket k)) (ht : s.hsc.sockets[k].state ≠ .testing) :
    (pickDone g o s).hsc.sockets[k] = s.hsc.sockets[k].vacate := by
  rw [pickDone_socket ho, hu, moveSocket_same, takeUp_socket g o.nozzle h hp, if_neg ht]
  rfl

/-- A unit picked from the soak plate or a socket is on the nozzle, and no other record changes. -/
theorem pickDone_moves (hu : o.unitNo = u) (h : findUnit u s = some r)
    (ho : (∃ i, o.place = some (.soak i)) ∨ ∃ k, o.place = some (.socket k)) :
    nozzleUnit g o.nozzle (pickDone g o s) = u
    ∧ findUnit u (pickDone g o s) = some { r with state := pickedState g, place := some (nozzleSpot g o.nozzle) }
    ∧ ∀ v, v ≠ u → findUnit v (pickDone g o s) = findUnit v s := by
  have htaken := unitAt_takeUp g o.nozzle u s
  have hrec := findUnit_takeUp g o.nozzle h
  rcases ho with ⟨i, ho⟩ | ⟨k, ho⟩
  · rw [pickDone_soak ho, hu, nozzleUnit, unitAt_nozzle_freeSoak]
    exact ⟨htaken, hrec, fun v hv => findUnit_takeUp_other g o.nozzle hv⟩
  · rw [pickDone_socket ho, hu, nozzleUnit, unitAt_nozzle_moveSocket]
    exact ⟨htaken, by simpa using hrec, fun v hv => by
      rw [findUnit_moveSocket]; exact findUnit_takeUp_other g o.nozzle hv⟩

/-! ### A PLACE into a socket that is done (R104, R115) -/

/-- A unit set down in a socket, before it is evicted or counted for its head. -/
def setInSocket (u : UnitNo) (k : SocketIx) (s : State) : State :=
  s |> moveUnit u (.socket k)
    |> modUnit u (fun r => { r with state := .loaded, target := none })
    |> moveSocket k (fun r => { r with state := .loaded })

theorem findUnit_setInSocket (k : SocketIx) (h : findUnit u s = some r) : findUnit u (setInSocket u k s)
    = some { r with state := .loaded, place := some (.socket k), target := none } := by
  rw [setInSocket, findUnit_moveSocket]
  exact findUnit_modUnit_same (findUnit_moveUnit_same _ h)

/-- A socket with the unit set down in it; where it is TESTING its state stays (R128, log entry 39). -/
def SocketRec.hold (u : UnitNo) (st : SocketState) (x : SocketRec) : SocketRec :=
  { x with unit := u, state := if x.state = .testing then .testing else st }

theorem SocketRec.hold_state {st : SocketState} {x : SocketRec} (h : x.state ≠ .testing) :
    (x.hold u st).state = st := if_neg h

/-- A second change of state under the same unit replaces the first. -/
theorem SocketRec.hold_again {st : SocketState} (x : SocketRec) (ht : st ≠ .testing) (last : SocketState) :
    (if (x.hold u st).state = .testing then x.hold u st else { x.hold u st with state := last }) = x.hold u last := by
  by_cases h : x.state = .testing <;> simp [SocketRec.hold, h, ht]

theorem setInSocket_socket (u : UnitNo) (k : SocketIx) (s : State) :
    (setInSocket u k s).hsc.sockets[k] = s.hsc.sockets[k].hold u .loaded := by
  have hmoved : (moveUnit u (.socket k) s).hsc.sockets[k] = { s.hsc.sockets[k] with unit := u } := by
    rw [moveUnit_sockets, if_pos rfl]
  have hhold : ∀ x : SocketRec, (if x.state = .testing then { x with unit := u }
      else { x with unit := u, state := .loaded }) = x.hold u .loaded := fun x => by
    by_cases h : x.state = .testing <;> simp [SocketRec.hold, h]
  rw [setInSocket, moveSocket_same]
  simp only [modUnit_hsc, hmoved]
  exact hhold _

theorem setInSocket_ltc (u : UnitNo) (k : SocketIx) (s : State) : (setInSocket u k s).ltc = s.ltc := by
  have hmove : (moveUnit u (.socket k) s).ltc = s.ltc :=
    leaveSpot_induct (motive := fun t => (setAt (.socket k) u t).ltc = s.ltc) rfl (fun sp => by cases sp <;> rfl)
  rw [setInSocket, moveSocket_eq]
  exact hmove

theorem unitAt_setInSocket (n : NozzleIx) (k : SocketIx) (h : findUnit u s = some r)
    (hp : r.place = some (nozzleSpot g n)) : unitAt (nozzleSpot g n) (setInSocket u k s) = 0 := by
  have hne : nozzleSpot g n ≠ .socket k := by cases g <;> simp [nozzleSpot]
  rw [setInSocket, unitAt_nozzle_moveSocket, unitAt_modUnit, unitAt_moveUnit_left h hp hne]

theorem setInSocket_offPending (u : UnitNo) (k : SocketIx) (s : State) :
    (setInSocket u k s).hsc.sockets[k].offPending = s.hsc.sockets[k].offPending := by
  rw [setInSocket_socket]; rfl

theorem loadSocket_eq (u : UnitNo) (k : SocketIx) (s : State) : loadSocket u k s =
    if s.hsc.sockets[k].offPending.isSome ∨ s.ltc.state = .purging then evict k (setInSocket u k s)
    else loadedInHead (headOf k) (setInSocket u k s) := by
  rw [← setInSocket_offPending u k s, ← setInSocket_ltc u k s]
  rfl

theorem loadedInHead_upt (x : HeadIx) (s : State) : (loadedInHead x s).upt = s.upt := by
  unfold loadedInHead; split <;> rfl

theorem loadedInHead_sockets (x : HeadIx) (s : State) : (loadedInHead x s).hsc.sockets = s.hsc.sockets := by
  unfold loadedInHead; split <;> rfl

theorem evict_socket {st : SocketState} {x : SocketRec} {k : SocketIx} (ht : st ≠ .testing)
    (h : s.hsc.sockets[k] = x.hold u st) : (evict k s).hsc.sockets[k] = x.hold u .done := by
  rw [evict, moveSocket_same]
  simp only [modUnit_hsc, h]
  exact x.hold_again ht .done

theorem findUnit_evict {k : SocketIx} (hk : s.hsc.sockets[k].unit = u) (h : findUnit u s = some r) :
    findUnit u (evict k s) = some { r with state := .evict } := by
  rw [evict, findUnit_moveSocket, hk]
  exact findUnit_modUnit_same h

theorem findUnit_loadedInHead (x : HeadIx) : findUnit u (loadedInHead x s) = findUnit u s :=
  findUnit_congr (by rw [loadedInHead_upt]) u

/-- A unit set down in a socket that keeps it is LOADED. -/
theorem loadSocket_loaded (k : SocketIx) (h : findUnit u s = some r) (hoff : s.hsc.sockets[k].offPending = none)
    (hlot : s.ltc.state ≠ .purging) :
    (loadSocket u k s).hsc.sockets[k] = s.hsc.sockets[k].hold u .loaded
    ∧ findUnit u (loadSocket u k s) = some { r with state := .loaded, place := some (.socket k), target := none } := by
  have hstay : ¬ (s.hsc.sockets[k].offPending.isSome ∨ s.ltc.state = .purging) := by
    rw [hoff]; exact fun hc => hc.elim (by simp) hlot
  rw [loadSocket_eq, if_neg hstay, findUnit_loadedInHead]
  exact ⟨by simpa only [loadedInHead_sockets] using setInSocket_socket u k s, findUnit_setInSocket k h⟩

/-- A unit set down in a socket that is off-pending, or in a PURGING lot, is evicted at once. -/
theorem loadSocket_evicted (k : SocketIx) (h : findUnit u s = some r)
    (hev : s.hsc.sockets[k].offPending.isSome ∨ s.ltc.state = .purging) :
    (loadSocket u k s).hsc.sockets[k] = s.hsc.sockets[k].hold u .done
    ∧ findUnit u (loadSocket u k s) = some { r with state := .evict, place := some (.socket k), target := none } := by
  have hk := setInSocket_socket u k s
  rw [loadSocket_eq, if_pos hev]
  exact ⟨evict_socket (by decide) hk, findUnit_evict (congrArg SocketRec.unit hk) (findUnit_setInSocket k h)⟩

theorem loadSocket_unit (u : UnitNo) (k : SocketIx) (s : State) : (loadSocket u k s).hsc.sockets[k].unit = u := by
  have hk := setInSocket_socket u k s
  rw [loadSocket_eq]
  split
  · rw [evict_socket (by decide) hk]; rfl
  · simp only [loadedInHead_sockets, hk]; rfl

theorem unitAt_loadSocket (n : NozzleIx) (k : SocketIx) (h : findUnit u s = some r)
    (hp : r.place = some (nozzleSpot g n)) : unitAt (nozzleSpot g n) (loadSocket u k s) = 0 := by
  have hset := unitAt_setInSocket (g := g) n k h hp
  rw [loadSocket_eq]
  split
  · rw [evict, unitAt_nozzle_moveSocket, unitAt_modUnit, hset]
  · rw [unitAt_congr (s := setInSocket u k s) (by rw [loadedInHead_upt]) (by rw [loadedInHead_upt])
      (by rw [loadedInHead_upt]) (loadedInHead_sockets _ _), hset]

/-! ### A PLACE onto the soak plate, into an output pocket or the chute that is done (R104) -/

theorem unitAt_setDown (n : NozzleIx) (p : SoakIx) (a : UnitState × Nat) (h : findUnit u s = some r)
    (hp : r.place = some (nozzleSpot g n)) : unitAt (nozzleSpot g n) (setDown u p a s) = 0 := by
  have hne : nozzleSpot g n ≠ .soak p := by cases g <;> simp [nozzleSpot]
  have hsoak : ∀ f t, unitAt (nozzleSpot g n) (modSoak p f t) = unitAt (nozzleSpot g n) t := fun f t => by
    cases g <;> rfl
  rw [setDown, unitAt_modUnit, hsoak, unitAt_moveUnit_left h hp hne]

theorem unitAt_arriveSoak (n : NozzleIx) (p : SoakIx) (purpose : Purpose) (h : findUnit u s = some r)
    (hp : r.place = some (nozzleSpot g n)) : unitAt (nozzleSpot g n) (arriveSoak u p purpose s) = 0 := by
  have hset := fun a => unitAt_setDown (g := g) n p a h hp
  rw [arriveSoak_of_found h]
  split
  · have hb := becomeReady_readies u (setDown u p (arrival purpose r s) s)
    rw [unitAt_congr hb.soak hb.loadNozzles hb.unloadNozzles hb.sockets, unitAt_modUnit, hset]
  · exact hset _

/-- An append to the log leaves the output stations and the chute as they are. -/
theorem appendLog_stations (r : UnitRec) (dest : Place) (s : State) :
    (appendLog r dest s).srt.stations = s.srt.stations ∧ (appendLog r dest s).srt.chuteTotal = s.srt.chuteTotal := by
  by_cases h : r.no ∈ s.srt.reservations
  · rw [appendLog_srt_of_mem h]; exact ⟨rfl, rfl⟩
  · rw [appendLog, if_neg h]; exact ⟨rfl, rfl⟩

theorem outStation_retire {dest : Place} (st : OutStation) (h : findUnit u s = some r) :
    outStation st (retire u dest s) = outStation st s := by
  simp only [outStation, retire_srt h, appendLog_stations]

theorem chuteTotal_retire {dest : Place} (h : findUnit u s = some r) :
    (retire u dest s).srt.chuteTotal = s.srt.chuteTotal := by rw [retire_srt h, (appendLog_stations r dest s).2]

/-- An output station counts the placement that ends; only its state changes besides. -/
theorem outStation_endOutPlace (st : OutStation) (b : Bool) (s : State) :
    ∃ x, outStation st (endOutPlace st b s) = { (outStation st s).endPlace b with state := x } := by
  have hcounted := outStation_modOut s st (OutRec.endPlace b)
  rw [endOutPlace_eq]
  split
  · exact ⟨.empty, by rw [outStation_modOut]; exact congrArg (fun q => { q with state := .empty }) hcounted⟩
  · exact ⟨_, hcounted⟩

end Sys2Proof.Machine
end

section
/-! PROOF. The effects of an INSPECT (R105, R75), of a PICK that finds nothing and of a dropped device (R103, R104); no
result moves a TESTING socket (R128); the queue at the end of an order (R102, R107). -/
namespace Sys2Proof.Machine

variable {s t : State} {u : UnitNo} {r : UnitRec} {g : Gantry} {o : Order} {n : NozzleIx} {p : List Byte}

/-! ### An INSPECT that is done (R105, R75) -/

/-- What the INSPECT of other nozzles leaves as it is for nozzle n and its unit. -/
structure InspectsOther (u : UnitNo) (n : NozzleIx) (s t : State) : Prop where
  loadNozzles : t.upt.loadNozzles = s.upt.loadNozzles
  pcu : t.pcu = s.pcu
  stageHead : t.xpl.stageHead[n] = s.xpl.stageHead[n]
  record : findUnit u t = findUnit u s

theorem InspectsOther.refl (u : UnitNo) (n : NozzleIx) (s : State) : InspectsOther u n s s := ⟨rfl, rfl, rfl, rfl⟩

theorem InspectsOther.trans {w : State} (a : InspectsOther u n s t) (b : InspectsOther u n t w) :
    InspectsOther u n s w :=
  ⟨b.loadNozzles.trans a.loadNozzles, b.pcu.trans a.pcu, b.stageHead.trans a.stageHead, b.record.trans a.record⟩

theorem setStageHead_other {m : NozzleIx} (x : Option HeadIx) (h : m ≠ n) (s : State) :
    InspectsOther u n s (setStageHead m x s) := by
  have hv : m.val ≠ n.val := fun e => h (Fin.ext e)
  exact ⟨rfl, rfl, by simp [setStageHead, hv], rfl⟩

theorem modUnit_other {v : UnitNo} {f : UnitRec → UnitRec} (h : u ≠ v) (s : State)
    (hf : ∀ x, (f x).no = x.no := by intro; rfl) : InspectsOther u n s (modUnit v f s) :=
  ⟨rfl, rfl, rfl, findUnit_modUnit_other h hf⟩

theorem stageAt_other {m : NozzleIx} (h : m ≠ n) (hu : s.upt.loadNozzles[m] ≠ u) :
    InspectsOther u n s (stageAt m s) := by
  have hs := setStageHead_other (u := u) none h s
  unfold stageAt; dsimp only; split
  · exact hs.trans (modUnit_other hu.symm _)
  · exact hs.trans (modUnit_other hu.symm _)
  · exact hs

theorem inspectNozzle_other {m : NozzleIx} (h : m ≠ n) (hu : s.upt.loadNozzles[m] ≠ u) :
    InspectsOther u n s (inspectNozzle p s m) := by
  unfold inspectNozzle; split
  · exact setStageHead_other none h s
  · exact (modUnit_other hu.symm s).trans (stageAt_other h hu)

theorem inspectNozzles_other : ∀ (l : List NozzleIx) (s : State), n ∉ l →
    (∀ m, m ≠ n → s.upt.loadNozzles[m] ≠ u) → InspectsOther u n s (l.foldl (inspectNozzle p) s)
  | [], s, _, _ => .refl u n s
  | m :: l, s, hn, hu => by
    have hm : m ≠ n := fun e => hn (e ▸ List.mem_cons_self)
    have hfirst : InspectsOther u n s (inspectNozzle p s m) := inspectNozzle_other hm (hu m hm)
    refine hfirst.trans (inspectNozzles_other l _ (fun h => hn (List.mem_cons_of_mem _ h)) fun m' hm' => ?_)
    simpa only [hfirst.loadNozzles] using hu m' hm'

/-- The offset that the camera gives the unit on a nozzle, at a scale (R85, Table 6-3). -/
def cameraOffset (scale : Nat) (p : List Byte) (n : NozzleIx) : Offset :=
  if (rd8 p 2).getLsbD n.val then
    .um (stage1 scale (rd16 p (3 + 4 * n.val)).toInt) (stage1 scale (rd16 p (5 + 4 * n.val)).toInt)
  else .void

/-- A unit's record when its INSPECT is done: STAGED with the head that it waits for, if any. -/
def UnitRec.stage (head : Option HeadIx) (x : UnitRec) : UnitRec :=
  match head with
  | some h => { x with state := .staged, target := some (.head h) }
  | none => x

/-- The head that a nozzle's unit waits for: the one kept with the nozzle, or the one its target names (R71, R75). -/
def stagingHead (kept : Option HeadIx) (target : Option Target) : Option HeadIx :=
  match kept, target with
  | some h, _ => some h
  | none, some (.head h) => some h
  | none, _ => none

theorem stageAt_of_head {h : HeadIx} (hh : stagingHead s.xpl.stageHead[n]
      ((findUnit s.upt.loadNozzles[n] s).bind UnitRec.target) = some h) : stageAt n s =
    modUnit s.upt.loadNozzles[n] (fun x => { x with state := .staged, target := some (.head h) })
      (setStageHead n none s) := by
  unfold stageAt
  dsimp only
  split <;> rename_i hkept htarget <;> simp_all [stagingHead]

theorem stageAt_of_none (hh : stagingHead s.xpl.stageHead[n]
      ((findUnit s.upt.loadNozzles[n] s).bind UnitRec.target) = none) : stageAt n s = setStageHead n none s := by
  unfold stageAt
  dsimp only
  split
  · simp_all [stagingHead]
  · simp_all [stagingHead]
  · rfl

theorem findUnit_stageAt (hn : s.upt.loadNozzles[n] = u) (h : findUnit u s = some r) :
    findUnit u (stageAt n s) = some (r.stage (stagingHead s.xpl.stageHead[n] r.target)) := by
  have htarget : (findUnit s.upt.loadNozzles[n] s).bind UnitRec.target = r.target := by rw [hn, h]; rfl
  have hrec : findUnit u (setStageHead n none s) = some r := h
  cases hh : stagingHead s.xpl.stageHead[n] r.target with
  | some x => rw [stageAt_of_head (htarget ▸ hh), hn]; exact findUnit_modUnit_same hrec
  | none => rw [stageAt_of_none (htarget ▸ hh)]; exact hrec

/-- The unit of a masked nozzle takes its offset, and is STAGED where it waited. -/
theorem findUnit_inspectNozzle {c : CameraTeach} (hn : s.upt.loadNozzles[n] = u) (hu : u ≠ 0)
    (h : findUnit u s = some r) (hc : s.pcu.camera = some c) : findUnit u (inspectNozzle p s n)
      = some ({ r with offset := some (cameraOffset c.scale p n) }.stage
          (stagingHead s.xpl.stageHead[n] r.target)) := by
  have hoff : ∀ b x y, inspectOffset b x y s = if b then .um (stage1 c.scale x) (stage1 c.scale y) else .void :=
    fun b x y => by simp [inspectOffset, hc]
  have hstage : inspectNozzle p s n
      = stageAt n (modUnit u (fun x => { x with offset := some (cameraOffset c.scale p n) }) s) := by
    rw [inspectNozzle, if_neg (hn ▸ hu), hn]
    simp only [hoff, cameraOf, cameraOffset]
  have hmark : findUnit u (modUnit u (fun x => { x with offset := some (cameraOffset c.scale p n) }) s)
      = some { r with offset := some (cameraOffset c.scale p n) } := findUnit_modUnit_same h
  rw [hstage]
  refine findUnit_stageAt ?_ hmark
  exact hn

theorem mem_maskNozzles {m : BitVec 4} : n ∈ maskNozzles m ↔ m.getLsbD n.val = true := by
  have hall : n ∈ allNozzles := by fin_cases n <;> simp [allNozzles]
  simp [maskNozzles, hall]

theorem maskNozzles_nodup (m : BitVec 4) : (maskNozzles m).Nodup := List.Nodup.filter _ (by decide)

theorem inspectNozzle_loadNozzles (p : List Byte) (s : State) (n : NozzleIx) :
    (inspectNozzle p s n).upt.loadNozzles = s.upt.loadNozzles := by
  have hstage : ∀ t, (stageAt n t).upt.loadNozzles = t.upt.loadNozzles := fun t => by
    unfold stageAt; dsimp only; split <;> rfl
  unfold inspectNozzle; split
  · rfl
  · exact hstage _

/-- Of the masked nozzles one after another, each acts on its own unit alone. -/
theorem findUnit_inspectDone {c : CameraTeach} (hm : o.mask.getLsbD n.val = true) (hn : s.upt.loadNozzles[n] = u)
    (hu : u ≠ 0) (h : findUnit u s = some r) (hc : s.pcu.camera = some c)
    (hothers : ∀ m : NozzleIx, m ≠ n → s.upt.loadNozzles[m] ≠ u) : findUnit u (inspectDone o p s)
      = some ({ r with offset := some (cameraOffset c.scale p n) }.stage
          (stagingHead s.xpl.stageHead[n] r.target)) := by
  obtain ⟨before, after, hl⟩ := List.append_of_mem (mem_maskNozzles.2 hm)
  have hnodup := maskNozzles_nodup o.mask
  rw [hl] at hnodup
  obtain ⟨_, hrest, hapart⟩ := List.nodup_append.1 hnodup
  have hbefore : InspectsOther u n s (before.foldl (inspectNozzle p) s) :=
    inspectNozzles_other before s (fun hmem => hapart n hmem n List.mem_cons_self rfl) hothers
  have hown := findUnit_inspectNozzle (p := p) (by simpa only [hbefore.loadNozzles] using hn) hu
    (hbefore.record.trans h) (hbefore.pcu ▸ hc)
  have hafter : InspectsOther u n (inspectNozzle p (before.foldl (inspectNozzle p) s) n)
      ((maskNozzles o.mask).foldl (inspectNozzle p) s) := by
    rw [hl, List.foldl_append, List.foldl_cons]
    refine inspectNozzles_other after _ (List.nodup_cons.1 hrest).1 fun m hmn => ?_
    simpa only [inspectNozzle_loadNozzles, hbefore.loadNozzles] using hothers m hmn
  rw [← hbefore.stageHead]
  exact hafter.record.trans hown

/-! ### A PICK that found nothing and a dropped device (R103, R104) -/

theorem SocketRec.Yields.jammed {a b : SocketRec} (y : a.Yields b) (h : a.state = .jammed ∧ a.unit = 0) :
    b.state = .jammed ∧ b.unit = 0 := by
  constructor
  · rcases y.state with hb | ⟨ha, _⟩
    · exact hb.trans h.1
    · simp [h.1] at ha
  · rcases y.unit with hb | hb
    · exact hb.trans h.2
    · exact hb

theorem SocketRec.Yields.not_testing {a b : SocketRec} (y : a.Yields b) (h : a.state ≠ .testing) :
    b.state ≠ .testing := by
  rcases y.state with hb | ⟨_, hb⟩
  · rw [hb]; exact h
  · exact hb

theorem SocketRec.Yields.testing {a b : SocketRec} (y : a.Yields b) (h : a.state = .testing) : b.state = .testing := by
  rcases y.state with hb | ⟨ha, _⟩
  · exact hb.trans h
  · simp [h] at ha

theorem jamSocket_socket {k : SocketIx} (h : s.hsc.sockets[k].state ≠ .testing) :
    (jamSocket k s).hsc.sockets[k].state = .jammed ∧ (jamSocket k s).hsc.sockets[k].unit = 0 := by
  rw [jamSocket, moveSocket_same, if_neg h]
  exact ⟨rfl, rfl⟩

theorem findUnit_jamSocket (k : SocketIx) : findUnit u (jamSocket k s) = findUnit u s := findUnit_moveSocket ..

theorem raiseJam_same (k : SocketIx) (c : Nat) (s : State) : SameTable s (raiseJam k c s) := raise_same _ _ (.refl s)

theorem raiseJam_raised (k : SocketIx) (c : Nat) (s : State) :
    (raiseJam k c s).clu.raised.getLsbD Factor.socketJam.number.val = true := by rw [raiseJam, raise_raised]

/-- What a PICK that found nothing in a soak position leaves: the loss of its unit, and the position BLOCKED. -/
theorem pickEmpty_soak {i : SoakIx} (ho : o.place = some (.soak i)) :
    findUnit u (pickEmpty g o s) = findUnit u (loseUnit o.unitNo s)
    ∧ (pickEmpty g o s).upt.soak[i] = { state := .blocked, unit := 0, reservedFor := 0 } := by
  have hblocked := modSoak_same (loseUnit o.unitNo s) i
    (fun q => { q with state := .blocked, unit := 0, reservedFor := 0 })
  simp only [pickEmpty, ho]
  cases g <;> exact ⟨rfl, hblocked⟩

theorem pickEmpty_socket {k : SocketIx} (ho : o.place = some (.socket k)) :
    pickEmpty g o s = raiseJam k 1 (jamSocket k (loseUnit o.unitNo s)) := by simp [pickEmpty, ho]

theorem placeDropped_socket {k : SocketIx} (ho : o.place = some (.socket k)) :
    placeDropped o s = raiseJam k 0 (loseUnit o.unitNo (jamSocket k s)) := by simp [placeDropped, ho]

/-- A unit that is missing at a socket is LOST, and the socket is JAMMED unless it is TESTING (R103, R104, R128). -/
theorem jammed_of_missing {k : SocketIx} {f : Fate} (hu : o.unitNo = u) (h : findUnit u s = some r)
    (hr : r.state ≠ .lost) (ho : o.place = some (.socket k)) (hf : f = .noPart ∨ f = .dropped) :
    findUnit u (applyFate g o p f s) = some r.lose
    ∧ (s.hsc.sockets[k].state ≠ .testing → (applyFate g o p f s).hsc.sockets[k].state = .jammed
      ∧ (applyFate g o p f s).hsc.sockets[k].unit = 0)
    ∧ (applyFate g o p f s).clu.raised.getLsbD Factor.socketJam.number.val = true := by
  rcases hf with rfl | rfl
  · rw [applyFate_noPart, pickEmpty_socket ho, hu, (raiseJam_same k 1 _).findUnit_eq, findUnit_jamSocket]
    simp only [(raiseJam_same k 1 _).hsc]
    exact ⟨findUnit_loseUnit h hr, fun ht => jamSocket_socket ((loseUnit_yields u s k).not_testing ht),
      raiseJam_raised _ _ _⟩
  · rw [applyFate_dropped, placeDropped_socket ho, hu, (raiseJam_same k 0 _).findUnit_eq]
    simp only [(raiseJam_same k 0 _).hsc]
    exact ⟨findUnit_loseUnit ((findUnit_jamSocket k).trans h) hr,
      fun ht => (loseUnit_yields u _ k).jammed (jamSocket_socket ht), raiseJam_raised _ _ _⟩

/-! ### No result moves a TESTING socket (R128) -/

/-- Socket k is TESTING. -/
def TestingAt (k : SocketIx) (s : State) : Prop := s.hsc.sockets[k].state = .testing

variable {k : SocketIx}

theorem SameTable.testing (h : SameTable s t) (ht : TestingAt k s) : TestingAt k t := by
  unfold TestingAt; rw [h.hsc]; exact ht

theorem Cancels.testing (h : Cancels s t) (ht : TestingAt k s) : TestingAt k t := (h.sockets k).testing ht

theorem moveSocket_testing (j : SocketIx) (f : SocketRec → SocketRec) (ht : TestingAt k s) :
    TestingAt k (moveSocket j f s) := by
  unfold TestingAt
  by_cases e : k = j
  · subst e; rw [moveSocket_same, if_pos (show s.hsc.sockets[k].state = .testing from ht)]; exact ht
  · rw [moveSocket_eq, modSocket_other _ _ _ _ e]; exact ht

theorem leaveSpot_testing (ht : TestingAt k s) : TestingAt k (leaveSpot u s) := (leaveSpot_yields u s k).testing ht

theorem moveUnit_testing (sp : Spot) (ht : TestingAt k s) : TestingAt k (moveUnit u sp s) := by
  unfold TestingAt; rw [moveUnit_sockets]; exact ht

theorem loseUnit_testing (u : UnitNo) (ht : TestingAt k s) : TestingAt k (loseUnit u s) :=
  (loseUnit_yields u s k).testing ht

theorem createUnit_testing (st : Side) (slot : InSlot) (n : NozzleIx) (ht : TestingAt k s) :
    TestingAt k (createUnit st slot n s) := by
  have hhsc : (createUnit st slot n s).hsc = s.hsc := by
    obtain ⟨soak, hsoak⟩ := nameReservation_spec n s.upt.nextUnit s
    simp only [createUnit, hsoak, modQueue_hsc]
    rfl
  unfold TestingAt; rw [hhsc]; exact ht

theorem pickDone_testing (ht : TestingAt k s) : TestingAt k (pickDone g o s) := by
  unfold pickDone; split
  · exact (endInputPick_same _ _ (.refl _)).testing (createUnit_testing _ _ _ ht)
  · exact moveUnit_testing (nozzleSpot g o.nozzle) ht
  · exact moveSocket_testing _ _ (moveUnit_testing (nozzleSpot g o.nozzle) ht)
  · exact ht

theorem arriveSoak_testing (i : SoakIx) (purpose : Purpose) (ht : TestingAt k s) :
    TestingAt k (arriveSoak u i purpose s) := by
  cases h : findUnit u s with
  | none => simpa [arriveSoak, h] using ht
  | some r =>
    have hset : TestingAt k (setDown u i (arrival purpose r s) s) := moveUnit_testing (.soak i) ht
    rw [arriveSoak_of_found h]
    split
    · unfold TestingAt; rw [(becomeReady_readies u _).sockets]; exact hset
    · exact hset

theorem setInSocket_testing (j : SocketIx) (ht : TestingAt k s) : TestingAt k (setInSocket u j s) :=
  moveSocket_testing _ _ (moveUnit_testing (.socket j) ht)

theorem loadSocket_testing (j : SocketIx) (ht : TestingAt k s) : TestingAt k (loadSocket u j s) := by
  have hset := setInSocket_testing (u := u) j ht
  rw [loadSocket_eq]
  split
  · exact moveSocket_testing _ _ hset
  · unfold TestingAt; rw [loadedInHead_sockets]; exact hset

theorem appendLog_hsc (r : UnitRec) (dest : Place) (s : State) : (appendLog r dest s).hsc = s.hsc := by
  unfold appendLog; split
  · exact raiseLogFactors_induct (motive := fun t => t.hsc = s.hsc) rfl (fun _ _ _ h => h)
  · rfl

theorem retire_testing (dest : Place) (ht : TestingAt k s) : TestingAt k (retire u dest s) := by
  cases h : findUnit u s with
  | none => simpa [retire, h] using ht
  | some r =>
    have happ : TestingAt k (appendLog r dest s) := by unfold TestingAt; rw [appendLog_hsc]; exact ht
    rw [retire_of_found h]
    unfold TestingAt
    rw [dropUnit_hsc, countRetired_hsc]
    exact leaveSpot_testing happ

theorem placeDone_testing (ht : TestingAt k s) : TestingAt k (placeDone o s) := by
  unfold placeDone; dsimp only; split
  · exact arriveSoak_testing _ _ ht
  · exact loadSocket_testing _ ht
  · exact (endOutPlace_same _ _ (.refl _)).testing (retire_testing _ ht)
  · exact retire_testing .chute ht
  · exact ht

theorem cancelNozzle_cancels (n : NozzleIx) (s : State) : Cancels s (cancelNozzle n s) :=
  setStageHead_cancels _ _ (unmask_cancels _ (Cancels.foldl (fun _ _ => dropOrder_cancels _ _) _ _ (.refl s)))

theorem jamSocket_testing (j : SocketIx) (ht : TestingAt k s) : TestingAt k (jamSocket j s) := moveSocket_testing _ _ ht

theorem raiseJam_testing (j : SocketIx) (c : Nat) (ht : TestingAt k s) : TestingAt k (raiseJam j c s) :=
  (raiseJam_same j c s).testing ht

theorem pickEmpty_testing (ht : TestingAt k s) : TestingAt k (pickEmpty g o s) := by
  unfold pickEmpty; split
  · exact (endInputPick_same _ _ (.refl _)).testing ((cancelNozzle_cancels _ _).testing ht)
  · dsimp only; split <;> exact loseUnit_testing o.unitNo ht
  · exact raiseJam_testing _ _ (jamSocket_testing _ (loseUnit_testing _ ht))
  · exact ht

theorem placeDropped_testing (ht : TestingAt k s) : TestingAt k (placeDropped o s) := by
  unfold placeDropped; dsimp only; split
  · exact raiseJam_testing _ _ (loseUnit_testing _ (jamSocket_testing _ ht))
  · exact loseUnit_testing _ ((endOutPlace_same _ _ (releaseLog_same _ (.refl s))).testing ht)
  · exact loseUnit_testing _ ((releaseLog_same _ (.refl s)).testing ht)
  · exact loseUnit_testing _ ht

theorem inspectDone_hsc (o : Order) (p : List Byte) (s : State) : (inspectDone o p s).hsc = s.hsc := by
  have hnozzle : ∀ t n, (inspectNozzle p t n).hsc = t.hsc := fun t n => by
    unfold inspectNozzle stageAt; dsimp only
    split
    · rfl
    · split <;> rfl
  have hfold : ∀ (l : List NozzleIx) (t : State), (l.foldl (inspectNozzle p) t).hsc = t.hsc := fun l => by
    induction l with
    | nil => exact fun _ => rfl
    | cons n l ih => exact fun t => (ih _).trans (hnozzle t n)
  exact hfold _ _

theorem applyFate_testing (f : Fate) (ht : TestingAt k s) : TestingAt k (applyFate g o p f s) := by
  unfold applyFate; split
  · exact pickDone_testing ht
  · exact placeDone_testing ht
  · unfold TestingAt; rw [inspectDone_hsc]; exact ht
  · cases g <;> exact ht
  · exact pickEmpty_testing ht
  · exact placeDropped_testing ht
  · exact ht

/-! ### The order at the end of its completion (R102, R107) -/

/-- An order not done is QUEUED again at the head of its queue. -/
theorem queue_requeue_notDone {os : List Order} (hq : queue g s = o :: os) (hn : ((o :: os).map Order.id).Nodup) :
    queue g (requeue g o .notDone s) = { o with status := .queued } :: os := by
  have hrest : ∀ q ∈ os, q.id ≠ o.id := fun q hmem e =>
    (List.nodup_cons.1 hn).1 (e ▸ List.mem_map_of_mem hmem)
  rw [requeue, if_pos rfl, setStatus, queue_modQueue, hq, List.map_cons, if_pos rfl]
  refine congrArg _ ((List.map_congr_left fun q hmem => if_neg (hrest q hmem)).trans (List.map_id _))

/-- An order that has ended otherwise leaves its queue. -/
theorem queue_requeue_done {os : List Order} {f : Fate} (hq : queue g s = o :: os)
    (hn : ((o :: os).map Order.id).Nodup) (hf : f ≠ .notDone) : queue g (requeue g o f s) = os := by
  have hrest : ∀ q ∈ os, q.id ≠ o.id := fun q hmem e =>
    (List.nodup_cons.1 hn).1 (e ▸ List.mem_map_of_mem hmem)
  rw [requeue, if_neg hf, removeOrder, queue_modQueue, hq, List.filter_cons_of_neg (by simp)]
  exact List.filter_eq_self.2 fun q hmem => by simpa using hrest q hmem

theorem queue_requeue_other {v : Gantry} (f : Fate) (hv : v ≠ g) : queue v (requeue g o f s) = queue v s := by
  unfold requeue; split
  · exact queue_modQueue_other _ s hv
  · exact queue_modQueue_other _ s hv

end Sys2Proof.Machine
end

section
/-! PROOF. O56: a DONE that the order in flight takes, put together from the parts above, one theorem for each kind of
order. -/
namespace Sys2Proof.Machine

variable {s t : State} {u : UnitNo} {r : UnitRec} {g : Gantry} {o : Order}

/-- The steps of a completion, each state after the one before it (R102). -/
theorem complete_steps (g : Gantry) (o : Order) (p : List Byte) (f : Fate) (s : State) :
    ∃ s1 s2 s3 s4 s5 : State,
      s1 = modGsq g (fun q => { q with timer := none, state := .idle }) s
      ∧ s2 = headsFollow s1 (checkEmpty (applyFate g o p f s1))
      ∧ (∀ z, o.zone = some z → s3 = releaseZone (gantryHolder g) z s2) ∧ (o.zone = none → s3 = s2)
      ∧ s4 = loseMissing g (rd8 p 1) (comparedNozzles (some o)) s3
      ∧ s5 = evaluateBoth (headsFollow s3 (checkEmpty (requeue g o f s4)))
      ∧ (mismatch g (rd8 p 1) (comparedNozzles (some o)) s3 = false → complete g o p f s = settle (headsFollow s5 s5))
      ∧ (mismatch g (rd8 p 1) (comparedNozzles (some o)) s3 = true →
        complete g o p f s = settle (headsFollow s5 (enterFault g .presence s5))) := by
  refine ⟨_, _, releaseOrderZone g o _, _, _, rfl, rfl, fun z hz => releaseOrderZone_of_zone hz,
    fun hz => releaseOrderZone_of_none hz, rfl, rfl, fun hm => ?_, fun hm => ?_⟩
  · rw [complete]; simp only [hm]; rfl
  · rw [complete]; simp only [hm]; rfl

/-- The target of a new unit is what the PLACE of its nozzle has reserved (R9). -/
theorem newUnit_target_spec (st : Side) (slot : InSlot) (n : NozzleIx) (s : State) (q : Option Order)
    (hq : q = s.xpl.loadQueue.find? (fun q => q.kind = .place && q.nozzle = n)) :
    (q = none → (newUnit st slot n s).target = none)
    ∧ (∀ (v : Order) (k : SocketIx), q = some v → v.reservation = .socket k →
      (newUnit st slot n s).target = some (.socket k))
    ∧ (∀ (v : Order) (i : SoakIx), q = some v → v.reservation = .soak i →
      (newUnit st slot n s).target = some (.soak i)) := by
  have hplace : placeFor n s = q := hq.symm
  rw [newUnit_target, hplace]
  refine ⟨?_, ?_, ?_⟩
  · rintro rfl; rfl
  · rintro v k rfl hv; rw [Option.bind_some, hv]; rfl
  · rintro v i rfl hv; rw [Option.bind_some, hv]; rfl

/-- The staging head of a unit is the one kept with its nozzle, or else the one that its target names. -/
theorem stagingHead_eq_some {kept : Option HeadIx} {target : Option Target} {h : HeadIx}
    (hh : kept = some h ∨ (kept = none ∧ target = some (.head h))) : stagingHead kept target = some h := by
  rcases hh with rfl | ⟨rfl, rfl⟩ <;> rfl

theorem stagingHead_eq_none {kept : Option HeadIx} {target : Option Target} (hk : kept = none)
    (ht : ∀ h : HeadIx, target ≠ some (.head h)) : stagingHead kept target = none := by
  subst hk
  unfold stagingHead
  split
  · rename_i heq; cases heq
  · exact absurd rfl (ht _)
  · rfl

/-- A PLACE into a socket that is done: the unit is LOADED, or evicted at once (R104, R115). -/
theorem placeDone_socket {k : SocketIx} (hu : o.unitNo = u) (h : findUnit u s = some r)
    (hp : r.place = some (nozzleSpot g o.nozzle)) (ho : o.place = some (.socket k)) :
    nozzleUnit g o.nozzle (placeDone o s) = 0 ∧ (placeDone o s).hsc.sockets[k].unit = u
    ∧ (s.hsc.sockets[k].offPending = none → s.ltc.state ≠ .purging →
      (s.hsc.sockets[k].state ≠ .testing → (placeDone o s).hsc.sockets[k].state = .loaded)
      ∧ findUnit u (placeDone o s) = some { r with state := .loaded, place := some (.socket k), target := none })
    ∧ (s.hsc.sockets[k].offPending.isSome ∨ s.ltc.state = .purging →
      (s.hsc.sockets[k].state ≠ .testing → (placeDone o s).hsc.sockets[k].state = .done)
      ∧ findUnit u (placeDone o s) = some { r with state := .evict, place := some (.socket k), target := none }) := by
  have hload : placeDone o s = loadSocket u k s := by simp [placeDone, ho, hu]
  rw [hload]
  refine ⟨unitAt_loadSocket o.nozzle k h hp, loadSocket_unit u k s, fun hoff hlot => ?_, fun hev => ?_⟩
  · obtain ⟨hsocket, hrec⟩ := loadSocket_loaded k h hoff hlot
    exact ⟨fun ht => by rw [hsocket, SocketRec.hold_state ht], hrec⟩
  · obtain ⟨hsocket, hrec⟩ := loadSocket_evicted k h hev
    exact ⟨fun ht => by rw [hsocket, SocketRec.hold_state ht], hrec⟩

theorem placeDone_soak {i : SoakIx} {purpose : Purpose} (hu : o.unitNo = u) (h : findUnit u s = some r)
    (hp : r.place = some (nozzleSpot g o.nozzle)) (ho : o.place = some (.soak i))
    (hpurpose : o.purpose = some purpose) :
    placeDone o s = arriveSoak u i purpose s ∧ nozzleUnit g o.nozzle (placeDone o s) = 0 := by
  have harrive : placeDone o s = arriveSoak u i purpose s := by simp [placeDone, ho, hu, hpurpose]
  rw [harrive]
  exact ⟨rfl, unitAt_arriveSoak o.nozzle i purpose h hp⟩

/-- A PLACE into an output pocket that is done retires its unit, and the station counts it as filled (R104, R153). -/
theorem placeDone_output {st : OutStation} {pocket : Pocket} (hu : o.unitNo = u) (h : findUnit u s = some r)
    (ho : o.place = some (.output st pocket)) :
    placeDone o s = endOutPlace st true (retire u (.output st pocket) s)
    ∧ (outStation st (placeDone o s)).filled = (outStation st s).filled + 1
    ∧ (outStation st (placeDone o s)).pending = (outStation st s).pending - 1
    ∧ (outStation st (placeDone o s)).skipped = (outStation st s).skipped := by
  have hend : placeDone o s = endOutPlace st true (retire u (.output st pocket) s) := by simp [placeDone, ho, hu]
  obtain ⟨x, hx⟩ := outStation_endOutPlace st true (retire u (.output st pocket) s)
  rw [hend, hx, outStation_retire st h]
  exact ⟨rfl, rfl, rfl, rfl⟩

theorem placeDone_chute (hu : o.unitNo = u) (h : findUnit u s = some r) (ho : o.place = some .chute) :
    placeDone o s = countChute (retire u .chute s)
    ∧ (placeDone o s).srt.chuteTotal = satInc s.srt.chuteTotal := by
  have hcount : placeDone o s = countChute (retire u .chute s) := by simp [placeDone, ho, hu]
  rw [hcount, countChute, modSrt_srt, chuteTotal_retire h]
  exact ⟨rfl, rfl⟩

/-- Settles O56, clause by clause from the lemmas about the DONE, the fault and the effect of each result. -/
theorem doneEndsTheOrderInFlight : Obligations.DoneEndsTheOrderInFlight := by
  refine ⟨?taken, ?completed, ?fault, fun o mask h => readDone_pick_ok mask h, fun o mask h => readDone_place_ok mask h,
    complete_steps, ?created, ?picked, ?placed, ?inspected, ?parked, ?missing,
    fun g o p f k s ht => applyFate_testing f ht, ?requeued⟩
  case taken =>
    intro g o f s hr hrx hk hf hh ho ht
    obtain ⟨hbad, hfault, hdone⟩ := exec_done_of_issued hr hrx hk hf hh ho ht
    split <;> rename_i hread
    · exact hbad hread
    · exact hfault hread
    · rename_i hne; exact hdone _ hread hne
  case completed =>
    intro g o f r s hr hrx hk hf hh ho ht hread hne
    exact (exec_done_of_issued hr hrx hk hf hh ho ht).2.2 r hread hne
  case fault =>
    intro g c s hn hi
    refine enterFault_spec c ⟨hn, fun o ho hk => ?_⟩
    cases g with
    | load => rfl
    | unload => exact absurd hk (hi o ho)
  case created =>
    rintro o p st slot u s t rfl hk ho rfl
    obtain ⟨soak, hupt⟩ := createUnit_upt st slot o.nozzle s
    rw [applyFate_pick_done p hk, pickDone_input_upt ho, hupt]
    refine ⟨⟨newUnit st slot o.nozzle s, rfl, rfl, ?_, rfl, rfl, rfl, rfl, rfl, rfl, rfl, rfl, rfl, rfl, rfl, rfl, rfl,
      rfl, newUnit_target_spec st slot o.nozzle s⟩, rfl, rfl, rfl, rfl, pickDone_input_station ho⟩
    intro lot hlot
    simp [newUnit, hlot]
  case picked =>
    rintro g o p u r s t hk hunit h rfl hplace
    rw [applyFate_pick_done p hk]
    have hu := Order.unitNo_of_unit hunit
    refine ⟨fun i ho => pickDone_empties_soak hu h ho ?_, fun k ho ht => pickDone_empties_socket hu h ho ?_ ht,
      fun ho => ?_⟩
    · rw [← hplace, ho]; rfl
    · rw [← hplace, ho]; rfl
    · cases g <;> exact pickDone_moves hu h ho
  case placed =>
    rintro g o p u r s t hk hunit h hp rfl
    have hu := Order.unitNo_of_unit hunit
    rw [applyFate_place_done p hk]
    exact ⟨fun k ho => placeDone_socket hu h hp ho, fun i purpose ho hpurpose => placeDone_soak hu h hp ho hpurpose,
      fun st pocket ho => placeDone_output hu h ho, fun ho => placeDone_chute hu h ho⟩
  case inspected =>
    rintro o p s t hk rfl
    rw [applyFate_inspect_done p hk]
    refine ⟨rfl, ?_⟩
    rintro n u r c hm hn hu h hc hothers offset rfl
    have hrec := findUnit_inspectDone (p := p) hm hn hu h hc hothers
    refine ⟨fun x hx => ?_, fun hkept htarget => ?_⟩
    · rw [hrec, stagingHead_eq_some hx]; rfl
    · rw [hrec, stagingHead_eq_none hkept htarget]; rfl
  case parked =>
    exact fun g o p s => ⟨applyFate_park_done p, applyFate_notDone p⟩
  case missing =>
    rintro g o p u r lost s hunit h hr rfl
    have hu := Order.unitNo_of_unit hunit
    refine ⟨fun i ho => ?_, fun k f ho hf => jammed_of_missing hu h hr ho hf⟩
    obtain ⟨hrec, hsoak⟩ := pickEmpty_soak (g := g) (s := s) (u := u) ho
    rw [applyFate_noPart, hrec, hu]
    exact ⟨findUnit_loseUnit h hr, hsoak⟩
  case requeued =>
    refine fun g o os f s hq hn => ⟨?_, queue_requeue_done hq hn, fun v hv => queue_requeue_other f hv⟩
    rintro rfl
    exact queue_requeue_notDone hq hn

end Sys2Proof.Machine
end

section
/-! PROOF. What a request leaves as it is: `Keeps` for every request that stores no value of its own, which leaves the
teach requests and the settings of a lot, of the run control unit and of the cell link. -/
namespace Sys2Proof.Machine

variable {r s : State}

/-! ### Lots -/

theorem purgeHead_keeps (x : HeadIx) (h : Keeps r s) : Keeps r (purgeHead s x) := by
  unfold purgeHead
  refine Keeps.foldl (fun _ _ => evict_keeps _) _ _ ?_
  split
  · exact modHead_keeps _ _ (fun _ h => h) (withdrawHead_keeps _ h)
  · exact h

/-- The purge at the lot controller: its time and lot PURGING, or DRAINED where the machine is empty (R29, R30). -/
def enterPurging (s : State) : State :=
  s |> modLtc (fun l => { l with state := .purging, times := { l.times with purge := some s.now } }) |> checkEmpty

/-- The load orders that a purge cancels, by the trip in the load queue (R74). -/
def purgeOrders (s : State) : State := cancelWhere .load (purgeCancels s.xpl.tripKind) s

/-- What a purge does to every head (R119, R126). -/
def purgeHeads (s : State) : State := allHeads.foldl purgeHead s

/-- The staging timer stops. -/
def stopStaging (s : State) : State := modXpl (fun x => { x with staging := none }) s

theorem purgeLot_eq (s : State) : purgeLot s =
    checkEmpty (purgeFeed (stopStaging (purgeHeads (purgeRoutes (purgeOrders (enterPurging s)))))) := rfl

theorem enterPurging_keeps (h : Keeps r s) : Keeps r (enterPurging s) := checkEmpty_keeps (modLtc_keeps _ rfl h)

theorem purgeOrders_keeps (h : Keeps r s) : Keeps r (purgeOrders s) := cancelWhere_keeps _ _ h

theorem purgeHeads_keeps (h : Keeps r s) : Keeps r (purgeHeads s) := Keeps.foldl (fun _ _ => purgeHead_keeps _) _ _ h

theorem stopStaging_keeps (h : Keeps r s) : Keeps r (stopStaging s) := modXpl_keeps _ rfl id id h

theorem purgeLot_keeps (h : Keeps r s) : Keeps r (purgeLot s) := by
  rw [purgeLot_eq]
  exact checkEmpty_keeps (purgeFeed_keeps (stopStaging_keeps (purgeHeads_keeps (purgeRoutes_keeps (purgeOrders_keeps
    (enterPurging_keeps h))))))

theorem closeOutput_keeps (h : Keeps r s) : Keeps r (closeOutput s) := h.onSrt _ rfl rfl (fun i => ⟨i.room, i.once⟩)

theorem closeLot_keeps (h : Keeps r s) : Keeps r (closeLot s) := by
  unfold closeLot
  have hblocks := closeOutput_keeps (modFsc_keeps (fun _ => Fsc.reset) (modUpt_keeps
    (fun t => { t with counters := .zero, units := t.units.filter (fun r => r.state ≠ .lost) })
    (modLtc_keeps (fun l => { l with
      closed := some (closedSummary s), times := { l.times with closed := some s.now }, state := .idle }) rfl h)))
  dsimp only; split
  · exact enterHold_keeps _ _ hblocks
  · exact hblocks

theorem serveLotPurge_keeps (h : Keeps r s) : Keeps r (serveLotPurge s).1 := by
  unfold serveLotPurge; split
  · exact settle_keeps (headsFollow_keeps _ (purgeLot_keeps h))
  · exact h

theorem serveLotClose_keeps (h : Keeps r s) : Keeps r (serveLotClose s).1 := by
  unfold serveLotClose; split
  · exact settle_keeps (headsFollow_keeps _ (closeLot_keeps h))
  · exact h

/-! ### Stations -/

theorem armInput_keeps (st : Side) (m : FeedMode) (first count : Nat) (more : Bool) (h : Keeps r s) :
    Keeps r (armInput st m first count more s) := by
  unfold armInput; dsimp only; split
  · exact modFsc_keeps _ (activateIn_keeps _ (modIn_keeps _ _ h))
  · exact modIn_keeps _ _ (modIn_keeps _ _ h)

theorem serveArmInput_keeps (station mode : Byte) (first count : Half) (more : Byte) (h : Keeps r s) :
    Keeps r (serveArmInput station mode first count more s).1 := by
  unfold serveArmInput
  repeat' split
  · exact h
  · exact h
  · exact h
  · exact h
  · exact h
  · exact settle_keeps (armInput_keeps _ _ _ _ _ h)
  · exact h

theorem armOutput_keeps (st : OutStation) (first count : Nat) (h : Keeps r s) :
    Keeps r (armOutput st first count s) := by
  unfold armOutput; dsimp only; split
  · exact modOut_keeps _ _ h
  · exact modPair_keeps _ _ (modOut_keeps _ _ h)

theorem serveArmOutput_keeps (station : Byte) (first count : Half) (h : Keeps r s) :
    Keeps r (serveArmOutput station first count s).1 := by
  unfold serveArmOutput
  repeat' split
  · exact h
  · exact h
  · exact h
  · exact h
  · exact settle_keeps (armOutput_keeps _ _ _ h)
  · exact h

/-! ### Sockets, soak positions and units -/

theorem serveSocketEnable_keeps (socket : Byte) (h : Keeps r s) : Keeps r (serveSocketEnable socket s).1 := by
  unfold serveSocketEnable
  repeat' split
  · exact h
  · exact h
  · exact settle_keeps (headsFollow_keeps _ (modSocket_keeps _ _ (fun _ => rfl) h))
  · exact h

theorem setOffPending_keeps (k : SocketIx) (h : Keeps r s) : Keeps r (setOffPending k s) :=
  modSocket_keeps _ _ (fun _ => rfl) h

theorem disableSocket_keeps (k : SocketIx) (h : Keeps r s) : Keeps r (disableSocket k s) := by
  unfold disableSocket
  split
  · exact h
  · exact modSocket_keeps _ _ (fun _ => rfl) h
  · exact cancelWhere_keeps _ _ (setOffPending_keeps _ h)
  · exact evict_keeps _ (setOffPending_keeps _ h)
  all_goals exact setOffPending_keeps _ h

theorem serveSocketDisable_keeps (socket : Byte) (h : Keeps r s) : Keeps r (serveSocketDisable socket s).1 := by
  unfold serveSocketDisable
  repeat' split
  · exact h
  · exact settle_keeps (headsFollow_keeps _ (checkEmpty_keeps (disableSocket_keeps _ h)))
  · exact h

theorem serveSocketClear_keeps (socket : Byte) (h : Keeps r s) : Keeps r (serveSocketClear socket s).1 := by
  unfold serveSocketClear
  repeat' split
  · exact h
  · exact settle_keeps (headsFollow_keeps _ (modSocket_keeps _ _ (fun _ => rfl) h))
  · exact h

theorem serveSoakClear_keeps (position : Byte) (h : Keeps r s) : Keeps r (serveSoakClear position s).1 := by
  unfold serveSoakClear
  repeat' split
  · exact settle_keeps (modSoak_keeps _ _ h)
  · exact h
  · exact h

theorem serveUnitClear_keeps (u : Word) (h : Keeps r s) : Keeps r (serveUnitClear u s).1 := by
  unfold serveUnitClear
  repeat' split
  · exact h
  · exact h
  · exact h
  · exact settle_keeps (dropUnit_keeps _ h)

/-! ### Run control -/

theorem serveHold_keeps (c : HoldCause) (h : Keeps r s) : Keeps r (serveHold c s).1 := by
  unfold serveHold; split
  · exact h
  · exact holdWith_keeps _ h

/-- A RESUME passes its checks in HOLD alone. -/
theorem serveResume_keeps (h : Keeps r s) : Keeps r (serveResume s).1 := by
  unfold serveResume
  split
  · exact h
  · split
    · exact h
    · rename_i hrun
      repeat' split
      · exact h
      · exact h
      · exact resume_keeps (not_not.1 hrun) h

theorem serveRecover_keeps (mask lp up : Byte) (h : Keeps r s) : Keeps r (serveRecover mask lp up s).1 := by
  unfold serveRecover
  dsimp only
  repeat' split
  · exact h
  · exact h
  · exact h
  · exact h
  · exact h
  · exact recovered_keeps _ _ h

theorem serveCycle_keeps (mask : Byte) (h : Keeps r s) : Keeps r (serveCycle mask s).1 := by
  unfold serveCycle
  repeat' split
  · exact h
  · exact h
  · exact settle_keeps (headsFollow_keeps _ (Keeps.foldl (fun _ _ => giveCredit_keeps _ _) _ _ h))

/-! ### Requests that read -/

theorem serveStatus_fst (factor : Byte) (s : State) : (serveStatus factor s).1 = s := by
  unfold serveStatus; repeat' split
  all_goals rfl

theorem serveUnitQuery_fst (u : Word) (place : Half) (s : State) : (serveUnitQuery u place s).1 = s := by
  unfold serveUnitQuery; repeat' split
  all_goals rfl

theorem serveSocketQuery_fst (socket : Byte) (s : State) : (serveSocketQuery socket s).1 = s := by
  unfold serveSocketQuery; split <;> rfl

theorem serveStationQuery_fst (station : Byte) (s : State) : (serveStationQuery station s).1 = s := by
  unfold serveStationQuery; split <;> rfl

theorem serveLotSummary_fst (s : State) : (serveLotSummary s).1 = s := by
  unfold serveLotSummary; repeat' split
  all_goals rfl

theorem serveHeadQuery_keeps (head : Byte) (h : Keeps r s) : Keeps r (serveHeadQuery head s).1 := by
  unfold serveHeadQuery
  split
  · dsimp only; split
    · exact h
    · exact modHead_keeps _ _ (fun _ h => h) h
  · exact h

theorem removeRecords_keeps (n : Nat) (h : Keeps r s) : Keeps r (removeRecords n s) := by
  refine settle_keeps (h.onSrt _ rfl rfl (fun i => ⟨?_, i.once⟩))
  have := i.room
  simp only [List.length_drop]
  omega

theorem serveLogRead_keeps (count : Byte) (h : Keeps r s) : Keeps r (serveLogRead count s).1 := by
  unfold serveLogRead
  split
  · exact h
  · dsimp only; split
    · exact h
    · exact removeRecords_keeps _ h

/-! ### Every request that stores no value of its own -/

/-- The requests that store values of their own: what is taught, the settings of the lot and of the run control unit,
the notice masks, and the mark of a RESET. -/
def storesValues : Request → Bool
  | .setupAxis .. | .setupCamera .. | .setupSocket .. | .setupSoak .. | .setupStation .. | .setupChute .. => true
  | .lotOpen .. | .setLot .. | .setBin .. | .setCategory .. | .lotStart => true
  | .setMode .. | .setHoldpoint .. | .setProtect .. => true
  | .noticeEnable .. | .noticeClear .. | .reset => true
  | _ => false

theorem serve_keeps (q : Request) (hq : storesValues q = false) (h : Keeps r s) : Keeps r (serve q s).1 := by
  cases q with
  | lotPurge => exact serveLotPurge_keeps h
  | lotClose => exact serveLotClose_keeps h
  | armInput => exact serveArmInput_keeps _ _ _ _ _ h
  | armOutput => exact serveArmOutput_keeps _ _ _ h
  | socketEnable => exact serveSocketEnable_keeps _ h
  | socketDisable => exact serveSocketDisable_keeps _ h
  | socketClear => exact serveSocketClear_keeps _ h
  | soakClear => exact serveSoakClear_keeps _ h
  | unitClear => exact serveUnitClear_keeps _ h
  | hold => exact serveHold_keeps _ h
  | holdNow => exact serveHold_keeps _ h
  | resume => exact serveResume_keeps h
  | recover => exact serveRecover_keeps _ _ _ h
  | cycle => exact serveCycle_keeps _ h
  | status factor => exact (serveStatus_fst factor s).symm ▸ h
  | unitQuery u place => exact (serveUnitQuery_fst u place s).symm ▸ h
  | socketQuery socket => exact (serveSocketQuery_fst socket s).symm ▸ h
  | headQuery => exact serveHeadQuery_keeps _ h
  | stationQuery station => exact (serveStationQuery_fst station s).symm ▸ h
  | lotSummary => exact (serveLotSummary_fst s).symm ▸ h
  | logRead => exact serveLogRead_keeps _ h
  | _ => cases hq

end Sys2Proof.Machine
end

section
/-! PROOF. A property that the operations of the blocks, the cell link, the lines, the requests that store values and a
reset keep is kept by every step: the case analysis over the commands, made once for every invariant of that kind. -/
namespace Sys2Proof.Machine

variable {s t : State}

/-! ### Events outside the requests, as operations of the blocks -/

theorem whenDue_keeps {b : Bool} {f : State → State} (hf : b = true → Keeps s (f s)) : Keeps s (whenDue b f s) := by
  unfold whenDue; split
  · rename_i hb; exact hf hb
  · exact .refl s

theorem settleDue_run (h : settleDue s = true) : s.rcu.run = .resuming := by
  simp only [settleDue, Bool.and_eq_true, decide_eq_true_eq] at h
  exact h.1

/-- The settle timer expires in RESUMING, so the run state is not HOLD. -/
theorem settleEvent_keeps (s : State) : Keeps s (whenDue (settleDue s) settleExpiry s) :=
  whenDue_keeps fun hdue => returnToRun_keeps (by rw [settleDue_run hdue]; decide) (.refl s)

/-- The hold causes are free in HOLD. -/
theorem Keeps.onCauses (c : HoldCauses) (hr : s.rcu.run = .hold) :
    Keeps s { s with rcu := { s.rcu with causes := c } } :=
  { Keeps.refl s with
    log := fun i => ⟨i.room, i.once⟩
    run := fun i => { causes := fun hne => absurd hr hne, settle := i.settle, delay := i.delay, timeout := i.timeout,
                      timers := i.timers } }

/-- The level of DOOR is read at the end of reset (R160). -/
def readDoor (s : State) : State :=
  if s.pins.door then modRcu (fun r => { r with causes := { r.causes with door := true } }) s else s

theorem readLines_eq (s : State) :
    readLines s = if (readDoor s).pins.estop then enterEstop (readDoor s) else readDoor s := rfl

/-- The part reads its lines in HOLD (R160). -/
theorem readLines_keeps (hr : s.rcu.run = .hold) : Keeps s (readLines s) := by
  have hdoor : Keeps s (readDoor s) := by
    unfold readDoor; split
    · exact Keeps.onCauses _ hr
    · exact .refl s
  rw [readLines_eq]; split
  · exact enterEstop_keeps hdoor
  · exact hdoor

/-! ### The request that a row brings -/

theorem exec_of_requestOf {i : Instr} {tag : Byte} {q : Request} (h : requestOf i = some (tag, q)) (s : State) :
    exec i s = .next (live (submit tag q) s) := by
  cases i <;> cases h <;> rfl

/-! ### Properties that every step keeps -/

/-- What a property of the part needs so that every step keeps it. -/
structure StepKept (P : State → Prop) : Prop where
  blocks : ∀ {r s}, Keeps r s → P r → P s
  queue : ∀ {s} cs, P s → P { s with pending := cs }
  time : ∀ {s} now, P s → P { s with now := now }
  lines : ∀ {s} p, P s → P { s with pins := p }
  link : ∀ {s} c, P s → P { s with clu := c }
  stores : ∀ {s} q, storesValues q = true → P s → P (serve q s).1
  reset : ∀ s, P (resetValues s)

variable {P : State → Prop}

theorem StepKept.serve (k : StepKept P) (q : Request) (h : P s) : P (serve q s).1 := by
  cases hq : storesValues q with
  | true => exact k.stores q hq h
  | false => exact k.blocks (serve_keeps q hq (.refl s)) h

/-! ### The cell link -/

theorem StepKept.takeRequest (k : StepKept P) (tag : Byte) (q : Request) (h : P s) : P (takeRequest tag q s) :=
  k.link _ (k.serve q h)

theorem StepKept.takeFrame (k : StepKept P) (f : Frame) (h : P s) : P (takeFrame f s) := by
  unfold Machine.takeFrame; split
  · exact k.link _ h
  · exact k.link _ h
  · exact k.takeRequest _ _ h

theorem StepKept.pump (k : StepKept P) (h : P s) : P (pump s) := by
  unfold Machine.pump; split
  · exact k.takeFrame _ (k.link _ h)
  · exact h

theorem StepKept.receive (k : StepKept P) (f : Frame) (h : P s) : P (receive s f) := by
  refine k.pump ?_
  unfold joinQueue; split
  · exact k.link _ h
  · exact h

theorem StepKept.cellBytes (k : StepKept P) (bytes : List Byte) (h : P s) : P (cellBytes bytes s) := by
  have hframes : ∀ (fs : List Frame) (s : State), P s → P (fs.foldl Machine.receive s) := by
    intro fs
    induction fs with
    | nil => exact fun _ h => h
    | cons f fs ih => exact fun s h => ih _ (k.receive f h)
  exact hframes _ _ (k.link _ h)

theorem StepKept.submit (k : StepKept P) (tag : Byte) (q : Request) (h : P s) : P (submit tag q s) := by
  unfold Machine.submit
  repeat' split
  · exact k.takeRequest _ _ h
  · exact k.link _ h
  · exact k.receive _ h

theorem StepKept.startTx (k : StepKept P) (h : P s) : P (startTx s) := by
  unfold Machine.startTx
  repeat' split
  · exact h
  · exact k.link _ h
  · exact k.link _ h
  · exact h

theorem StepKept.live (k : StepKept P) {f : State → State} (hf : P s → P (f s)) (h : P s) : P (live f s) := by
  unfold Machine.live; split
  · exact h
  · exact k.startTx (hf h)

theorem StepKept.liveKeeps (k : StepKept P) {f : State → State} (hf : Keeps s (f s)) (h : P s) : P (Machine.live f s) :=
  k.live (k.blocks hf) h

/-! ### Reset and the lines -/

theorem StepKept.endReset (k : StepKept P) (rate : Bool) (s : State) : P (endReset rate s) :=
  k.blocks (readLines_keeps rfl) (k.reset _)

theorem StepKept.replyDone (k : StepKept P) (h : P s) : P (replyDone s) := by
  unfold Machine.replyDone
  repeat' split
  · exact h
  · exact k.endReset _ _
  · exact k.pump (k.link _ h)

theorem StepKept.noticeDone (k : StepKept P) (h : P s) : P (noticeDone s) := by
  unfold Machine.noticeDone; split
  · exact h
  · exact k.link _ h

theorem StepKept.gapTimeout (k : StepKept P) (l : Link) (h : P s) : P (gapTimeout l s) := by
  cases l with
  | cell => exact k.link _ h
  | drive g => exact k.blocks (modGsq_keeps g (fun q => { q with rx := q.rx.gap s.now }) (.refl s)) h

theorem StepKept.doorOpens (k : StepKept P) (h : P s) : P (doorOpens s) := by
  unfold Machine.doorOpens; split
  · exact h
  · exact k.blocks (holdWith_keeps _ (.refl _)) (k.lines _ h)

theorem StepKept.doorCloses (k : StepKept P) (h : P s) : P (doorCloses s) := by
  unfold Machine.doorCloses; dsimp only; split
  · rename_i hrun; exact k.blocks (Keeps.onCauses _ hrun) (k.lines _ h)
  · exact k.lines _ h

theorem StepKept.estopOn (k : StepKept P) (h : P s) : P (estopOn s) := by
  unfold Machine.estopOn; dsimp only
  repeat' split
  · exact h
  · exact k.blocks (raise_keeps _ _ (.refl _)) (k.lines _ h)
  · exact k.blocks (enterEstop_keeps (.refl _)) (k.lines _ h)

/-! ### Commands and steps -/

/-- The commands that are no requests, one by one. -/
theorem StepKept.event (k : StepKept P) {i : Instr} (hi : requestOf i = none) (h : P s) (e : exec i s = .next t) :
    P t := by
  cases i with
  | cellFrameReceived bytes => cases e; exact k.live (k.cellBytes bytes) h
  | unknownKind => cases e; exact k.live (k.receive _) h
  | replySent => cases e; exact k.live k.replyDone h
  | noticeSent => cases e; exact k.live k.noticeDone h
  | done g bytes => cases e; exact k.liveKeeps (driveBytes_keeps g bytes (.refl s)) h
  | driveReplyTimerExpiry g => cases e; exact k.liveKeeps (whenDue_keeps fun _ => driveTimeout_keeps g (.refl s)) h
  | settleTimerExpiry => cases e; exact k.liveKeeps (settleEvent_keeps s) h
  | fillTimerExpiry x => cases e; exact k.liveKeeps (whenDue_keeps fun _ => fillExpiry_keeps x (.refl s)) h
  | testTimerExpiry x => cases e; exact k.liveKeeps (whenDue_keeps fun _ => testExpiry_keeps x (.refl s)) h
  | soakExpiry u => cases e; exact k.liveKeeps (whenDue_keeps fun _ => soakExpiry_keeps u (.refl s)) h
  | stagingTimerExpiry => cases e; exact k.liveKeeps (whenDue_keeps fun _ => stagingExpiry_keeps (.refl s)) h
  | eot x bins => cases e; exact k.liveKeeps (eotEdge_keeps x bins (.refl s)) h
  | doorActive =>
    cases e; split
    · exact k.lines _ h
    · exact k.startTx (k.doorOpens h)
  | doorInactive =>
    cases e; split
    · exact k.lines _ h
    · exact k.startTx (k.doorCloses h)
  | estopActive =>
    cases e; split
    · exact k.lines _ h
    · exact k.startTx (k.estopOn h)
  | estopInactive =>
    cases e; split
    · exact k.lines _ h
    · exact k.startTx (k.lines _ h)
  | resetNLow => cases e; exact k.link _ (k.lines _ h)
  | resetNRelease rate =>
    cases e; unfold releaseReset; split
    · exact k.endReset rate s
    · exact h
  | powerUp rate =>
    cases e; unfold completePowerUp; split
    · exact h
    · exact k.endReset rate s
  | byteGapTimeout l =>
    cases e
    refine k.live (fun h => ?_) h
    unfold whenDue; split
    · exact k.gapTimeout l h
    · exact h
  | _ => cases hi

theorem StepKept.exec (k : StepKept P) (i : Instr) (h : P s) (e : exec i s = .next t) : P t := by
  cases hi : requestOf i with
  | none => exact k.event hi h e
  | some x =>
    rw [exec_of_requestOf hi] at e
    cases e
    exact k.live (k.submit x.1 x.2) h

theorem StepKept.idle (k : StepKept P) (h : P s) : P (idle s) := by
  cases hr : s.pins.resetLow with
  | true => rw [idle_of_reset_low hr]; exact h
  | false =>
    cases hd : dueEvents s with
    | nil => rw [idle_of_nothing_due hr hd]; exact k.time _ h
    | cons e es =>
      obtain ⟨c, -, n, hpick⟩ := pickEvent_spec e es s
      rw [idle_of_due hr hd, hpick]
      exact k.queue _ (k.blocks ((Keeps.refl s).onFree n) h)

theorem StepKept.step (k : StepKept P) (h : P s) (e : step s = .next t) : P t := by
  cases hq : s.pending with
  | nil =>
    rw [step_of_no_command hq] at e
    cases e
    exact k.idle h
  | cons c cs =>
    have hexec : Machine.step s = Machine.exec c { s with pending := cs } := by simp [Machine.step, hq]
    exact k.exec c (k.queue cs h) (hexec ▸ e)

end Sys2Proof.Machine
end

section
/-! PROOF. The lot parameters lie in their ranges and the estimates within 1 and 600,000 ms (R25, R61, R23). -/
namespace Sys2Proof.Machine

variable {s t : State}

/-! ### What the invariant reads -/

theorem EstimateInv.congr (i : EstimateInv s) (hp : t.ltc.params = s.ltc.params)
    (he : t.xpl.estimates = s.xpl.estimates) : EstimateInv t where
  params := hp ▸ i.params
  estimates := he ▸ i.estimates

theorem EstimateInv.keeps (i : EstimateInv s) (k : Keeps s t) : EstimateInv t where
  params := k.params ▸ i.params
  estimates := k.estimates i.estimates

/-! ### Parameters in range (R25) -/

/-- A checked value takes the place of its parameter; of a number from 12 on none is stored (Table 2-2). -/
theorem LotParams.store_legal {p : LotParams} {e : ParamArg} (he : paramOk e = true) (h : p.legal) :
    (p.store e).legal := by
  unfold paramOk at he
  unfold LotParams.store LotParams.legal at *
  dsimp only
  split
  case h_12 => exact h
  all_goals
    rename_i hnumber
    simp only [hnumber, paramRange, Bool.and_eq_true, decide_eq_true_eq] at he
    dsimp only
    omega

theorem LotParams.foldl_store_legal : ∀ (es : List ParamArg) (p : LotParams), es.all paramOk = true → p.legal →
    (es.foldl LotParams.store p).legal
  | [], _, _, h => h
  | e :: es, p, he, h => by
    obtain ⟨hfirst, hrest⟩ := (Bool.and_eq_true ..).mp he
    exact foldl_store_legal es _ hrest (store_legal hfirst h)

theorem serveSetLot_EstimateInv (es : List ParamArg) (i : EstimateInv s) : EstimateInv (serveSetLot es s).1 := by
  unfold serveSetLot
  split
  · exact i
  · split
    · rename_i hok
      exact ⟨LotParams.foldl_store_legal es _ ((Bool.and_eq_true ..).mp hok).1 i.params, i.estimates⟩
    · exact i

/-! ### The lot opened and started (R23, R27, R61) -/

theorem serveLotOpen_EstimateInv (lot : Half) (i : EstimateInv s) : EstimateInv (serveLotOpen lot s).1 := by
  unfold serveLotOpen; split
  · exact ⟨reset_EstimateInv.params, i.estimates⟩
  · exact i

/-- Each head's estimate starts at the nominal test time, which lies in the range of an estimate. -/
theorem startLot_EstimateInv (i : EstimateInv s) : EstimateInv (startLot s) where
  params := i.params
  estimates h := by
    obtain ⟨-, -, hlow, hhigh, -⟩ := i.params
    simpa [startLot, modFsc, modXpl, modLtc] using And.intro hlow hhigh

theorem serveLotStart_EstimateInv (i : EstimateInv s) : EstimateInv (serveLotStart s).1 := by
  unfold serveLotStart
  split
  · exact i
  · split
    · exact i
    · exact (startLot_EstimateInv i).keeps (settle_keeps (headsFollow_keeps _ (.refl _)))

/-! ### Requests that store other values -/

/-- A teach request stores its item or leaves the state as it is (R77). -/
theorem teach_induct {motive : State → Prop} {ranges prerequisites : Bool} {reach : List (Half × Bool)}
    {store : State → State} (hs : motive s) (hstore : motive (store s)) :
    motive (teach ranges prerequisites reach store s).1 := by
  unfold teach
  repeat' split
  · exact hs
  · exact hs
  · exact hs
  · exact hs
  · exact hstore

theorem teach_EstimateInv {ranges prerequisites : Bool} {reach : List (Half × Bool)} {store : State → State}
    (hp : (store s).ltc = s.ltc) (hx : (store s).xpl = s.xpl) (i : EstimateInv s) :
    EstimateInv (teach ranges prerequisites reach store s).1 :=
  teach_induct i (i.congr (by rw [hp]) (by rw [hx]))

theorem serveSetupAxis_EstimateInv (axis : Byte) (k : Half) (lmax park : Word) (i : EstimateInv s) :
    EstimateInv (serveSetupAxis axis k lmax park s).1 := by
  unfold serveSetupAxis; split <;> exact teach_EstimateInv rfl rfl i

theorem serveSetupStation_EstimateInv (station : Byte) (part : StationPart) (i : EstimateInv s) :
    EstimateInv (serveSetupStation station part s).1 := by
  unfold serveSetupStation serveSetupTray serveSetupNest
  split <;> split <;> exact teach_EstimateInv rfl rfl i

theorem serveSetupSocket_EstimateInv (socket : Byte) (lx ly ux uy : Word) (tx ty w : Half) (policy : Byte)
    (i : EstimateInv s) : EstimateInv (serveSetupSocket socket lx ly ux uy tx ty w policy s).1 := by
  unfold serveSetupSocket; split <;> exact teach_EstimateInv rfl rfl i

theorem serveSetBin_EstimateInv (es : List BinArg) (i : EstimateInv s) : EstimateInv (serveSetBin es s).1 := by
  unfold serveSetBin
  repeat' split
  all_goals exact i.congr rfl rfl

theorem serveSetCategory_EstimateInv (es : List CategoryArg) (i : EstimateInv s) :
    EstimateInv (serveSetCategory es s).1 := by
  unfold serveSetCategory
  repeat' split
  all_goals exact i.congr rfl rfl

theorem EstimateInv.onRcu (i : EstimateInv s) (f : Rcu → Rcu) : EstimateInv (modRcu f s) := i.congr rfl rfl

theorem setRunMode_EstimateInv (m : RunMode) (i : EstimateInv s) : EstimateInv (setRunMode m s) := by
  unfold setRunMode; split
  · exact (i.onRcu _).keeps (clearCredits_keeps (.refl _))
  · exact (i.onRcu _).keeps (Keeps.foldl (fun _ _ => requestHead_keeps _) _ _ (.refl _))
  · exact i

theorem serveSetMode_EstimateInv (mode : Byte) (timeout delay : Half) (i : EstimateInv s) :
    EstimateInv (serveSetMode mode timeout delay s).1 := by
  unfold serveSetMode
  split
  · split
    · exact (setRunMode_EstimateInv _ (i.onRcu _)).keeps (settle_keeps (headsFollow_keeps _ (.refl _)))
    · exact i
  · exact i

theorem serveSetHoldpoint_EstimateInv (x kind : Byte) (value : Word) (enabled : Byte) (i : EstimateInv s) :
    EstimateInv (serveSetHoldpoint x kind value enabled s).1 := by
  unfold serveSetHoldpoint
  repeat' split
  all_goals exact i.congr rfl rfl

theorem serveSetProtect_EstimateInv (v : Byte) (i : EstimateInv s) : EstimateInv (serveSetProtect v s).1 := by
  unfold serveSetProtect; split <;> exact i.congr rfl rfl

theorem serveNoticeEnable_EstimateInv (m : Word) (i : EstimateInv s) : EstimateInv (serveNoticeEnable m s).1 := by
  unfold serveNoticeEnable; split <;> exact i.congr rfl rfl

theorem serveNoticeClear_EstimateInv (m : Word) (i : EstimateInv s) : EstimateInv (serveNoticeClear m s).1 := by
  unfold serveNoticeClear
  repeat' split
  all_goals exact i.congr rfl rfl

/-! ### Every step -/

theorem serve_stores_EstimateInv (q : Request) (hq : storesValues q = true) (i : EstimateInv s) :
    EstimateInv (serve q s).1 := by
  cases q with
  | setupAxis => exact serveSetupAxis_EstimateInv _ _ _ _ i
  | setupCamera => exact teach_EstimateInv rfl rfl i
  | setupSocket => exact serveSetupSocket_EstimateInv _ _ _ _ _ _ _ _ _ i
  | setupSoak => exact teach_EstimateInv rfl rfl i
  | setupStation => exact serveSetupStation_EstimateInv _ _ i
  | setupChute => exact teach_EstimateInv rfl rfl i
  | lotOpen => exact serveLotOpen_EstimateInv _ i
  | setLot => exact serveSetLot_EstimateInv _ i
  | setBin => exact serveSetBin_EstimateInv _ i
  | setCategory => exact serveSetCategory_EstimateInv _ i
  | lotStart => exact serveLotStart_EstimateInv i
  | setMode => exact serveSetMode_EstimateInv _ _ _ i
  | setHoldpoint => exact serveSetHoldpoint_EstimateInv _ _ _ _ i
  | setProtect => exact serveSetProtect_EstimateInv _ i
  | noticeEnable => exact serveNoticeEnable_EstimateInv _ i
  | noticeClear => exact serveNoticeClear_EstimateInv _ i
  | reset => exact i.congr rfl rfl
  | _ => cases hq

theorem EstimateInv.stepKept : StepKept EstimateInv where
  blocks k i := i.keeps k
  queue _ i := i.congr rfl rfl
  time _ i := i.congr rfl rfl
  lines _ i := i.congr rfl rfl
  link _ i := i.congr rfl rfl
  stores q hq i := serve_stores_EstimateInv q hq i
  reset _ := reset_EstimateInv.congr rfl rfl

/-- Settles O37: besides a reset, only LOT_OPEN and SET_LOT change a parameter, and only LOT_START and a capture an
estimate. -/
theorem stepKeepsParametersAndEstimates : Obligations.StepKeepsParametersAndEstimates :=
  fun _ _ i e => EstimateInv.stepKept.step i e

end Sys2Proof.Machine
end

section
/-! PROOF. LOT_OPEN, and the requests that fill the tables of a lot (R23, R25, R145, R146). -/
namespace Sys2Proof.Machine

variable {s : State} {tag : Byte}

/-- A well-formed request that is taken at once, as a row (R175). -/
theorem exec_of_takesNow {i : Instr} {q : Request} (hi : requestOf i = some (tag, q)) (h : takesNow s)
    (hw : q.wf = true) : exec i s = .next (replied q.kind tag (serve q s).2 (serve q s).1) := by
  rw [exec_of_requestOf hi, live_submit_of_takesNow h hw]

/-! ### LOT_OPEN -/

/-- Settles O30: the two cases of `serveLotOpen`. -/
theorem lotOpenPreparesTheLot : Obligations.LotOpenPreparesTheLot := by
  intro tag lot s h
  rw [exec_of_takesNow rfl h rfl]
  by_cases hidle : s.ltc.state = .idle
  · simp only [serve, serveLotOpen, if_pos hidle]; rfl
  · simp only [serve, serveLotOpen, if_neg hidle]; rfl

/-! ### Lists that are stored whole or not at all -/

theorem distinct_iff : ∀ l : List Byte, distinct l = true ↔ l.Nodup
  | [] => by simp [distinct]
  | b :: bs => by simp [distinct, distinct_iff bs]

/-- The check of a list of entries: each in range, and none named twice. -/
theorem listChecked_iff {α : Type} (ok : α → Bool) (name : α → Byte) (es : List α) :
    (es.all ok && distinct (es.map name)) = true ↔ (∀ e ∈ es, ok e = true) ∧ (es.map name).Nodup := by
  simp [distinct_iff]

/-- What a request with a list answers that is stored whole or not at all: it is refused in another lot state, stored
where it passes the check, and refused otherwise. -/
theorem storedOrNot {α : Type} {ok : α → Bool} {name : α → Byte} {es : List α} {opened : Prop} [Decidable opened]
    {stored : State} {kind : Byte} {r : State × List Byte} {o : Host.Outcome State Fault Refusal}
    (ho : o = .next (replied kind tag r.2 r.1))
    (hr : r = if ¬opened then (s, answer .wrongState [])
      else if es.all ok && distinct (es.map name) then (stored, answer .ok []) else (s, answer .badArg [])) :
    (¬opened → o = .next (replied kind tag [4] s))
    ∧ (opened → (∀ e ∈ es, ok e = true) → (es.map name).Nodup → o = .next (replied kind tag [0] stored))
    ∧ (opened → (∃ e ∈ es, ok e = false) ∨ ¬(es.map name).Nodup → o = .next (replied kind tag [3] s)) := by
  subst ho hr
  refine ⟨fun hs => ?_, fun hs hall hnodup => ?_, fun hs hbad => ?_⟩
  · rw [if_pos hs]; rfl
  · rw [if_neg (not_not.2 hs), if_pos ((listChecked_iff ok name es).2 ⟨hall, hnodup⟩)]; rfl
  · rw [if_neg (not_not.2 hs), if_neg]
    · rfl
    · rw [listChecked_iff]
      rintro ⟨hall, hnodup⟩
      rcases hbad with ⟨e, he, hbad⟩ | hdup
      · simp [hall e he] at hbad
      · exact hdup hnodup

theorem serveSetLot_eq (es : List ParamArg) (s : State) : serveSetLot es s =
    if ¬s.ltc.state = .opened then (s, answer .wrongState [])
    else if es.all paramOk && distinct (es.map ParamArg.number) then
      (modLtc (fun l => { l with params := es.foldl LotParams.store l.params }) s, answer .ok [])
    else (s, answer .badArg []) := rfl

theorem serveSetCategory_eq (es : List CategoryArg) (s : State) : serveSetCategory es s =
    if ¬s.ltc.state = .opened then (s, answer .wrongState [])
    else if es.all (fun e => (categoryOf e).isSome) && distinct (es.map CategoryArg.category) then
      (modSrt (fun t => { t with categories := es.foldl storeCategory t.categories }) s, answer .ok [])
    else (s, answer .badArg []) := rfl

/-- SET_BIN with at most 8 entries (R145). -/
theorem serveSetBin_of_le {es : List BinArg} (hn : es.length ≤ 8) (s : State) : serveSetBin es s =
    if ¬s.ltc.state = .opened then (s, answer .wrongState [])
    else if es.all (fun e => (binOf e).isSome) && distinct (es.map BinArg.bin) then
      (modSrt (fun t => { t with binMap := es.foldl storeBin t.binMap }) s, answer .ok [])
    else (s, answer .badArg []) := by
  simp [serveSetBin, hn]

theorem exec_setLot_of_takesNow {es : List ParamArg} (h : takesNow s) (h1 : 1 ≤ es.length) (hn : es.length ≤ 47) :
    exec (.setLot tag es) s = .next (replied 0x09 tag (serveSetLot es s).2 (serveSetLot es s).1) :=
  exec_of_takesNow (q := .setLot es) rfl h (by simp [Request.wf, h1, hn])

theorem exec_setBin_of_takesNow {es : List BinArg} (h : takesNow s) (h1 : 1 ≤ es.length) (hn : es.length ≤ 47) :
    exec (.setBin tag es) s = .next (replied 0x0A tag (serveSetBin es s).2 (serveSetBin es s).1) :=
  exec_of_takesNow (q := .setBin es) rfl h (by simp [Request.wf, h1, hn])

theorem exec_setCategory_of_takesNow {es : List CategoryArg} (h : takesNow s) (h1 : 1 ≤ es.length)
    (hn : es.length ≤ 119) :
    exec (.setCategory tag es) s = .next (replied 0x0B tag (serveSetCategory es s).2 (serveSetCategory es s).1) :=
  exec_of_takesNow (q := .setCategory es) rfl h (by simp [Request.wf, h1, hn])

/-- Settles O31: the three tables are stored by one rule. -/
theorem lotTablesAreStoredWholeOrNotAtAll : Obligations.LotTablesAreStoredWholeOrNotAtAll := by
  intro tag s h
  refine ⟨fun es h1 hn => ?_, fun es h1 hn => ?_, fun es h1 hn => ?_⟩
  · exact storedOrNot (exec_setLot_of_takesNow h h1 hn) (serveSetLot_eq es s)
  · have hstored := storedOrNot (tag := tag) (exec_setBin_of_takesNow h h1 (by omega)) (serveSetBin_of_le hn s)
    simp only [Option.isSome_eq_false_iff, Option.isNone_iff_eq_none] at hstored
    exact hstored
  · have hstored := storedOrNot (tag := tag) (exec_setCategory_of_takesNow h h1 hn) (serveSetCategory_eq es s)
    simp only [Option.isSome_eq_false_iff, Option.isNone_iff_eq_none] at hstored
    exact hstored

end Sys2Proof.Machine
end

section
/-! PROOF. LOT_START: the five checks of Table 2-3, each as a fact about the sockets, the tables and the parameters, and
the first of them that fails (R26, R27, R47, R48, R61). -/
namespace Sys2Proof.Machine

variable {s : State} {tag : Byte}

/-! ### The five checks -/

theorem exists_mem_toList_iff {α : Type} {n : Nat} {v : Vector α n} {p : α → Prop} :
    (∃ x ∈ v.toList, p x) ↔ ∃ i : Fin n, p v[i] := by
  constructor
  · rintro ⟨x, hx, hp⟩
    obtain ⟨i, hi, rfl⟩ := Vector.mem_iff_getElem.1 (Vector.mem_toList_iff.1 hx)
    exact ⟨⟨i, hi⟩, hp⟩
  · rintro ⟨i, hp⟩
    exact ⟨v[i], by simp, hp⟩

theorem forall_mem_toList_iff {α : Type} {n : Nat} {v : Vector α n} {p : α → Prop} :
    (∀ x ∈ v.toList, p x) ↔ ∀ i : Fin n, p v[i] := by
  simpa using not_congr (exists_mem_toList_iff (v := v) (p := fun x => ¬p x))

/-- Every category that a bin map entry uses is mapped (R26, check 3). -/
def BinEntry.UsesMapped (e : BinEntry) (s : State) : Prop :=
  s.srt.categories[e.category] ≠ .unmapped ∧ (e.condition ≠ .none → s.srt.categories[e.alternate] ≠ .unmapped)

theorem BinEntry.uses_all_mapped (e : BinEntry) : e.uses.all (mapped s) = true ↔ e.UsesMapped s := by
  unfold BinEntry.uses BinEntry.UsesMapped
  split <;> simp_all [mapped]

/-- Check 1: some socket is active. -/
theorem activeCheck_iff : (activeSet s).any id = true ↔ ∃ k : SocketIx, s.hsc.sockets[k].active = true := by
  rw [activeSet, List.any_map, List.any_eq_true]
  exact exists_mem_toList_iff

/-- Check 2: every bin has an entry. -/
theorem binsCheck_iff : s.srt.binMap.toList.all Option.isSome = true ↔ ∀ b : BinCode, s.srt.binMap[b] ≠ none := by
  rw [List.all_eq_true, forall_mem_toList_iff]
  simp [Option.isSome_iff_ne_none]

/-- Check 3: the categories that the bin map uses and the purge category are mapped. -/
theorem categoriesCheck_iff : (s.srt.binMap.toList.all (fun e => (e.map (fun e => e.uses.all (mapped s))).getD true)
      && mapped s s.ltc.params.purgeCategory) = true
    ↔ (∀ (b : BinCode) (e : BinEntry), s.srt.binMap[b] = some e → e.UsesMapped s)
      ∧ s.srt.categories[s.ltc.params.purgeCategory] ≠ .unmapped := by
  have hentry : ∀ x : Option BinEntry, (x.map (fun e => e.uses.all (mapped s))).getD true = true
      ↔ ∀ e, x = some e → e.UsesMapped s := by
    intro x
    cases x with
    | none => simp
    | some e => simpa using e.uses_all_mapped (s := s)
  rw [Bool.and_eq_true, List.all_eq_true, forall_mem_toList_iff]
  simp only [hentry, mapped, decide_eq_true_eq]

/-! ### The first check that fails -/

theorem exec_lotStart_of_takesNow (h : takesNow s) :
    exec (.lotStart tag) s = .next (replied 0x0C tag (serveLotStart s).2 (serveLotStart s).1) :=
  exec_of_takesNow (q := .lotStart) rfl h rfl

theorem exec_lotStart_refused (h : takesNow s) (ho : s.ltc.state ≠ .opened) :
    exec (.lotStart tag) s = .next (replied 0x0C tag [4] s) := by
  rw [exec_lotStart_of_takesNow h, serveLotStart, if_pos ho]; rfl

theorem exec_lotStart_failed {n : Nat} (h : takesNow s) (ho : s.ltc.state = .opened)
    (hn : firstFalse 1 (startChecks s) = some n) :
    exec (.lotStart tag) s = .next (replied 0x0C tag [3, BitVec.ofNat 8 n] s) := by
  rw [exec_lotStart_of_takesNow h, serveLotStart, if_neg (not_not.2 ho), hn]; rfl

theorem exec_lotStart_started (h : takesNow s) (ho : s.ltc.state = .opened)
    (hn : firstFalse 1 (startChecks s) = none) :
    exec (.lotStart tag) s = .next (replied 0x0C tag [0] (settle (headsFollow s (startLot s)))) := by
  rw [exec_lotStart_of_takesNow h, serveLotStart, if_neg (not_not.2 ho), hn]; rfl

/-- A bin map whose entries all use mapped categories passes checks 2 and 3 but for the purge category. -/
theorem bins_of_usesMapped (h : ∀ b : BinCode, ∃ e, s.srt.binMap[b] = some e ∧ e.UsesMapped s) :
    (∀ b : BinCode, s.srt.binMap[b] ≠ none)
    ∧ ∀ (b : BinCode) (e : BinEntry), s.srt.binMap[b] = some e → e.UsesMapped s := by
  refine ⟨fun b hb => ?_, fun b e hb => ?_⟩
  all_goals obtain ⟨e', he, hmapped⟩ := h b
  · exact nomatch hb.symm.trans he
  · cases hb.symm.trans he; exact hmapped

theorem BinEntry.not_usesMapped {e : BinEntry} (h : s.srt.categories[e.category] = .unmapped
    ∨ (e.condition ≠ .none ∧ s.srt.categories[e.alternate] = .unmapped)) : ¬e.UsesMapped s := by
  rintro ⟨hcategory, halternate⟩
  rcases h with h | ⟨hcond, h⟩
  · exact hcategory h
  · exact halternate hcond h

/-- Settles O32: each clause says which checks hold, and so which is the first that fails. -/
theorem lotStartTakesACheckedLot : Obligations.LotStartTakesACheckedLot := by
  intro tag s h
  refine ⟨exec_lotStart_refused h, fun ho hactive hbins hpurge htime hreserve => ?_, fun ho hactive => ?_,
    fun ho hactive hbins => ?_, fun ho hactive hbins hcategories => ?_, fun ho hactive hbins hpurge => ⟨fun htime => ?_,
      fun htime hreserve => ?_⟩⟩
  · obtain ⟨hset, huses⟩ := bins_of_usesMapped hbins
    refine exec_lotStart_started h ho ?_
    simp only [startChecks, firstFalse, activeCheck_iff.2 hactive, binsCheck_iff.2 hset,
      categoriesCheck_iff.2 ⟨huses, hpurge⟩, htime, hreserve, decide_true, if_true]
  · have hcheck : (activeSet s).any id = false := Bool.eq_false_iff.2 fun hc => by
      obtain ⟨k, hk⟩ := activeCheck_iff.1 hc
      exact Bool.false_ne_true ((hactive k).symm.trans hk)
    refine exec_lotStart_failed (n := 1) h ho ?_
    simp only [startChecks, firstFalse, hcheck, Bool.false_eq_true, if_false]
  · have hcheck : s.srt.binMap.toList.all Option.isSome = false := Bool.eq_false_iff.2 fun hc => by
      obtain ⟨b, hb⟩ := hbins
      exact binsCheck_iff.1 hc b hb
    refine exec_lotStart_failed (n := 2) h ho ?_
    simp only [startChecks, firstFalse, activeCheck_iff.2 hactive, hcheck, Bool.false_eq_true, if_true, if_false]
  · have hcheck := Bool.eq_false_iff.2 fun hc => by
      obtain ⟨huses, hpurge⟩ := categoriesCheck_iff.1 hc
      rcases hcategories with ⟨b, e, hb, he⟩ | hunmapped
      · exact BinEntry.not_usesMapped he (huses b e hb)
      · exact hpurge hunmapped
    refine exec_lotStart_failed (n := 3) h ho ?_
    simp only [startChecks, firstFalse, activeCheck_iff.2 hactive, binsCheck_iff.2 hbins, hcheck, Bool.false_eq_true,
      if_true, if_false]
  · obtain ⟨hset, huses⟩ := bins_of_usesMapped hbins
    refine exec_lotStart_failed (n := 4) h ho ?_
    simp only [startChecks, firstFalse, activeCheck_iff.2 hactive, binsCheck_iff.2 hset,
      categoriesCheck_iff.2 ⟨huses, hpurge⟩, not_le.2 htime, decide_false, Bool.false_eq_true, if_true, if_false]
  · obtain ⟨hset, huses⟩ := bins_of_usesMapped hbins
    refine exec_lotStart_failed (n := 5) h ho ?_
    simp only [startChecks, firstFalse, activeCheck_iff.2 hactive, binsCheck_iff.2 hset,
      categoriesCheck_iff.2 ⟨huses, hpurge⟩, htime, not_le.2 hreserve, decide_true, decide_false, Bool.false_eq_true,
      if_true, if_false]

end Sys2Proof.Machine
end

section
/-! PROOF. What the operations of a purge keep (R29, R74, R50): a lot that is PURGING or DRAINED stays so with the time of
its purge, and no order joins the load queue or is changed in it, but for the masks of its INSPECTs. -/
namespace Sys2Proof.Machine

variable {r s t : State}

/-- The lot is PURGING, or DRAINED after it. -/
def Ltc.InPurge (l : Ltc) : Prop := l.state = .purging ∨ l.state = .drained

/-- What the operations of a purge keep between two states. -/
structure Purges (r s : State) : Prop where
  lot : r.ltc.InPurge → s.ltc.InPurge ∧ s.ltc.times.purge = r.ltc.times.purge
  orders : ∀ o ∈ s.xpl.loadQueue, o.kind ≠ .inspect → o ∈ r.xpl.loadQueue

theorem Purges.refl (s : State) : Purges s s := ⟨fun h => ⟨h, rfl⟩, fun _ h _ => h⟩

theorem Purges.same (h : Purges r s) (hl : t.ltc = s.ltc) (hq : t.xpl.loadQueue = s.xpl.loadQueue) : Purges r t where
  lot := hl ▸ h.lot
  orders := hq ▸ h.orders

theorem Purges.foldl {α : Type} {f : State → α → State} (hf : ∀ s a, Purges r s → Purges r (f s a)) :
    ∀ (l : List α) (s : State), Purges r s → Purges r (l.foldl f s)
  | [], _, h => h
  | a :: l, s, h => Purges.foldl hf l (f s a) (hf s a h)

/-! ### The lot controller and the stations -/

theorem becomeDrained_purges (h : Purges r s) : Purges r (becomeDrained s) where
  lot i := ⟨.inr rfl, (h.lot i).2⟩
  orders := h.orders

theorem checkEmpty_purges (h : Purges r s) : Purges r (checkEmpty s) := by
  unfold checkEmpty; split
  · exact becomeDrained_purges h
  · exact h

/-- Input-done finds no lot RUNNING at a purge (R28). -/
theorem inputDone_purges (h : Purges r s) : Purges r (inputDone s) where
  lot i := by
    have hrun : s.ltc.state ≠ .running := by rcases (h.lot i).1 with e | e <;> simp [e]
    rw [inputDone, if_neg hrun]
    exact h.lot i
  orders := by rw [(inputDone_same (.refl s)).xpl]; exact h.orders

theorem modIn_purges (st : Side) (f : InStation → InStation) (h : Purges r s) : Purges r (modIn st f s) :=
  h.same (modIn_ltc ..) (by rw [modIn_xpl])

theorem spendStation_purges (st : Side) (h : Purges r s) : Purges r (spendStation st s) := by
  unfold spendStation; exact modIn_purges _ _ (h.same rfl rfl)

theorem disarmStation_purges (st : Side) (h : Purges r s) : Purges r (disarmStation st s) := modIn_purges _ _ h

theorem modFsc_purges (f : Fsc → Fsc) (h : Purges r s) : Purges r (modFsc f s) := h.same rfl rfl

theorem trayCountEnds_purges (st : Side) (h : Purges r s) : Purges r (trayCountEnds st s) := by
  have hdone := modFsc_purges (fun f => { f with starved := false }) (inputDone_purges h)
  unfold trayCountEnds; dsimp only; split
  · exact spendStation_purges _ (disarmStation_purges _ hdone)
  · exact hdone

theorem stepTrayCounter_purges (st : Side) (h : Purges r s) : Purges r (stepTrayCounter st s) := by
  unfold stepTrayCounter; dsimp only
  repeat' split
  · exact h
  · exact trayCountEnds_purges _ (modFsc_purges _ h)
  all_goals exact h.same rfl rfl

theorem spendIfDone_purges (st : Side) (h : Purges r s) : Purges r (spendIfDone st s) := by
  unfold spendIfDone; dsimp only
  repeat' split
  · exact stepTrayCounter_purges _ (spendStation_purges _ h)
  · exact spendStation_purges _ h
  · exact h

theorem endInputPick_givenUp (st : Side) (s : State) :
    endInputPick st .givenUp s = spendIfDone st (modIn st (InStation.endPick .givenUp) s) := by
  simp [endInputPick]

theorem endInputPick_purges (st : Side) (h : Purges r s) : Purges r (endInputPick st .givenUp s) := by
  rw [endInputPick_givenUp]; exact spendIfDone_purges _ (modIn_purges _ _ h)

/-! ### Releases -/

theorem releaseSocket_purges (k : SocketIx) (h : Purges r s) : Purges r (releaseSocket k s) := by
  unfold releaseSocket; split
  · exact h.same rfl rfl
  · exact h

theorem releaseSoak_purges (p : SoakIx) (h : Purges r s) : Purges r (releaseSoak p s) := by
  unfold releaseSoak; split
  · exact h.same rfl rfl
  · exact h

theorem endOutPlace_purges (st : OutStation) (b : Bool) (h : Purges r s) : Purges r (endOutPlace st b s) := by
  rw [endOutPlace_eq]; split <;> exact h.same rfl rfl

theorem releaseOrder_purges (o : Order) (h : Purges r s) : Purges r (releaseOrder o s) := by
  unfold releaseOrder; split
  · exact h
  · exact releaseSocket_purges _ h
  · exact releaseSoak_purges _ h
  · exact (endOutPlace_purges _ _ h).same rfl rfl
  · exact h.same rfl rfl

/-- Orders are taken out of the load queue, or INSPECTs in it changed. -/
theorem modLoadQueue_purges (f : List Order → List Order)
    (hf : ∀ l, ∀ o ∈ f l, o.kind ≠ .inspect → o ∈ l) (h : Purges r s) : Purges r (modQueue .load f s) where
  lot := h.lot
  orders o ho hk := h.orders o (hf _ o ho hk) hk

theorem dropOrder_purges (o : Order) (h : Purges r s) : Purges r (dropOrder .load o s) :=
  releaseOrder_purges _ (modLoadQueue_purges _ (fun _ _ hx _ => (List.mem_filter.1 hx).1) h)

theorem setStageHead_purges (n : NozzleIx) (x : Option HeadIx) (h : Purges r s) : Purges r (setStageHead n x s) :=
  h.same rfl rfl

theorem unmask_purges (n : NozzleIx) (h : Purges r s) : Purges r (unmask n s) := by
  refine modLoadQueue_purges _ (fun _ _ hx _ => (List.mem_filter.1 hx).1)
    (modLoadQueue_purges _ (fun l x hx hk => ?_) h)
  obtain ⟨o, ho, rfl⟩ := List.mem_map.1 hx
  split at hk
  · rename_i hinspect; exact absurd hinspect hk
  · rename_i hplain; rwa [if_neg hplain]

theorem modHeld_purges (u : UnitNo) (f : UnitRec → UnitRec) (h : Purges r s) : Purges r (modHeld u f s) :=
  h.same rfl rfl

theorem addReady_purges (u : UnitNo) (h : Purges r s) : Purges r (addReady u s) := by
  unfold addReady
  repeat' split
  all_goals exact h.same rfl rfl

/-! ### Cancellations (R71) -/

theorem pickCancelled_purges (o : Order) (h : Purges r s) : Purges r (pickCancelled .load o s) := by
  unfold pickCancelled; split
  · exact endInputPick_purges _ (h.same rfl rfl)
  · exact addReady_purges _ (modHeld_purges _ _ h)
  · exact modHeld_purges _ _ h

theorem cancelPick_purges (o : Order) (h : Purges r s) : Purges r (cancelPick .load o s) :=
  pickCancelled_purges _ (setStageHead_purges _ _ (unmask_purges _
    (Purges.foldl (fun _ _ => dropOrder_purges _) _ _ (dropOrder_purges _ h))))

theorem placeEffect_purges (g : Gantry) (o : Order) (h : Purges r s) : Purges r (placeEffect g o s) := by
  unfold placeEffect placeCancelled
  repeat' split
  all_goals exact h.same rfl rfl

theorem inspectCancelledFor_purges (n : NozzleIx) (h : Purges r s) : Purges r (inspectCancelledFor s n) := by
  unfold inspectCancelledFor; dsimp only
  split <;> exact modHeld_purges _ _ (setStageHead_purges _ _ h)

theorem cancelOrder_purges (o : Order) (h : Purges r s) : Purges r (cancelOrder .load o s) := by
  unfold cancelOrder
  repeat' split
  · exact cancelPick_purges _ h
  · exact Purges.foldl (fun _ _ => inspectCancelledFor_purges _) _ _ (dropOrder_purges _ h)
  · exact cancelPick_purges _ h
  · exact placeEffect_purges _ _ (dropOrder_purges _ h)
  · exact dropOrder_purges _ h

theorem cancelOne_purges (id : Nat) (h : Purges r s) : Purges r (cancelOne .load s id) := by
  unfold cancelOne
  repeat' split
  · exact cancelOrder_purges _ h
  · exact h
  · exact h

theorem afterCancel_purges (before : State) (h : Purges r s) : Purges r (afterCancel .load before s) := by
  unfold afterCancel
  repeat' split
  all_goals exact h.same rfl rfl

theorem cancelWhere_purges (p : Order → Bool) (h : Purges r s) : Purges r (cancelWhere .load p s) :=
  afterCancel_purges _ (Purges.foldl (fun _ _ => cancelOne_purges _) _ _ h)

/-! ### Routes, heads and feed stations -/

theorem unready_purges (u : UnitNo) (h : Purges r s) : Purges r (unready u s) := h.same rfl rfl

theorem reroute_purges (u : UnitNo) (h : Purges r s) : Purges r (reroute u s) := by
  unfold reroute
  repeat' split
  · exact unready_purges _ (h.same rfl rfl)
  all_goals exact h

theorem purgeUnitRoute_purges (u : UnitNo) (h : Purges r s) : Purges r (purgeUnitRoute u s) := by
  unfold purgeUnitRoute
  repeat' split
  · exact h
  · exact unready_purges _ (h.same rfl rfl)
  · exact reroute_purges _ h
  all_goals exact h

theorem purgeRoutes_purges (h : Purges r s) : Purges r (purgeRoutes s) :=
  Purges.foldl (fun _ _ => purgeUnitRoute_purges _) _ _ h

theorem evict_purges (k : SocketIx) (h : Purges r s) : Purges r (evict k s) := by
  unfold evict moveSocket; split <;> exact h.same rfl rfl

theorem purgeHead_purges (x : HeadIx) (h : Purges r s) : Purges r (purgeHead s x) := by
  unfold purgeHead
  refine Purges.foldl (fun _ _ => evict_purges _) _ _ ?_
  split
  · exact h.same rfl rfl
  · exact h

theorem purgeHeads_purges (h : Purges r s) : Purges r (purgeHeads s) :=
  Purges.foldl (fun _ _ => purgeHead_purges _) _ _ h

theorem stopStaging_purges (h : Purges r s) : Purges r (stopStaging s) := h.same rfl rfl

theorem purgeStation_purges (st : Side) (h : Purges r s) : Purges r (purgeStation st s) := by
  unfold purgeStation; split
  · exact spendIfDone_purges _ (disarmStation_purges _ h)
  · exact h

theorem purgeFeed_purges (h : Purges r s) : Purges r (purgeFeed s) :=
  modFsc_purges _ (purgeStation_purges _ (purgeStation_purges _ h))

end Sys2Proof.Machine
end

section
/-! PROOF. LOT_PURGE and LOT_CLOSE: when each is taken, and what it leaves (R29 to R31, R34, R50, R51, R74). -/
namespace Sys2Proof.Machine

variable {s : State} {tag : Byte}

/-! ### When they are taken -/

theorem exec_lotPurge_of_takesNow (h : takesNow s) :
    exec (.lotPurge tag) s = .next (replied 0x0D tag (serveLotPurge s).2 (serveLotPurge s).1) :=
  exec_of_takesNow (q := .lotPurge) rfl h rfl

theorem exec_lotClose_of_takesNow (h : takesNow s) :
    exec (.lotClose tag) s = .next (replied 0x0E tag (serveLotClose s).2 (serveLotClose s).1) :=
  exec_of_takesNow (q := .lotClose) rfl h rfl

theorem lotTesting_iff : lotTesting s = true ↔ s.ltc.state = .running ∨ s.ltc.state = .draining := by
  simp [lotTesting]

theorem exec_lotPurge_eq (h : takesNow s) : exec (.lotPurge tag) s =
    .next (if s.ltc.state = .running ∨ s.ltc.state = .draining then
      replied 0x0D tag [0] (settle (headsFollow s (purgeLot s))) else replied 0x0D tag [4] s) := by
  rw [exec_lotPurge_of_takesNow h, serveLotPurge]
  simp only [lotTesting_iff]
  split <;> rfl

theorem exec_lotClose_eq (h : takesNow s) : exec (.lotClose tag) s =
    .next (if s.ltc.state = .drained ∨ s.ltc.state = .opened then
      replied 0x0E tag [0] (settle (headsFollow s (closeLot s))) else replied 0x0E tag [4] s) := by
  rw [exec_lotClose_of_takesNow h, serveLotClose]
  split <;> rfl

/-! ### The lot after a purge -/

theorem enterPurging_lot (s : State) :
    (enterPurging s).ltc.InPurge ∧ (enterPurging s).ltc.times.purge = some s.now :=
  (checkEmpty_purges (.refl (modLtc (fun l =>
    { l with state := .purging, times := { l.times with purge := some s.now } }) s))).lot (.inl rfl)

theorem purgeLot_purges (s : State) : Purges (enterPurging s) (purgeLot s) := by
  rw [purgeLot_eq]
  exact checkEmpty_purges (purgeFeed_purges (stopStaging_purges (purgeHeads_purges (purgeRoutes_purges
    (cancelWhere_purges _ (.refl _))))))

theorem purgeLot_lot (s : State) : (purgeLot s).ltc.InPurge ∧ (purgeLot s).ltc.times.purge = some s.now := by
  obtain ⟨hlot, htime⟩ := enterPurging_lot s
  obtain ⟨hlot', htime'⟩ := (purgeLot_purges s).lot hlot
  exact ⟨hlot', htime'.trans htime⟩

theorem machineEmpty_congr {t : State} (h : t.upt = s.upt) : machineEmpty t = machineEmpty s := by
  simp only [machineEmpty, h]

/-- After the empty test a lot in purge whose machine is empty is DRAINED (R30). -/
theorem checkEmpty_drained (h : (checkEmpty s).ltc.InPurge) (he : machineEmpty (checkEmpty s) = true) :
    (checkEmpty s).ltc.state = .drained := by
  rw [machineEmpty_congr (checkEmpty_same (.refl s)).upt] at he
  unfold checkEmpty at h ⊢
  split
  · rfl
  · rename_i hn
    rw [if_neg hn] at h
    rcases h with hpurging | hdrained
    · exact absurd ⟨.inr hpurging, he⟩ hn
    · exact hdrained

theorem purgeLot_drained (he : machineEmpty (purgeLot s) = true) : (purgeLot s).ltc.state = .drained := by
  have hlot := (purgeLot_lot s).1
  rw [purgeLot_eq] at hlot he ⊢
  exact checkEmpty_drained hlot he

/-! ### The stations after a purge (R50) -/

/-- The station is neither waiting to serve nor serving. -/
def InStation.OutOfService (r : InStation) : Prop := r.state ≠ .standby ∧ r.state ≠ .active

/-- A station disarmed is spent at once when no pick is pending; its end cause is not SPENT, so the tray counter does not
step. -/
theorem purgeStation_eq (st : Side) (s : State) : purgeStation st s =
    if (inStation st s).state = .standby ∨ (inStation st s).state = .active then
      if (inStation st s).pending = 0 then spendStation st (disarmStation st s) else disarmStation st s
    else s := by
  simp [purgeStation, spendIfDone, disarmStation]

theorem purgeStation_outOfService (st : Side) (s : State) : (inStation st (purgeStation st s)).OutOfService := by
  rw [purgeStation_eq]
  split
  · split
    · simp [spendStation, InStation.OutOfService]
    · simp [disarmStation, InStation.OutOfService]
  · rename_i h; exact not_or.1 h

theorem purgeStation_other (st : Side) (s : State) : inStation st (purgeStation st.other s) = inStation st s := by
  have hdisarm : ∀ t, inStation st (disarmStation st.other t) = inStation st t := fun _ =>
    inStation_modIn_of_other st _ _
  have hspend : ∀ t, inStation st (spendStation st.other t) = inStation st t := fun _ =>
    inStation_modIn_of_other st _ _
  rw [purgeStation_eq]
  split
  · split
    · rw [hspend, hdisarm]
    · rw [hdisarm]
  · rfl

theorem purgeFeed_outOfService (st : Side) (s : State) : (inStation st (purgeFeed s)).OutOfService := by
  have hfeed : inStation st (purgeFeed s) = inStation st (purgeStation .b (purgeStation .a s)) :=
    inStation_modFsc st (fun f => { f with starved := false }) _
  rw [hfeed]
  cases st with
  | a =>
    have hother := purgeStation_other .a (purgeStation .a s)
    exact hother ▸ purgeStation_outOfService .a s
  | b => exact purgeStation_outOfService .b _

theorem purgeLot_outOfService (st : Side) (s : State) : (inStation st (purgeLot s)).OutOfService := by
  rw [purgeLot_eq, inStation_congr (checkEmpty_fsc _)]
  exact purgeFeed_outOfService _ _

theorem purgeLot_starved (s : State) : (purgeLot s).fsc.starved = false := by
  rw [purgeLot_eq, checkEmpty_fsc]; rfl

/-! ### The planner after a purge (R74) -/

theorem purgeFeed_sameTable (s : State) : SameTable s (purgeFeed s) := by
  have hstation : ∀ st t, SameTable t (purgeStation st t) := fun st t => by
    rw [purgeStation_eq]
    repeat' split
    · exact spendStation_same _ (modIn_same _ _ (.refl t))
    · exact modIn_same _ _ (.refl t)
    · exact .refl t
  exact modFsc_same _ ((hstation .a s).trans (hstation .b _))

theorem purgeLot_staging (s : State) : (purgeLot s).xpl.staging = none := by
  rw [purgeLot_eq, (checkEmpty_same (purgeFeed_sameTable _)).xpl]; rfl

theorem Order.kind_of_isInputPick {o : Order} (h : o.isInputPick = true) : o.kind = .pick := by
  unfold Order.isInputPick at h
  split at h
  · assumption
  · cases h

/-- Every QUEUED input pick is cancelled. -/
theorem purgeOrders_inputPicks (hids : (s.xpl.loadQueue.map Order.id).Nodup) {o : Order}
    (ho : o ∈ (purgeOrders s).xpl.loadQueue) (hpick : o.isInputPick = true) : o.status ≠ .queued := by
  have hkind : o.kind ≠ .inspect := by rw [Order.kind_of_isInputPick hpick]; decide
  have hmem : o ∈ (queue .load s).filter (purgeCancels s.xpl.tripKind) := by
    refine List.mem_filter.2 ⟨(cancelWhere_purges _ (.refl s)).orders o ho hkind, ?_⟩
    simp [purgeCancels, hpick]
  have hqueue : o ∈ queue .load (purgeOrders s) := ho
  rw [purgeOrders, cancelWhere, queue_afterCancel] at hqueue
  exact cancelAll_spec (g := .load) _ s ⟨hids, fun _ _ _ => rfl⟩ o hqueue (List.mem_map_of_mem hmem)

theorem purgeLot_inputPicks (hids : (s.xpl.loadQueue.map Order.id).Nodup) {o : Order}
    (ho : o ∈ (purgeLot s).xpl.loadQueue) (hpick : o.isInputPick = true) : o.status ≠ .queued := by
  have hkind : o.kind ≠ .inspect := by rw [Order.kind_of_isInputPick hpick]; decide
  have hafter : Purges (purgeOrders (enterPurging s)) (purgeLot s) := by
    rw [purgeLot_eq]
    exact checkEmpty_purges (purgeFeed_purges (stopStaging_purges (purgeHeads_purges (purgeRoutes_purges (.refl _)))))
  have hstart : (enterPurging s).xpl = s.xpl := (checkEmpty_same (modLtc_same _ (.refl s))).xpl
  exact purgeOrders_inputPicks (by rw [hstart]; exact hids) (hafter.orders o ho hkind) hpick

/-! ### What a close leaves -/

/-- The lot controller, the unit table, the feed stations and the sort unit of s are those of r. -/
structure SameLot (r s : State) : Prop where
  ltc : s.ltc = r.ltc
  upt : s.upt = r.upt
  fsc : s.fsc = r.fsc
  srt : s.srt = r.srt

theorem SameLot.refl (s : State) : SameLot s s := ⟨rfl, rfl, rfl, rfl⟩

theorem SameLot.trans {r s t : State} (a : SameLot r s) (b : SameLot s t) : SameLot r t :=
  ⟨b.ltc.trans a.ltc, b.upt.trans a.upt, b.fsc.trans a.fsc, b.srt.trans a.srt⟩

theorem stopWaiting_sameLot (g : Gantry) (s : State) : SameLot s (stopWaiting g s) := by
  unfold stopWaiting; split
  · exact ⟨modGsq_ltc .., modGsq_upt .., modGsq_fsc .., modGsq_srt ..⟩
  · exact .refl s

theorem leaveRun_sameLot (s : State) : SameLot s (leaveRun s) := by
  have hwait := (stopWaiting_sameLot .load s).trans (stopWaiting_sameLot .unload _)
  have hquiet : ∀ t, SameLot t (pauseTimers (withdrawAll t)) := fun _ => ⟨rfl, rfl, rfl, rfl⟩
  exact hwait.trans (hquiet _)

theorem enterHold_sameLot (c : HoldCauses) (arg : List Byte) (s : State) : SameLot s (enterHold c arg s) := by
  have hentry : SameLot s (modRcu (fun r => { r with run := .hold, causes := c, settle := none }) s
      |> raise .holdEntered (n8 c.code ++ arg)) := ⟨rfl, rfl, rfl, rfl⟩
  unfold enterHold
  exact hentry.trans (leaveRun_sameLot _)

theorem enterHold_run (c : HoldCauses) (arg : List Byte) (s : State) : (enterHold c arg s).rcu.run = .hold := by
  unfold enterHold; rw [leaveRun_rcu]; rfl

/-- The close of a lot before the run state follows (R31, R34, R19, R51, R150). -/
def closeBlocks (s : State) : State :=
  s |> modLtc (fun l => { l with
        closed := some (closedSummary s), times := { l.times with closed := some s.now }, state := .idle })
    |> modUpt (fun t => { t with counters := .zero, units := t.units.filter (fun r => r.state ≠ .lost) })
    |> closeFeed |> closeOutput

theorem closeLot_eq (s : State) : closeLot s =
    if s.rcu.run = .run ∨ s.rcu.run = .resuming then
      enterHold { HoldCauses.none with host := true } [] (closeBlocks s)
    else closeBlocks s := rfl

theorem closeLot_sameLot (s : State) : SameLot (closeBlocks s) (closeLot s) := by
  rw [closeLot_eq]; split
  · exact enterHold_sameLot _ _ _
  · exact .refl _

theorem closeLot_run (s : State) :
    (closeLot s).rcu.run = if s.rcu.run = .run ∨ s.rcu.run = .resuming then .hold else s.rcu.run := by
  rw [closeLot_eq]; split
  · exact enterHold_run _ _ _
  · rfl

theorem closeLot_ltc (s : State) :
    (closeLot s).ltc.state = .idle ∧ (closeLot s).ltc.closed = some (closedSummary s) := by
  rw [(closeLot_sameLot s).ltc]; exact ⟨rfl, rfl⟩

theorem closeLot_upt (s : State) : (closeLot s).upt.counters = .zero ∧ (closeLot s).upt.soak = s.upt.soak := by
  rw [(closeLot_sameLot s).upt]; exact ⟨rfl, rfl⟩

theorem mem_closeLot_units {r : UnitRec} : r ∈ (closeLot s).upt.units ↔ r ∈ s.upt.units ∧ r.state ≠ .lost := by
  have hunits : (closeBlocks s).upt.units = s.upt.units.filter (fun r => r.state ≠ .lost) := rfl
  rw [(closeLot_sameLot s).upt, hunits, List.mem_filter, decide_eq_true_eq]

theorem closeLot_fsc (s : State) : (closeLot s).fsc = .reset := (closeLot_sameLot s).fsc

theorem closeLot_log (s : State) : (closeLot s).srt.log = s.srt.log := by rw [(closeLot_sameLot s).srt]; rfl

/-- Settles O33: what the purge and the close leave, one clause after another. -/
theorem lotPurgeAndLotCloseEndALot : Obligations.LotPurgeAndLotCloseEndALot := by
  intro tag s h
  obtain ⟨hlot, htime⟩ := purgeLot_lot s
  obtain ⟨hidle, hclosed⟩ := closeLot_ltc s
  obtain ⟨hcounters, hsoak⟩ := closeLot_upt s
  exact ⟨exec_lotPurge_eq h, exec_lotClose_eq h, htime, hlot, purgeLot_drained, purgeLot_staging s, purgeLot_starved s,
    fun st => purgeLot_outOfService st s, fun hids _ => purgeLot_inputPicks hids, hidle, hclosed, hcounters, hsoak,
    fun _ => mem_closeLot_units, closeLot_fsc s, closeLot_log s, closeLot_run s⟩

end Sys2Proof.Machine
end

section
/-! PROOF. The feed stations: what a planned pick and a hand-over leave in the records of both stations and in the values
they share (R40, R41, R44, R45). -/
namespace Sys2Proof.Machine

variable {r s t : State} {st : Side}

/-! ### Changes of the feed station controller alone -/

/-- The states differ in the feed station controller alone. -/
def SameButFsc (r s : State) : Prop := { s with fsc := r.fsc } = r

theorem SameButFsc.trans (a : SameButFsc r s) (b : SameButFsc s t) : SameButFsc r t := by
  have hst : ({ t with fsc := r.fsc } : State) = { s with fsc := r.fsc } :=
    congrArg (fun x : State => { x with fsc := r.fsc }) b
  exact hst.trans a

theorem modFsc_sameButFsc (f : Fsc → Fsc) (s : State) : SameButFsc s (modFsc f s) := rfl

theorem modIn_sameButFsc (st : Side) (f : InStation → InStation) (s : State) : SameButFsc s (modIn st f s) := by
  cases st <;> rfl

theorem activateIn_sameButFsc (st : Side) (s : State) : SameButFsc s (activateIn st s) :=
  (modIn_sameButFsc st _ s).trans (modFsc_sameButFsc _ _)

/-! ### A record and the shared values after a change of a record -/

section
variable (st : Side) (f g : InStation → InStation) (s : State)

@[simp] theorem modIn_modIn : modIn st f (modIn st g s) = modIn st (fun x => f (g x)) s := by cases st <;> rfl

@[simp] theorem modIn_current : (modIn st f s).fsc.current = s.fsc.current := by cases st <;> rfl
@[simp] theorem modIn_starved : (modIn st f s).fsc.starved = s.fsc.starved := by cases st <;> rfl
@[simp] theorem modIn_trayCounter : (modIn st f s).fsc.trayCounter = s.fsc.trayCounter := by cases st <;> rfl
@[simp] theorem modIn_counted : (modIn st f s).fsc.counted = s.fsc.counted := by cases st <;> rfl

@[simp] theorem inStation_activateIn :
    inStation st (activateIn st s) = { inStation st s with state := .active } :=
  (inStation_modFsc st (fun x => { x with current := some st }) _).trans (inStation_modIn s st _)

@[simp] theorem inStation_activateIn_other : inStation st (activateIn st.other s) = inStation st s :=
  (inStation_modFsc st (fun x => { x with current := some st.other }) _).trans (inStation_modIn_of_other st _ s)

@[simp] theorem activateIn_current : (activateIn st s).fsc.current = some st := rfl

@[simp] theorem activateIn_ltc : (activateIn st s).ltc = s.ltc := modIn_ltc st _ s

end

/-! ### Input-done (R28) -/

theorem inputDone_lot (h : s.ltc.state = .running) :
    (inputDone s).ltc.state = .draining ∨ (inputDone s).ltc.state = .drained := by
  rw [inputDone, if_pos h, checkEmpty]
  split
  · exact .inr rfl
  · exact .inl rfl

/-! ### The hand-over (R44) -/

/-- The feed is starved by a station (R45). -/
def starve (st : Side) (s : State) : State :=
  s |> modFsc (fun f => { f with starved := true }) |> raise .feedStarved (stationArg st)

theorem starve_fsc (st : Side) (s : State) : (starve st s).fsc = { s.fsc with starved := true } := rfl

theorem inStation_starve (st v : Side) (s : State) : inStation v (starve st s) = inStation v s := by cases v <;> rfl

theorem handOver_of_no_more (h : (inStation st s).more = false) : handOver st s = inputDone s := if_pos h

theorem handOver_of_limit (hm : (inStation st s).more = true) (hl : trayLimit s = true) : handOver st s = s := by
  simp [handOver, hm, hl]

theorem handOver_of_standby (hm : (inStation st s).more = true) (hl : trayLimit s = false)
    (ho : (inStation st.other s).state = .standby) : handOver st s = activateIn st.other s := by
  simp [handOver, hm, hl, ho]

theorem handOver_of_starved (hm : (inStation st s).more = true) (hl : trayLimit s = false)
    (ho : (inStation st.other s).state ≠ .standby) : handOver st s = starve st s := by
  simp [handOver, hm, hl, ho, starve]

/-- The station that hands over keeps its record. -/
theorem inStation_handOver (st : Side) (s : State) : inStation st (handOver st s) = inStation st s := by
  unfold handOver
  split
  · exact inStation_congr (inputDone_fsc s) st
  split
  · rfl
  split
  · exact inStation_activateIn_other st s
  · exact inStation_starve st st s

theorem handOver_ltc_of_more (h : (inStation st s).more = true) : (handOver st s).ltc = s.ltc := by
  rw [handOver, if_neg (by simp [h])]
  split
  · rfl
  split
  · exact activateIn_ltc st.other s
  · rfl

/-- The tray limit as a station that is FINISHING finds it: the station counts itself. -/
theorem trayLimit_iff_of_finishing (h : (inStation st s).state = .finishing) : trayLimit s = true ↔
    s.fsc.counted = true ∧ s.fsc.trayCounter.toNat ≤ if (inStation st.other s).state = .finishing then 2 else 1 := by
  have hcount : finishingCount s = if (inStation st.other s).state = .finishing then 2 else 1 := by
    cases st <;> simp only [inStation, Side.other] at h ⊢ <;> rw [finishingCount, if_pos h] <;> split <;> simp [*]
  rw [trayLimit, hcount, Bool.and_eq_true, decide_eq_true_iff]

/-! ### Planned picks (R40, R41) -/

theorem planInputPick_of_not_active (h : ∀ st : Side, s.fsc.current = some st → (inStation st s).state ≠ .active) :
    planInputPick s = none := by
  cases hc : s.fsc.current with
  | none => simp only [planInputPick, hc]
  | some st => simp only [planInputPick, hc, if_neg (h st hc)]

theorem planInputPick_of_opened (hc : s.fsc.current = some st) (ha : (inStation st s).state = .active)
    (hm : (inStation st s).mode = some .opened) : planInputPick s =
      if (inStation st s).pending = 0 then some (st, .nest, modIn st (fun r => { r with pending := 1 }) s)
      else none := by
  simp only [planInputPick, hc, ha, hm, if_true]

theorem planInputPick_of_counted {p : Pocket} (hc : s.fsc.current = some st) (ha : (inStation st s).state = .active)
    (hm : (inStation st s).mode = some .counted) (hn : (inStation st s).next = p.val) :
    planInputPick s = some (st, .pocket p, planPocket st s) := by
  simp only [planInputPick, hc, ha, hm, hn, if_true, Fin.ofNat_val_eq_self]

/-- A record whose next pocket has been planned (R40, step 2). -/
def InStation.takeNext (r : InStation) : InStation :=
  { r with next := r.next + 1, pending := r.pending + 1, remaining := r.remaining - 1 }

/-- A record that leaves service without pockets (R40, step 3). -/
def InStation.spent (r : InStation) : InStation := { r with state := .finishing, endCause := some .spent }

theorem planPocket_of_left (h : 1 < (inStation st s).remaining) :
    planPocket st s = modIn st InStation.takeNext s := by
  have hleft : (inStation st (modIn st InStation.takeNext s)).remaining ≠ 0 := by
    simp only [inStation_modIn, InStation.takeNext]; omega
  exact if_neg hleft

theorem planPocket_of_last (h : (inStation st s).remaining = 1) :
    planPocket st s = handOver st (modIn st (fun r => r.takeNext.spent) s) := by
  have hlast : (inStation st (modIn st InStation.takeNext s)).remaining = 0 := by
    simp only [inStation_modIn, InStation.takeNext, h]
  have hplan : planPocket st s = finishStation st (modIn st InStation.takeNext s) := if_pos hlast
  rw [hplan, ← modIn_modIn st InStation.spent]; rfl

/-- A planned pocket that is not the last changes the record alone. -/
theorem planPocket_left_effect {p : Pocket} (hc : s.fsc.current = some st) (hn : (inStation st s).next = p.val)
    (h : 1 < (inStation st s).remaining) :
    inStation st (planPocket st s) = { inStation st s with
        next := p.val + 1, pending := (inStation st s).pending + 1, remaining := (inStation st s).remaining - 1 }
      ∧ inStation st.other (planPocket st s) = inStation st.other s ∧ (planPocket st s).fsc.current = some st
      ∧ { planPocket st s with fsc := s.fsc } = s := by
  rw [planPocket_of_left h, ← hn]
  exact ⟨inStation_modIn s st _, inStation_modIn_other s st _, (modIn_current st _ s).trans hc,
    modIn_sameButFsc st _ s⟩

/-- The hand-over keeps the record that the last pocket has left FINISHING. -/
theorem inStation_planPocket_last {p : Pocket} (hn : (inStation st s).next = p.val)
    (h : (inStation st s).remaining = 1) : inStation st (planPocket st s) = { inStation st s with
      next := p.val + 1, pending := (inStation st s).pending + 1, remaining := 0, state := .finishing,
      endCause := some .spent } := by
  rw [planPocket_of_last h, inStation_handOver, inStation_modIn, InStation.takeNext, InStation.spent, hn, h]

/-- The hand-over of a station that has just become FINISHING, case by case (R44). -/
theorem handOver_effect (hc : s.fsc.current = some st) :
    ((inStation st s).more = false →
      inStation st.other (handOver st s) = inStation st.other s ∧ (handOver st s).fsc.current = some st
      ∧ (handOver st s).fsc.starved = s.fsc.starved
      ∧ (s.ltc.state = .running → (handOver st s).ltc.state = .draining ∨ (handOver st s).ltc.state = .drained))
    ∧ ((inStation st s).more = true → (handOver st s).ltc = s.ltc)
    ∧ ((inStation st s).more = true → trayLimit s = true →
      inStation st.other (handOver st s) = inStation st.other s ∧ (handOver st s).fsc.current = some st
      ∧ (handOver st s).fsc.starved = s.fsc.starved)
    ∧ ((inStation st s).more = true → ¬trayLimit s = true → (inStation st.other s).state = .standby →
      inStation st.other (handOver st s) = { inStation st.other s with state := .active }
      ∧ (handOver st s).fsc.current = some st.other)
    ∧ ((inStation st s).more = true → ¬trayLimit s = true → (inStation st.other s).state ≠ .standby →
      inStation st.other (handOver st s) = inStation st.other s ∧ (handOver st s).fsc.current = some st
      ∧ (handOver st s).fsc.starved = true ∧ (handOver st s).clu.raised.getLsbD 4 = true) := by
  refine ⟨fun hm => ?_, handOver_ltc_of_more, fun hm hl => ?_, fun hm hl ho => ?_, fun hm hl ho => ?_⟩
  · rw [handOver_of_no_more hm, inputDone_fsc, inStation_congr (inputDone_fsc s)]
    exact ⟨rfl, hc, rfl, inputDone_lot⟩
  · rw [handOver_of_limit hm hl]
    exact ⟨rfl, hc, rfl⟩
  · rw [handOver_of_standby hm (Bool.not_eq_true _ ▸ hl) ho]
    exact ⟨inStation_activateIn st.other s, rfl⟩
  · rw [handOver_of_starved hm (Bool.not_eq_true _ ▸ hl) ho]
    exact ⟨inStation_starve st st.other s, hc, rfl, raise_raised .feedStarved _ _⟩

/-- Settles O39: the answer of `planInputPick` for each mode, and for the last pocket the hand-over in the state where the
station is FINISHING. -/
theorem inputPicksTakeTheNextPlace : Obligations.InputPicksTakeTheNextPlace := by
  refine ⟨fun s h => planInputPick_of_not_active h, fun st s hc ha => ⟨fun hm => ⟨fun h0 => ?_, fun h0 => ?_, rfl⟩,
    fun p hm hn => ⟨planPocket st s, planInputPick_of_counted hc ha hm hn, planPocket_left_effect hc hn, fun hr =>
      ⟨inStation_planPocket_last hn hr, fun limit hlimit => ?_⟩⟩⟩⟩
  · exact ⟨_, (planInputPick_of_opened hc ha hm).trans (if_pos h0), inStation_modIn s st _,
      inStation_modIn_other s st _, modIn_sameButFsc st _ s⟩
  · exact (planInputPick_of_opened hc ha hm).trans (if_neg h0)
  · have hlim := trayLimit_iff_of_finishing (st := st) (s := modIn st (fun r => r.takeNext.spent) s)
      (by rw [inStation_modIn]; rfl)
    have heffect := handOver_effect ((modIn_current st (fun r => r.takeNext.spent) s).trans hc)
    simp only [inStation_modIn_other, modIn_counted, modIn_trayCounter, ← hlimit] at hlim
    simp only [inStation_modIn, inStation_modIn_other, modIn_starved, modIn_ltc, hlim, ← planPocket_of_last hr]
      at heffect
    exact heffect

end Sys2Proof.Machine
end

section
/-! PROOF. ARM_INPUT and ARM_OUTPUT (R38, R39, R151), the pockets of an output pair with their hand-over (R152), and the
reservations of the completion log (R155). -/
namespace Sys2Proof.Machine

variable {s t : State} {tag : Byte} {st : Side} {out v : OutStation} {p q : PairIx}

/-! ### ARM_INPUT: the checks (R38) -/

theorem inputSide_code (st : Side) : inputSide (BitVec.ofNat 8 st.inputKind) = some st := by cases st <;> rfl

theorem feedModeOf_code (m : FeedMode) : feedModeOf (BitVec.ofNat 8 m.code) = some m := by cases m <;> rfl

theorem inputSide_of_ge {b : Byte} (h : 2 ≤ b.toNat) : inputSide b = none := by
  unfold inputSide; split
  · omega
  · omega
  · rfl

theorem feedModeOf_of_ge {b : Byte} (h : 2 ≤ b.toNat) : feedModeOf b = none := by
  unfold feedModeOf; split
  · omega
  · omega
  · rfl

theorem serveArmInput_of_code_ge {station mode more : Byte} (first count : Half)
    (h : 2 ≤ station.toNat ∨ 2 ≤ mode.toNat ∨ 2 ≤ more.toNat) :
    serveArmInput station mode first count more s = (s, [3]) := by
  unfold serveArmInput
  split
  · rename_i hstation hmode
    have hmore : 2 ≤ more.toNat := by
      rcases h with h | h | h
      · simp [inputSide_of_ge h] at hstation
      · simp [feedModeOf_of_ge h] at hmode
      · exact h
    have hflag : more ≠ 0 ∧ more ≠ 1 := ⟨fun e => by simp [e] at hmore, fun e => by simp [e] at hmore⟩
    rw [if_pos hflag]; rfl
  · rfl

theorem serveArmInput_eq (st : Side) (m : FeedMode) (first count : Half) (more : Bool) (s : State) :
    serveArmInput (BitVec.ofNat 8 st.inputKind) (BitVec.ofNat 8 m.code) first count (if more then 1 else 0) s =
      if (s.ltc.state ≠ .opened ∧ s.ltc.state ≠ .running) ∨ (inStation st s).state ≠ .empty then (s, [4])
      else if taughtFor st m s = false then (s, [5])
      else if m = .counted ∧ pocketsOk s.pcu.trays[st.trayIx] first.toNat count.toNat = false then (s, [3])
      else (settle (armInput st m first.toNat count.toNat more s), [0]) := by
  have hflag : ¬((if more then 1 else 0 : Byte) ≠ 0 ∧ (if more then 1 else 0 : Byte) ≠ 1) := by cases more <;> decide
  have hmore : decide ((if more then 1 else 0 : Byte) = 1) = more := by cases more <;> rfl
  simp only [serveArmInput, inputSide_code, feedModeOf_code, if_neg hflag, hmore, answer, Status.code,
    Bool.not_eq_true', ite_or]

/-! ### ARM_INPUT: the record and the shared values (R39) -/

theorem armInput_of_wanted {m : FeedMode} {first count : Nat} {more : Bool}
    (h : s.fsc.current = none ∨ s.fsc.starved = true) : armInput st m first count more s =
      modFsc (fun f => { f with starved := false }) (activateIn st (modIn st (armedRecord m first count more) s)) := by
  unfold armInput
  exact if_pos (by rwa [modIn_current, modIn_starved])

theorem armInput_of_served {m : FeedMode} {first count : Nat} {more : Bool}
    (h : ¬(s.fsc.current = none ∨ s.fsc.starved = true)) : armInput st m first count more s =
      modIn st (fun x => { armedRecord m first count more x with state := .standby }) s := by
  unfold armInput
  exact (if_neg (by rwa [modIn_current, modIn_starved])).trans (modIn_modIn ..)

/-- What an arming leaves in the feed station controller, and that it changes nothing else. -/
theorem armInput_effect (st : Side) (m : FeedMode) (first count : Nat) (more : Bool) (s : State) :
    (armInput st m first count more s).fsc.current
        = (if s.fsc.current = none ∨ s.fsc.starved = true then some st else s.fsc.current)
      ∧ inStation st (armInput st m first count more s) =
          { armedRecord m first count more (inStation st s) with
            state := if s.fsc.current = none ∨ s.fsc.starved = true then .active else .standby }
      ∧ (armInput st m first count more s).fsc.starved = false
      ∧ inStation st.other (armInput st m first count more s) = inStation st.other s
      ∧ { armInput st m first count more s with fsc := s.fsc } = s := by
  by_cases h : s.fsc.current = none ∨ s.fsc.starved = true
  · have hin : ∀ v, inStation v (armInput st m first count more s) =
        inStation v (modIn st (fun x => { armedRecord m first count more x with state := .active }) s) := fun v => by
      rw [armInput_of_wanted h]; cases st <;> cases v <;> rfl
    rw [hin, hin, if_pos h, if_pos h, inStation_modIn, inStation_modIn_other, armInput_of_wanted h]
    exact ⟨rfl, rfl, rfl, rfl, (modIn_sameButFsc st _ s).trans ((activateIn_sameButFsc st _).trans rfl)⟩
  · rw [if_neg h, if_neg h, armInput_of_served h, inStation_modIn, inStation_modIn_other, modIn_current, modIn_starved]
    exact ⟨rfl, rfl, Bool.not_eq_true _ ▸ (not_or.1 h).2, rfl, modIn_sameButFsc st _ s⟩

/-! ### Output stations and pairs after a change -/

theorem OutStation.ix_injective {v w : OutStation} (h : v.ix = w.ix) : v = w := by
  rw [← v.ofIx_ix, h, w.ofIx_ix]

section
variable (f g : OutRec → OutRec) (k : PairRec → PairRec) (s : State)

theorem outStation_modOut_other (h : v ≠ out) : outStation v (modOut out f s) = outStation v s := by
  have hix : out.ix.val ≠ v.ix.val := fun e => h (OutStation.ix_injective (Fin.ext e.symm))
  simp [outStation, hix]

@[simp] theorem modOut_modOut : modOut out f (modOut out g s) = modOut out (fun x => f (g x)) s := by simp [modOut]

theorem outStation_modPair : outStation v (modPair p k s) = outStation v s := rfl

theorem modOut_pairs : (modOut out f s).srt.pairs = s.srt.pairs := rfl

theorem modPair_same : (modPair p k s).srt.pairs[p] = k s.srt.pairs[p] := by simp [modPair]

theorem modPair_other (h : q ≠ p) : (modPair p k s).srt.pairs[q] = s.srt.pairs[q] := by
  have hne : p.val ≠ q.val := fun e => h (Fin.ext e.symm)
  simp [modPair, hne]

end

theorem outStation_congr (h : t.srt = s.srt) (v : OutStation) : outStation v t = outStation v s := by
  simp only [outStation, h]

/-! ### The ACTIVE station of a pair -/

theorem activeOut_eq_none (h : ∀ v : OutStation, v.pair = p → (outStation v s).state ≠ .active) :
    activeOut p s = none := by
  rw [activeOut, if_neg (h _ rfl), if_neg (h _ rfl)]

theorem activeOut_eq_some (ha : (outStation out s).state = .active)
    (ho : (outStation { out with side := out.side.other } s).state ≠ .active) : activeOut out.pair s = some out := by
  obtain ⟨p, side⟩ := out
  cases side with
  | a => exact if_pos ha
  | b => exact (if_neg ho).trans (if_pos ha)

/-! ### ARM_OUTPUT (R151) -/

theorem outputStation_kind (out : OutStation) : outputStation (BitVec.ofNat 8 out.kind) = some out := by
  have hcode : (BitVec.ofNat 8 out.kind).toNat = 2 + out.ix.val := by
    simp only [BitVec.toNat_ofNat, OutStation.kind]; omega
  rw [outputStation, hcode, if_pos (Nat.le_add_right ..), Nat.add_sub_cancel_left, index_val, Option.map_some,
    OutStation.ofIx_ix]

theorem outputStation_of_other {b : Byte} (h : b.toNat < 2 ∨ 10 ≤ b.toNat) : outputStation b = none := by
  unfold outputStation
  split
  · have hi : index 8 (b.toNat - 2) = none := dif_neg (by omega)
    rw [hi]; rfl
  · rfl

theorem armOutputLot_iff : armOutputLot s = false ↔ s.ltc.state = .idle ∨ s.ltc.state = .drained := by
  unfold armOutputLot lotActive
  cases s.ltc.state <;> simp

theorem serveArmOutput_eq (out : OutStation) (first count : Half) (s : State) :
    serveArmOutput (BitVec.ofNat 8 out.kind) first count s =
      if s.ltc.state = .idle ∨ s.ltc.state = .drained ∨ (outStation out s).state ≠ .empty then (s, [4])
      else if s.pcu.trays[out.trayIx] = none then (s, [5])
      else if pocketsOk s.pcu.trays[out.trayIx] first.toNat count.toNat = false then (s, [3])
      else (settle (armOutput out first.toNat count.toNat s), [0]) := by
  simp only [serveArmOutput, outputStation_kind, answer, Status.code, Bool.not_eq_true', armOutputLot_iff, ← or_assoc,
    ite_or, Option.isNone_iff_eq_none]

theorem armOutput_eq (out : OutStation) (first count : Nat) (s : State) : armOutput out first count s =
    let armed := modOut out (fun _ =>
      { state := if (activeOut out.pair s).isSome then .standby else .active, first := first, armed := count,
        next := first, remaining := count, pending := 0, filled := 0, skipped := 0 }) s
    if (activeOut out.pair s).isSome then armed
    else modPair out.pair (fun _ => { current := some out.side, blocked := false }) armed := rfl

theorem outStation_armOutput (out : OutStation) (first count : Nat) (s : State) :
    outStation out (armOutput out first count s) =
      { state := if (activeOut out.pair s).isSome then .standby else .active, first := first, armed := count,
        next := first, remaining := count, pending := 0, filled := 0, skipped := 0 } := by
  rw [armOutput_eq]
  split
  · exact outStation_modOut ..
  · exact (outStation_modPair _ _).trans (outStation_modOut ..)

theorem armOutput_pair (first count : Nat) (h : activeOut out.pair s = none) :
    (armOutput out first count s).srt.pairs[out.pair] = { current := some out.side, blocked := false } := by
  simp only [armOutput_eq, h, Option.isSome_none, Bool.false_eq_true, if_false, modPair_same]

/-! ### The hand-over of a pair (R152) -/

/-- The other station of the pair. -/
def OutStation.other (out : OutStation) : OutStation := { out with side := out.side.other }

theorem outHandOver_of_standby (h : (outStation out.other s).state = .standby) : outHandOver out s =
    modPair out.pair (fun x => { x with current := some out.side.other })
      (modOut out.other (fun x => { x with state := .active }) s) := if_pos h

theorem outHandOver_of_blocked (h : (outStation out.other s).state ≠ .standby) :
    outHandOver out s = blockPair out.pair s := if_neg h

theorem foldl_raise_srt {α : Type} (factor : Factor) (arg : α → List Byte) :
    ∀ (l : List α) (s : State), (l.foldl (fun v c => raise factor (arg c) v) s).srt = s.srt
  | [], _ => rfl
  | c :: l, s => foldl_raise_srt factor arg l (raise factor (arg c) s)

theorem blockPair_srt (p : PairIx) (s : State) :
    (blockPair p s).srt = (modPair p (fun x => { x with blocked := true }) s).srt := foldl_raise_srt ..

theorem outStation_blockPair (v : OutStation) (p : PairIx) (s : State) :
    outStation v (blockPair p s) = outStation v s := outStation_congr (t := blockPair p s) (blockPair_srt p s) v

/-- The hand-over changes no station but the other one of the pair. -/
theorem outStation_outHandOver (h : v ≠ out.other) : outStation v (outHandOver out s) = outStation v s := by
  by_cases ho : (outStation out.other s).state = .standby
  · rw [outHandOver_of_standby ho, outStation_modPair, outStation_modOut_other _ _ h]
  · rw [outHandOver_of_blocked ho, outStation_blockPair]

theorem outHandOver_pairs (h : q ≠ out.pair) : (outHandOver out s).srt.pairs[q] = s.srt.pairs[q] := by
  by_cases ho : (outStation out.other s).state = .standby
  · rw [outHandOver_of_standby ho, modPair_other _ _ h, modOut_pairs]
  · rw [outHandOver_of_blocked ho, blockPair_srt, modPair_other _ _ h]

/-! ### Pockets of a pair (R152) -/

/-- A record whose next pocket has been given. -/
def OutRec.takeNext (x : OutRec) : OutRec :=
  { x with next := x.next + 1, pending := x.pending + 1, remaining := x.remaining - 1 }

/-- The state in which an ACTIVE station has given its next pocket. -/
def pocketTaken (out : OutStation) (s : State) : State :=
  if 1 < (outStation out s).remaining then modOut out OutRec.takeNext s
  else outHandOver out (modOut out (fun x => { x.takeNext with state := .finishing }) s)

theorem takePocket_of_active {pocket : Pocket} (ha : activeOut p s = some out)
    (hn : (outStation out s).next = pocket.val) : takePocket p s = some (out, pocket, pocketTaken out s) := by
  have hrest : (outStation out (modOut out OutRec.takeNext s)).remaining = (outStation out s).remaining - 1 := by
    rw [outStation_modOut]; rfl
  have htake : takePocket p s = if (outStation out (modOut out OutRec.takeNext s)).remaining = 0 then
        some (out, pocket, outHandOver out (modOut out (fun x => { x with state := .finishing })
          (modOut out OutRec.takeNext s)))
      else some (out, pocket, modOut out OutRec.takeNext s) := by
    simp only [takePocket, ha, hn, Fin.ofNat_val_eq_self]; rfl
  rw [htake, hrest, modOut_modOut, pocketTaken]
  by_cases hleft : 1 < (outStation out s).remaining
  · rw [if_neg (by omega), if_pos hleft]
  · rw [if_pos (by omega), if_neg hleft]

theorem takePocket_of_none (h : activeOut p s = none) : takePocket p s = none := by simp only [takePocket, h]

theorem OutStation.ne_other (out : OutStation) : out ≠ out.other := by
  obtain ⟨p, side⟩ := out
  cases side <;> simp [OutStation.other, Side.other]

/-- A pocket changes the records of its own pair alone. -/
theorem outStation_pocketTaken_of_ne (h : v ≠ out) (ho : v ≠ out.other) :
    outStation v (pocketTaken out s) = outStation v s := by
  rw [pocketTaken]
  split
  · exact outStation_modOut_other _ _ h
  · rw [outStation_outHandOver ho, outStation_modOut_other _ _ h]

theorem pocketTaken_pairs_of_ne (h : q ≠ out.pair) : (pocketTaken out s).srt.pairs[q] = s.srt.pairs[q] := by
  rw [pocketTaken]
  split
  · rfl
  · rw [outHandOver_pairs h, modOut_pairs]

theorem pocketTaken_of_left (h : 1 < (outStation out s).remaining) : pocketTaken out s = modOut out OutRec.takeNext s :=
  if_pos h

theorem pocketTaken_of_last (h : (outStation out s).remaining = 1) :
    pocketTaken out s = outHandOver out (modOut out (fun x => { x.takeNext with state := .finishing }) s) :=
  if_neg (by omega)

theorem outStation_pocketTaken_last (h : (outStation out s).remaining = 1) :
    outStation out (pocketTaken out s) = { (outStation out s).takeNext with state := .finishing } := by
  rw [pocketTaken_of_last h, outStation_outHandOver out.ne_other, outStation_modOut]

/-- A STANDBY partner becomes ACTIVE and current. -/
theorem pocketTaken_last_standby (h : (outStation out s).remaining = 1)
    (ho : (outStation out.other s).state = .standby) :
    { pocketTaken out s with srt := s.srt } = s
      ∧ outStation out.other (pocketTaken out s) = { outStation out.other s with state := .active }
      ∧ (pocketTaken out s).srt.pairs[out.pair]
        = { s.srt.pairs[out.pair] with current := some out.side.other } := by
  have hother := outStation_modOut_other (fun x => { x.takeNext with state := .finishing }) s out.ne_other.symm
  rw [pocketTaken_of_last h, outHandOver_of_standby (by rw [hother]; exact ho), outStation_modPair, outStation_modOut,
    hother, modPair_same, modOut_pairs, modOut_pairs]
  exact ⟨rfl, rfl, rfl⟩

/-- Without a STANDBY partner the pair is blocked, which CATEGORY_BLOCKED reports for each of its categories. -/
theorem pocketTaken_last_blocked (h : (outStation out s).remaining = 1)
    (ho : (outStation out.other s).state ≠ .standby) :
    outStation out.other (pocketTaken out s) = outStation out.other s
      ∧ (pocketTaken out s).srt.pairs[out.pair] = { s.srt.pairs[out.pair] with blocked := true }
      ∧ ∃ s1 : State, { s1 with srt := s.srt } = s
        ∧ pocketTaken out s = (pairCategories out.pair s).foldl
          (fun v c => raise .categoryBlocked [BitVec.ofNat 8 c.val] v) s1 := by
  have hother := outStation_modOut_other (fun x => { x.takeNext with state := .finishing }) s out.ne_other.symm
  rw [pocketTaken_of_last h, outHandOver_of_blocked (by rw [hother]; exact ho), outStation_blockPair, hother,
    blockPair_srt, modPair_same, modOut_pairs]
  exact ⟨rfl, rfl, modPair out.pair (fun x => { x with blocked := true }) (modOut out _ s), rfl, rfl⟩

/-! ### Reservations of the completion log (R155) -/

theorem reserveLog_eq (u : UnitNo) (s : State) : reserveLog u s =
    if s.srt.log.length + s.srt.reservations.length < 64 ∧ (∀ x ∈ s.srt.log, x.no ≠ u) ∧ u ∉ s.srt.reservations then
      some { s with srt := { s.srt with reservations := s.srt.reservations ++ [u] } }
    else none := by
  have hlog : u ∉ s.srt.log.map LogRec.no ↔ ∀ x ∈ s.srt.log, x.no ≠ u := by simp
  simp only [reserveLog, hlog]; rfl

/-- Settles O38: the requests by `serveArmInput_eq` and `serveArmOutput_eq` with what an arming leaves, the pockets by
the lemmas about `pocketTaken`, and the reservations by `reserveLog_eq`. -/
theorem armingFillsTheStation : Obligations.ArmingFillsTheStation := by
  refine ⟨fun tag first count s h => ⟨fun station mode more hge => ?_, fun st m more => ⟨?_, ?_⟩,
    fun station hstation => ?_, fun out => ⟨?_, outStation_armOutput .., armOutput_pair _ _⟩⟩,
    fun p s => ⟨fun hp => takePocket_of_none (activeOut_eq_none hp), fun out other pocket hp hother ha ho hn => ?_⟩,
    fun u s granted hgranted => ?_⟩
  · rw [exec_of_takesNow rfl h rfl]
    exact congrArg (fun r => Host.Outcome.next (replied 0x10 tag r.2 r.1)) (serveArmInput_of_code_ge first count hge)
  · rw [exec_of_takesNow rfl h rfl]
    simp only [serve, serveArmInput_eq]
    split_ifs <;> rfl
  · obtain ⟨hcurrent, hrecord, hrest⟩ := armInput_effect st m first.toNat count.toNat more s
    exact ⟨hcurrent, hrecord, hrest⟩
  · rw [exec_of_takesNow rfl h rfl]
    simp only [serve, serveArmOutput, outputStation_of_other hstation]; rfl
  · rw [exec_of_takesNow rfl h rfl]
    simp only [serve, serveArmOutput_eq]
    split_ifs <;> rfl
  · subst hp hother
    refine ⟨_, takePocket_of_active (activeOut_eq_some ha ho) hn, fun _ => outStation_pocketTaken_of_ne,
      fun _ => pocketTaken_pairs_of_ne, fun hleft => ?_, fun hlast => ⟨?_, pocketTaken_last_standby hlast,
      pocketTaken_last_blocked hlast⟩⟩
    · rw [pocketTaken_of_left hleft, outStation_modOut, ← hn]
      exact ⟨rfl, outStation_modOut_other _ _ out.ne_other.symm, rfl, rfl⟩
    · rw [outStation_pocketTaken_last hlast, OutRec.takeNext, hn, hlast]
  · rw [reserveLog_eq]
    exact ⟨fun hg => if_pos (hgranted.1 hg), fun hg => if_neg (hg ∘ hgranted.2)⟩

end Sys2Proof.Machine
end

section
/-! PROOF. The completion log holds at most 64 entries and each order queue at most 8 orders (R155, R53). -/
namespace Sys2Proof.Machine

variable {r s t : State}

/-- The bounds of the log and of the order queues that held in r hold in s. -/
def KeepsBounds (r s : State) : Prop := (LogInv r → LogInv s) ∧ (QueueInv r → QueueInv s)

theorem KeepsBounds.refl (s : State) : KeepsBounds s s := ⟨id, id⟩

theorem KeepsBounds.keeps (h : KeepsBounds r s) (k : Keeps s t) : KeepsBounds r t :=
  ⟨fun i => k.log (h.1 i), fun i => k.queues (h.2 i)⟩

/-- The bounds read the log and the two queues alone. -/
theorem KeepsBounds.congr (h : KeepsBounds r s) (hl : t.srt.log = s.srt.log)
    (hr : t.srt.reservations = s.srt.reservations) (hload : t.xpl.loadQueue = s.xpl.loadQueue)
    (hunload : t.xpl.unloadQueue = s.xpl.unloadQueue) : KeepsBounds r t where
  left i := { room := by rw [hl, hr]; exact (h.1 i).room, once := hr ▸ (h.1 i).once }
  right i := by unfold QueueInv; rw [hload, hunload]; exact h.2 i

theorem KeepsBounds.empty (hl : s.srt.log = []) (hr : s.srt.reservations = []) (hload : s.xpl.loadQueue = [])
    (hunload : s.xpl.unloadQueue = []) : KeepsBounds r s where
  left _ := { room := by simp [hl, hr], once := by simp [hr] }
  right _ := by simp [QueueInv, hload, hunload]

/-! ### Requests that store values -/

theorem teach_keepsBounds {ranges prerequisites : Bool} {reach : List (Half × Bool)} {store : State → State}
    (hsrt : (store s).srt = s.srt) (hxpl : (store s).xpl = s.xpl) (h : KeepsBounds r s) :
    KeepsBounds r (teach ranges prerequisites reach store s).1 :=
  teach_induct h (h.congr (by rw [hsrt]) (by rw [hsrt]) (by rw [hxpl]) (by rw [hxpl]))

theorem serveSetupAxis_keepsBounds (axis : Byte) (k : Half) (lmax park : Word) (h : KeepsBounds r s) :
    KeepsBounds r (serveSetupAxis axis k lmax park s).1 := by
  unfold serveSetupAxis; split <;> exact teach_keepsBounds rfl rfl h

theorem serveSetupSocket_keepsBounds (socket : Byte) (lx ly ux uy : Word) (tx ty w : Half) (policy : Byte)
    (h : KeepsBounds r s) : KeepsBounds r (serveSetupSocket socket lx ly ux uy tx ty w policy s).1 := by
  unfold serveSetupSocket; split <;> exact teach_keepsBounds rfl rfl h

theorem serveSetupStation_keepsBounds (station : Byte) (part : StationPart) (h : KeepsBounds r s) :
    KeepsBounds r (serveSetupStation station part s).1 := by
  unfold serveSetupStation serveSetupTray serveSetupNest
  split <;> split <;> exact teach_keepsBounds rfl rfl h

theorem serveSetBin_keepsBounds (es : List BinArg) (h : KeepsBounds r s) : KeepsBounds r (serveSetBin es s).1 := by
  unfold serveSetBin
  repeat' split
  all_goals exact h.congr rfl rfl rfl rfl

theorem serveSetCategory_keepsBounds (es : List CategoryArg) (h : KeepsBounds r s) :
    KeepsBounds r (serveSetCategory es s).1 := by
  unfold serveSetCategory
  repeat' split
  all_goals exact h.congr rfl rfl rfl rfl

theorem serveLotOpen_keepsBounds (lot : Half) (h : KeepsBounds r s) : KeepsBounds r (serveLotOpen lot s).1 := by
  unfold serveLotOpen; split <;> exact h.congr rfl rfl rfl rfl

theorem serveSetLot_keepsBounds (es : List ParamArg) (h : KeepsBounds r s) : KeepsBounds r (serveSetLot es s).1 := by
  unfold serveSetLot
  repeat' split
  all_goals exact h.congr rfl rfl rfl rfl

/-- The start of a lot moves no order and no record itself; the planner that follows keeps the bounds. -/
theorem serveLotStart_keepsBounds (h : KeepsBounds r s) : KeepsBounds r (serveLotStart s).1 := by
  have hstart : KeepsBounds r (startLot s) := h.congr rfl rfl rfl rfl
  unfold serveLotStart
  repeat' split
  · exact h
  · exact h
  · exact hstart.keeps (settle_keeps (headsFollow_keeps _ (.refl _)))

theorem setRunMode_keepsBounds (m : RunMode) (h : KeepsBounds r s) : KeepsBounds r (setRunMode m s) := by
  have hmode : ∀ m, KeepsBounds r (modRcu (fun r => { r with mode := m }) s) := fun m => h.congr rfl rfl rfl rfl
  unfold setRunMode; split
  · exact (hmode .single).keeps (clearCredits_keeps (.refl _))
  · exact (hmode .continuous).keeps (Keeps.foldl (fun _ _ => requestHead_keeps _) _ _ (.refl _))
  · exact h

theorem serveSetMode_keepsBounds (mode : Byte) (timeout delay : Half) (h : KeepsBounds r s) :
    KeepsBounds r (serveSetMode mode timeout delay s).1 := by
  have hset : KeepsBounds r (modRcu (fun r => { r with driveTimeout := timeout.toNat, settleDelay := delay.toNat }) s) :=
    h.congr rfl rfl rfl rfl
  unfold serveSetMode
  split
  · split
    · exact (setRunMode_keepsBounds _ hset).keeps (settle_keeps (headsFollow_keeps _ (.refl _)))
    · exact h
  · exact h

theorem serveSetHoldpoint_keepsBounds (x kind : Byte) (value : Word) (enabled : Byte) (h : KeepsBounds r s) :
    KeepsBounds r (serveSetHoldpoint x kind value enabled s).1 := by
  unfold serveSetHoldpoint
  repeat' split
  all_goals exact h.congr rfl rfl rfl rfl

theorem serveSetProtect_keepsBounds (v : Byte) (h : KeepsBounds r s) : KeepsBounds r (serveSetProtect v s).1 := by
  unfold serveSetProtect; split <;> exact h.congr rfl rfl rfl rfl

theorem serveNoticeEnable_keepsBounds (m : Word) (h : KeepsBounds r s) : KeepsBounds r (serveNoticeEnable m s).1 := by
  unfold serveNoticeEnable; split <;> exact h.congr rfl rfl rfl rfl

theorem serveNoticeClear_keepsBounds (m : Word) (h : KeepsBounds r s) : KeepsBounds r (serveNoticeClear m s).1 := by
  unfold serveNoticeClear
  repeat' split
  all_goals exact h.congr rfl rfl rfl rfl

theorem serve_stores_keepsBounds (q : Request) (hq : storesValues q = true) (h : KeepsBounds r s) :
    KeepsBounds r (serve q s).1 := by
  cases q with
  | setupAxis => exact serveSetupAxis_keepsBounds _ _ _ _ h
  | setupCamera => exact teach_keepsBounds rfl rfl h
  | setupSocket => exact serveSetupSocket_keepsBounds _ _ _ _ _ _ _ _ _ h
  | setupSoak => exact teach_keepsBounds rfl rfl h
  | setupStation => exact serveSetupStation_keepsBounds _ _ h
  | setupChute => exact teach_keepsBounds rfl rfl h
  | lotOpen => exact serveLotOpen_keepsBounds _ h
  | setLot => exact serveSetLot_keepsBounds _ h
  | setBin => exact serveSetBin_keepsBounds _ h
  | setCategory => exact serveSetCategory_keepsBounds _ h
  | lotStart => exact serveLotStart_keepsBounds h
  | setMode => exact serveSetMode_keepsBounds _ _ _ h
  | setHoldpoint => exact serveSetHoldpoint_keepsBounds _ _ _ _ h
  | setProtect => exact serveSetProtect_keepsBounds _ h
  | noticeEnable => exact serveNoticeEnable_keepsBounds _ h
  | noticeClear => exact serveNoticeClear_keepsBounds _ h
  | reset => exact h.congr rfl rfl rfl rfl
  | _ => cases hq

/-! ### Every step -/

theorem KeepsBounds.stepKept (r : State) : StepKept (KeepsBounds r) where
  blocks k h := h.keeps k
  queue _ h := h.congr rfl rfl rfl rfl
  time _ h := h.congr rfl rfl rfl rfl
  lines _ h := h.congr rfl rfl rfl rfl
  link _ h := h.congr rfl rfl rfl rfl
  stores q hq h := serve_stores_keepsBounds q hq h
  reset _ := KeepsBounds.empty rfl rfl rfl rfl

/-- Settles O46: the operations of the blocks keep the bounds (`Keeps`), the requests that store values touch neither the
log nor a queue, and a reset empties both. -/
theorem stepKeepsTheLogAndTheQueues : Obligations.StepKeepsTheLogAndTheQueues :=
  fun s _ e => (KeepsBounds.stepKept s).step (.refl s) e

end Sys2Proof.Machine
end

section
/-! PROOF. The planner's estimates (R61, R62). -/
namespace Sys2Proof.Machine

variable {s : State}

/-! ### The time to end (R62) -/

theorem timeToEnd_of_test {h : HeadIx} {t : Time} (hh : s.hsc.heads[h].state = .test) (ht : s.hsc.heads[h].sot = some t) :
    timeToEnd h s = some (s.xpl.estimates[h] - (s.now - t).toNat) := by
  simp only [timeToEnd, hh, ht]

theorem timeToEnd_of_not_test {h : HeadIx} (hh : s.hsc.heads[h].state ≠ .test) : timeToEnd h s = none := by
  unfold timeToEnd; split
  · rename_i htest _; exact absurd htest hh
  · rfl

/-- Settles O35: `timeToEnd` subtracts in Nat, which stops at 0. -/
theorem timeToEndCountsFromSot : Obligations.TimeToEndCountsFromSot := by
  intro h t s
  refine ⟨fun hh ht => ?_, timeToEnd_of_not_test⟩
  rw [timeToEnd_of_test hh ht]
  congr 1
  split
  · rfl
  · omega

/-! ### The move of an estimate (R61) -/

/-- A quotient by 8 rounded up is the one whole number that lies less than 1 above it. -/
theorem ceilDiv_eight (a : Int) : a ≤ 8 * ceilDiv a 8 ∧ 8 * ceilDiv a 8 < a + 8 := by
  unfold ceilDiv; omega

theorem clampEst_of_low {e : Int} (h : e < 1) : clampEst e = 1 := by simp [clampEst, h]

theorem clampEst_of_high {e : Int} (h : 600000 < e) : clampEst e = 600000 := by
  have : ¬e < 1 := by omega
  simp [clampEst, h, this]

theorem clampEst_of_range {e : Int} (hl : 1 ≤ e) (hh : e ≤ 600000) : (clampEst e : Int) = e := by
  unfold clampEst; split <;> [omega; split <;> omega]

theorem updateEstimate_estimates (h i : HeadIx) (d : Nat) (s : State) :
    (updateEstimate h d s).xpl.estimates[i] = if i = h then nextEstimate s.xpl.estimates[h] d else s.xpl.estimates[i] := by
  by_cases hi : i = h
  · subst hi; simp [updateEstimate, modXpl]
  · have : h.val ≠ i.val := fun e => hi (Fin.ext e.symm)
    simp [updateEstimate, modXpl, hi, Vector.getElem_set_ne, this]

/-- Settles O36: the increment is the difference's eighth, rounded up. -/
theorem estimateMovesByAnEighth : Obligations.EstimateMovesByAnEighth := by
  intro est d
  obtain ⟨hlow, hhigh⟩ := ceilDiv_eight ((d : Int) - est)
  refine ⟨ceilDiv ((d : Int) - est) 8, hlow, hhigh, clampEst_of_range, clampEst_of_low, clampEst_of_high, ?_⟩
  rintro h i s rfl
  exact updateEstimate_estimates h i d s

end Sys2Proof.Machine
end

section
/-! PROOF. The send of an order (R98, R100), the bytes of an ORDER (Table 6-2), and the DONE that ends it (R101, R102). -/
namespace Sys2Proof.Machine

variable {s : State} {g : Gantry} {o : Order}

/-! ### The bytes of an ORDER (Table 6-2) -/

/-- A count below 2^24 is read back from its three bytes. -/
theorem n24_join {n : Nat} (h : n < 2 ^ 24) :
    65536 * ((BitVec.ofNat 32 n).extractLsb' 16 8).toNat + 256 * ((BitVec.ofNat 32 n).extractLsb' 8 8).toNat
      + ((BitVec.ofNat 32 n).extractLsb' 0 8).toNat = n := by
  simp only [BitVec.extractLsb'_toNat, BitVec.toNat_ofNat, Nat.shiftRight_eq_div_pow]
  omega

/-- The nozzle byte of an ORDER. -/
def Order.nozzleByte (o : Order) : Nat := if o.kind = .pick ∨ o.kind = .place then o.nozzle.val else 0

/-- The INSPECT mask byte of an ORDER. -/
def Order.maskByte (o : Order) : Nat := if o.kind = .inspect then o.mask.toNat else 0

theorem orderPayload_eq (o : Order) (x y : Int) : orderPayload o x y =
    [BitVec.ofNat 8 o.kind.code, BitVec.ofNat 8 o.nozzleByte,
      (BitVec.ofNat 32 x.toNat).extractLsb' 16 8, (BitVec.ofNat 32 x.toNat).extractLsb' 8 8,
      (BitVec.ofNat 32 x.toNat).extractLsb' 0 8,
      (BitVec.ofNat 32 y.toNat).extractLsb' 16 8, (BitVec.ofNat 32 y.toNat).extractLsb' 8 8,
      (BitVec.ofNat 32 y.toNat).extractLsb' 0 8,
      BitVec.ofNat 8 (heightClass o), BitVec.ofNat 8 o.maskByte] := rfl

theorem nozzleByte_toNat (o : Order) :
    (BitVec.ofNat 8 o.nozzleByte).toNat = if o.kind = .inspect ∨ o.kind = .park then 0 else o.nozzle.val := by
  have := o.nozzle.isLt
  cases hk : o.kind <;> simp [Order.nozzleByte, hk] <;> omega

theorem maskByte_toNat (o : Order) :
    (BitVec.ofNat 8 o.maskByte).toNat = if o.kind = .inspect then o.mask.toNat else 0 := by
  have := o.mask.isLt
  unfold Order.maskByte; split <;> simp; omega

/-- The height class of an order that moves no device is 0 (R100). -/
theorem heightClass_of_still (h : o.kind = .inspect ∨ o.kind = .park) : heightClass o = 0 := by
  rcases h with h | h <;> simp [heightClass, h]

/-- The height class of a place (R100). -/
def Place.heightClass : Place → Nat
  | .soak _ => 1
  | .socket _ => 2
  | .chute => 3
  | _ => 0

theorem heightClass_of_move {p : Place} (h : o.kind = .pick ∨ o.kind = .place) (hp : o.place = some p) :
    Machine.heightClass o = p.heightClass := by
  rcases h with h | h <;> cases p <;> simp [Machine.heightClass, Place.heightClass, h, hp]

/-! ### The send (R98) -/

theorem nextTag_ne_zero (t : Byte) : nextTag t ≠ 0 := by
  unfold nextTag
  split
  · decide
  · bv_omega

/-- The sequencer at a send. -/
def Gsq.send (o : Order) (counts : Int × Int) (s : State) (q : Gsq) : Gsq :=
  { q with
    state := .inFlight, tag := nextTag q.tag, timer := some (s.now + BitVec.ofNat 32 s.rcu.driveTimeout)
    lastOrder := some { kind := 0x21, tag := nextTag q.tag, payload := orderPayload o counts.1 counts.2 } }

theorem gsq_sendOrder (g : Gantry) (o : Order) (counts : Int × Int) (s : State) :
    gsq g (sendOrder g o counts s) = (gsq g s).send o counts s := by
  unfold sendOrder; cases g <;> dsimp only <;> split <;> rfl

theorem queue_sendOrder (g : Gantry) (o : Order) (counts : Int × Int) (s : State) : queue g (sendOrder g o counts s) =
    (queue g s).map (fun q => if q.id = o.id then { q with status := .issued } else q) := by
  unfold sendOrder; cases g <;> dsimp only <;> split <;> rfl

theorem parked_sendOrder (g : Gantry) (o : Order) (counts : Int × Int) (s : State) :
    parked g (sendOrder g o counts s) = if o.kind = .park then parked g s else false := by
  unfold sendOrder; cases g <;> dsimp only <;> split <;> rfl

/-- A send changes the sequencer and the planner of its gantry alone. -/
theorem sendOrder_frame (g : Gantry) (o : Order) (counts : Int × Int) (s : State) :
    ∃ l u x, sendOrder g o counts s = { s with gsqL := l, gsqU := u, xpl := x } := by
  unfold sendOrder; cases g <;> dsimp only <;> split <;> exact ⟨_, _, _, rfl⟩

/-! ### The DONE that ends it (R101, R102) -/

theorem readDone_park_ok (mask : Byte) (h : o.kind = .park) : readDone o [0, mask] = some .ok := by
  simp [readDone, rd8, DoneResult.ofCode, DoneResult.admitted, doneLength, presenceAgrees, h]

/-- Settles O55: the send by `gsq_sendOrder` with the bytes of `orderPayload_eq`, the DONE by `exec_done_of_issued`. -/
theorem sendingAnOrderStartsItsTimer : Obligations.SendingAnOrderStartsItsTimer := by
  refine ⟨?_, ?_⟩
  · rintro g o x y s t rfl
    obtain ⟨l, u, v, hframe⟩ := sendOrder_frame g o (x, y) s
    rw [gsq_sendOrder]
    refine ⟨rfl, rfl, nextTag_ne_zero _, rfl, ⟨_, rfl, rfl, rfl, rfl, ?_, nozzleByte_toNat o, ?_, ?_, ?_, ?_,
      maskByte_toNat o⟩, queue_sendOrder .., parked_sendOrder .., ?_⟩
    · show BitVec.ofNat 8 o.kind.code = _
      cases o.kind <;> rfl
    · intro hlow hhigh
      have hcount : x.toNat < 2 ^ 24 := by omega
      exact (congrArg Int.ofNat (n24_join hcount)).trans (Int.toNat_of_nonneg hlow)
    · intro hlow hhigh
      have hcount : y.toNat < 2 ^ 24 := by omega
      exact (congrArg Int.ofNat (n24_join hcount)).trans (Int.toNat_of_nonneg hlow)
    · intro hstill
      exact congrArg (BitVec.ofNat 8) (heightClass_of_still hstill)
    · intro hmove
      have hheight : ∀ p, o.place = some p → BitVec.ofNat 8 (heightClass o) = BitVec.ofNat 8 p.heightClass :=
        fun p hp => congrArg (BitVec.ofNat 8) (heightClass_of_move hmove hp)
      exact ⟨fun _ _ => hheight _, fun _ _ => hheight _, fun _ => hheight _, fun _ => hheight _, hheight .chute⟩
    · rw [hframe]; exact ⟨rfl, rfl, rfl, rfl, rfl⟩
  · intro g o f mask s hreset hrx hkind hpayload hhead hissued htag hmask
    have hlen : f.payload.length ≤ 240 := by simp [hpayload]
    have hread : readDone o f.payload = some .ok := by
      rw [hpayload]
      rcases hmask with ⟨hk, hbit⟩ | ⟨hk, hbit⟩ | hk
      · rw [readDone_pick_ok mask hk, if_pos hbit]
      · rw [readDone_place_ok mask hk, hbit]; rfl
      · exact readDone_park_ok mask hk
    obtain ⟨-, -, hdone⟩ := exec_done_of_issued hreset hrx hkind hlen hhead hissued htag
    rw [hdone .ok hread (by decide), hpayload]; rfl

end Sys2Proof.Machine
end

section
/-! PROOF. What a gantry does not gain: no operation of a recovery but the grants at its end gives the gantry a zone, a
zone request or an order (R71, R102, R112). -/
namespace Sys2Proof.Machine

variable {g : Gantry} {r s t : State}

/-! ### The relation -/

/-- The zone has a standing request of the gantry. -/
def Zone.asks (g : Gantry) (z : Zone) : Bool :=
  match g with
  | .load => z.load
  | .unload => z.unload

/-- No zone has a standing request of the gantry. -/
def NoRequest (g : Gantry) (s : State) : Prop := ∀ z : HeadIx, s.zar[z].asks g = false

/-- A gantry without a standing request has none after, and holds no zone that it did not hold before. -/
def GainsNoZone (g : Gantry) (r s : State) : Prop :=
  NoRequest g r → NoRequest g s ∧ ∀ z : HeadIx, s.zar[z].holder = gantryHolder g → r.zar[z].holder = gantryHolder g

theorem GainsNoZone.refl (g : Gantry) (s : State) : GainsNoZone g s s := fun h => ⟨h, fun _ => id⟩

theorem GainsNoZone.trans (a : GainsNoZone g r s) (b : GainsNoZone g s t) : GainsNoZone g r t := fun h => by
  obtain ⟨hs, hrs⟩ := a h
  obtain ⟨ht, hst⟩ := b hs
  exact ⟨ht, fun z hz => hrs z (hst z hz)⟩

/-- A change of a zone that gives the gantry neither the zone nor a request for it. -/
def Zone.Spares (g : Gantry) (x y : Zone) : Prop :=
  x.asks g = false → y.asks g = false ∧ (y.holder = gantryHolder g → x.holder = gantryHolder g)

theorem GainsNoZone.of_spares (h : ∀ z : HeadIx, r.zar[z].Spares g s.zar[z]) : GainsNoZone g r s := fun hr =>
  ⟨fun z => (h z (hr z)).1, fun z => (h z (hr z)).2⟩

/-- The gantry gains no zone, no request and no order. -/
structure GainsNothing (g : Gantry) (r s : State) : Prop where
  zones : GainsNoZone g r s
  orders : ((queue g s).map Order.face).Sublist ((queue g r).map Order.face)

theorem GainsNothing.refl (g : Gantry) (s : State) : GainsNothing g s s := ⟨.refl g s, .refl _⟩

theorem GainsNothing.trans (a : GainsNothing g r s) (b : GainsNothing g s t) : GainsNothing g r t :=
  ⟨a.zones.trans b.zones, b.orders.trans a.orders⟩

/-- A change that leaves the zones and the gantry's queue as they are. -/
theorem GainsNothing.frame (h : GainsNothing g r s) (hz : t.zar = s.zar) (hq : queue g t = queue g s) :
    GainsNothing g r t :=
  h.trans ⟨.of_spares fun z hx => by rw [hz]; exact ⟨hx, id⟩, by rw [hq]⟩

theorem GainsNothing.same (h : GainsNothing g r s) (hs : SameTable s t) (hz : t.zar = s.zar) : GainsNothing g r t :=
  h.frame hz (hs.queue_eq g)

theorem GainsNothing.cancels (h : GainsNothing g r s) (hs : Cancels s t) (hz : t.zar = s.zar) : GainsNothing g r t :=
  h.trans ⟨.of_spares fun z hx => by rw [hz]; exact ⟨hx, id⟩, hs.orders g⟩

theorem GainsNothing.onZone (h : GainsNothing g r s) (z : HeadIx) {f : Zone → Zone}
    (hf : s.zar[z].Spares g (f s.zar[z])) : GainsNothing g r (modZone z f s) := by
  refine h.trans ⟨.of_spares fun j => ?_, .refl _⟩
  by_cases e : j = z
  · subst e; rw [modZone_same]; exact hf
  · rw [modZone_other s z j f e]; exact fun hx => ⟨hx, id⟩

theorem GainsNothing.foldl {α : Type} {f : State → α → State}
    (hf : ∀ s a, GainsNothing g r s → GainsNothing g r (f s a)) :
    ∀ (l : List α) (s : State), GainsNothing g r s → GainsNothing g r (l.foldl f s)
  | [], _, h => h
  | a :: l, s, h => GainsNothing.foldl hf l (f s a) (hf s a h)

/-! ### Feed stations and output stations leave the zones as they are -/

@[simp] theorem checkEmpty_zar (s : State) : (checkEmpty s).zar = s.zar := by
  unfold checkEmpty; split <;> rfl

@[simp] theorem inputDone_zar (s : State) : (inputDone s).zar = s.zar := by
  unfold inputDone; split
  · simp
  · rfl

@[simp] theorem handOver_zar (st : Side) (s : State) : (handOver st s).zar = s.zar := by
  unfold handOver activateIn
  repeat' split
  all_goals simp

@[simp] theorem spendStation_zar (st : Side) (s : State) : (spendStation st s).zar = s.zar := by simp [spendStation]

@[simp] theorem trayCountEnds_zar (st : Side) (s : State) : (trayCountEnds st s).zar = s.zar := by
  unfold trayCountEnds disarmStation; dsimp only; split <;> simp

@[simp] theorem stepTrayCounter_zar (st : Side) (s : State) : (stepTrayCounter st s).zar = s.zar := by
  unfold stepTrayCounter; dsimp only
  repeat' split
  all_goals simp

@[simp] theorem spendIfDone_zar (st : Side) (s : State) : (spendIfDone st s).zar = s.zar := by
  unfold spendIfDone; dsimp only
  repeat' split
  all_goals simp

@[simp] theorem runDry_zar (st : Side) (s : State) : (runDry st s).zar = s.zar := by
  unfold runDry finishStation; dsimp only; split <;> simp

@[simp] theorem endInputPick_zar (st : Side) (e : PickEnd) (s : State) : (endInputPick st e s).zar = s.zar := by
  unfold endInputPick; dsimp only; rw [spendIfDone_zar]; split <;> simp

@[simp] theorem endOutPlace_zar (st : OutStation) (b : Bool) (s : State) : (endOutPlace st b s).zar = s.zar := by
  rw [endOutPlace_eq]; split <;> simp

/-! ### Cancellations (R71) -/

@[simp] theorem releaseSocket_zar (k : SocketIx) (s : State) : (releaseSocket k s).zar = s.zar := by
  unfold releaseSocket; split <;> rfl

@[simp] theorem releaseSoak_zar (p : SoakIx) (s : State) : (releaseSoak p s).zar = s.zar := by
  unfold releaseSoak; split <;> rfl

@[simp] theorem dropOrder_zar (g : Gantry) (o : Order) (s : State) : (dropOrder g o s).zar = s.zar := by
  unfold dropOrder releaseOrder removeOrder; split <;> simp [releaseLog]

@[simp] theorem dropOrders_zar (g : Gantry) : ∀ (l : List Order) (s : State),
    (l.foldl (fun s p => dropOrder g p s) s).zar = s.zar
  | [], _ => rfl
  | o :: l, s => (dropOrders_zar g l _).trans (dropOrder_zar g o s)

@[simp] theorem addReady_zar (u : UnitNo) (s : State) : (addReady u s).zar = s.zar := by
  unfold addReady
  repeat' split
  all_goals rfl

@[simp] theorem pickCancelled_zar (g : Gantry) (o : Order) (s : State) : (pickCancelled g o s).zar = s.zar := by
  unfold pickCancelled; split <;> simp [endCreation, modHeld]

@[simp] theorem cancelPick_zar (g : Gantry) (o : Order) (s : State) : (cancelPick g o s).zar = s.zar := by
  unfold cancelPick; dsimp only; split <;> simp [setStageHead, unmask]

@[simp] theorem placeEffect_zar (g : Gantry) (o : Order) (s : State) : (placeEffect g o s).zar = s.zar := by
  unfold placeEffect placeCancelled
  repeat' split
  all_goals rfl

@[simp] theorem inspectCancelledFor_zar (s : State) (n : NozzleIx) : (inspectCancelledFor s n).zar = s.zar := by
  unfold inspectCancelledFor; dsimp only; split <;> rfl

@[simp] theorem inspectsCancelled_zar : ∀ (l : List NozzleIx) (s : State), (l.foldl inspectCancelledFor s).zar = s.zar
  | [], _ => rfl
  | n :: l, s => (inspectsCancelled_zar l _).trans (inspectCancelledFor_zar s n)

@[simp] theorem cancelOrder_zar (g : Gantry) (o : Order) (s : State) : (cancelOrder g o s).zar = s.zar := by
  unfold cancelOrder
  repeat' split
  all_goals simp [cancelInspect]

theorem cancelOne_gains (k : Gantry) (id : Nat) (h : GainsNothing g r s) : GainsNothing g r (cancelOne k s id) := by
  refine h.cancels (cancelOne_cancels k id (.refl s)) ?_
  unfold cancelOne
  repeat' split
  all_goals simp

theorem withdrawGantry_gains (k : Gantry) (h : GainsNothing g r s) : GainsNothing g r (withdrawGantry k s) :=
  h.trans ⟨.of_spares fun z hx => by cases g <;> cases k <;> simp_all [withdrawGantry, Zone.asks, gantryHolder], .refl _⟩

theorem setGantry_gains (k : Gantry) (st : GantryState) (h : GainsNothing g r s) : GainsNothing g r (setGantry k st s) :=
  h.frame (modGsq_zar ..) (queue_modGsq ..)

theorem cancelWhere_gains (k : Gantry) (p : Order → Bool) (h : GainsNothing g r s) :
    GainsNothing g r (cancelWhere k p s) := by
  have hcancelled : GainsNothing g r ((((queue k s).filter p).map Order.id).foldl (cancelOne k) s) :=
    GainsNothing.foldl (fun _ _ => cancelOne_gains _ _) _ _ h
  unfold cancelWhere afterCancel
  repeat' split
  · exact setGantry_gains _ _ (withdrawGantry_gains _ hcancelled)
  · exact setGantry_gains _ _ hcancelled
  · exact hcancelled

/-! ### Units that leave and arrive -/

theorem setAt_gains (sp : Spot) (u : UnitNo) (h : GainsNothing g r s) : GainsNothing g r (setAt sp u s) := by
  cases sp <;> exact h.frame rfl rfl

theorem leaveSpot_gains (u : UnitNo) (h : GainsNothing g r s) : GainsNothing g r (leaveSpot u s) :=
  leaveSpot_induct h (fun sp => setAt_gains sp 0 h)

theorem moveUnit_gains (u : UnitNo) (sp : Spot) (h : GainsNothing g r s) : GainsNothing g r (moveUnit u sp s) :=
  (setAt_gains sp u (leaveSpot_gains u h)).frame rfl rfl

theorem moveSocket_gains (k : SocketIx) (f : SocketRec → SocketRec) (h : GainsNothing g r s) :
    GainsNothing g r (moveSocket k f s) := by
  rw [moveSocket_eq]; exact h.frame rfl rfl

theorem releaseTarget_gains (x : Option Target) (h : GainsNothing g r s) : GainsNothing g r (releaseTarget x s) := by
  refine h.cancels (releaseTarget_cancels x (.refl s)) ?_
  unfold releaseTarget; split <;> simp

theorem loseUnit_gains (u : UnitNo) (h : GainsNothing g r s) : GainsNothing g r (loseUnit u s) := by
  by_cases hlost : ∀ x, findUnit u s = some x → x.state = .lost
  · rw [loseUnit_eq_self hlost]; exact h
  · push Not at hlost
    obtain ⟨x, hx, hstate⟩ := hlost
    have hleft : GainsNothing g r (leaveLost u s) := (leaveSpot_gains u h).frame rfl rfl
    have hmark : GainsNothing g r (markLost u x s) := (releaseTarget_gains x.target hleft).frame rfl rfl
    rw [loseUnit_of_found hx hstate]
    exact cancelWhere_gains _ _ (cancelWhere_gains _ _ hmark)

theorem loseMissing_gains (k : Gantry) (mask : Byte) (ns : List NozzleIx) (h : GainsNothing g r s) :
    GainsNothing g r (loseMissing k mask ns s) := by
  refine GainsNothing.foldl (fun s n hs => ?_) ns s h
  split
  · exact hs
  · exact loseUnit_gains _ hs

/-! ### Retests and the review of the heads -/

theorem reroute_gains (u : UnitNo) (h : GainsNothing g r s) : GainsNothing g r (reroute u s) := by
  unfold reroute
  repeat' split
  · exact h.frame rfl rfl
  all_goals exact h

theorem examineRetest_gains (u : UnitNo) (h : GainsNothing g r s) : GainsNothing g r (examineRetest u s) := by
  have hexamined : GainsNothing g r (modUnit u (UnitRec.examined s) s) := h.frame rfl rfl
  unfold examineRetest
  repeat' split
  · exact reroute_gains u hexamined
  · exact hexamined
  · exact h

theorem examineActive_gains (before : State) (h : GainsNothing g r s) : GainsNothing g r (examineActive before s) := by
  unfold examineActive; split
  · exact h
  · exact GainsNothing.foldl (fun _ _ => examineRetest_gains _) _ _ h

theorem startTest_gains (k : HeadIx) (h : GainsNothing g r s) : GainsNothing g r (startTest k s) := by
  have htest : ∀ (l : List SocketIx) (s : State), GainsNothing g r s → GainsNothing g r (l.foldl testSocket s) :=
    GainsNothing.foldl fun _ _ hs => hs.frame rfl rfl
  unfold startTest
  refine GainsNothing.frame (s := List.foldl testSocket _ _) ?_ rfl rfl
  exact htest _ _ (h.frame rfl rfl)

theorem grantHead_gains (k : HeadIx) (h : GainsNothing g r s) : GainsNothing g r (grantHead k s) := by
  refine startTest_gains k (h.onZone k fun hx => ?_)
  cases g <;> exact ⟨hx, fun e => nomatch e⟩

theorem requestHead_gains (k : HeadIx) (h : GainsNothing g r s) : GainsNothing g r (requestHead k s) := by
  unfold requestHead
  repeat' split
  · exact grantHead_gains k h
  · exact h
  · exact h.onZone k fun hx => by cases g <;> exact ⟨hx, id⟩
  · exact h

theorem startFill_gains (k : HeadIx) (h : GainsNothing g r s) : GainsNothing g r (startFill k s) := h.frame rfl rfl

theorem enterFill_gains (k : HeadIx) (h : GainsNothing g r s) : GainsNothing g r (enterFill k s) := by
  unfold enterFill; dsimp only; split <;> exact h.frame rfl rfl

theorem startWaitBack_gains (k : HeadIx) (h : GainsNothing g r s) : GainsNothing g r (startWaitBack k s) := by
  unfold startWaitBack; split
  · exact enterFill_gains k (h.onZone k fun hx => by cases g <;> exact ⟨hx, id⟩)
  · exact h

theorem reviewHead_gains (k : HeadIx) (h : GainsNothing g r s) : GainsNothing g r (reviewHead k s) := by
  have hidle : ∀ s, GainsNothing g r s → GainsNothing g r (idleToFill k s) := fun s hs => by
    unfold idleToFill; split
    · exact hs.frame rfl rfl
    · exact hs
  have hback : ∀ s, GainsNothing g r s → GainsNothing g r (fillToIdle k s) := fun s hs => by
    unfold fillToIdle; split
    · exact hs.frame rfl rfl
    · exact hs
  have hunloaded : ∀ s, GainsNothing g r s → GainsNothing g r (fillUnloaded k s) := fun s hs => by
    unfold fillUnloaded; split
    · exact hs.frame rfl rfl
    · exact hs
  have hstart : ∀ s, GainsNothing g r s → GainsNothing g r (startIfReady k s) := fun s hs => by
    unfold startIfReady; split
    · exact requestHead_gains k (hs.frame rfl rfl)
    · exact hs
  exact hstart _ (hunloaded _ (hback _ (startWaitBack_gains k (hidle _ h))))

theorem headsFollow_gains (before : State) (h : GainsNothing g r s) : GainsNothing g r (headsFollow before s) := by
  refine GainsNothing.foldl (fun s k hs => ?_) _ _ (examineActive_gains before h)
  split
  · exact hs
  · exact reviewHead_gains k hs

theorem checkEmpty_gains (h : GainsNothing g r s) : GainsNothing g r (checkEmpty s) :=
  h.same (checkEmpty_same (.refl s)) (checkEmpty_zar s)

/-! ### Orders that are done (R103 to R105) -/

theorem createUnit_gains (st : Side) (slot : InSlot) (n : NozzleIx) (h : GainsNothing g r s) :
    GainsNothing g r (createUnit st slot n s) := by
  obtain ⟨soak, hsoak⟩ := nameReservation_spec n s.upt.nextUnit s
  have hface : ∀ (l : List Order) (u : UnitNo), (l.map (fun o => if o.kind = .place ∧ o.nozzle = n ∧ o.unit = .created then
      { o with unit := .unit u } else o)).map Order.face = l.map Order.face := fun l u => by
    rw [List.map_map]
    refine List.map_congr_left fun o _ => ?_
    simp only [Function.comp]; split <;> rfl
  refine h.trans ⟨.of_spares fun z hx => ?_, ?_⟩
  · simp only [createUnit, hsoak, modQueue_zar]; exact ⟨hx, id⟩
  · simp only [createUnit, hsoak]
    cases g
    · rw [queue_modQueue, hface]; exact .refl _
    · exact .refl _

theorem pickDone_gains (k : Gantry) (o : Order) (h : GainsNothing g r s) : GainsNothing g r (pickDone k o s) := by
  unfold pickDone; split
  · exact (createUnit_gains _ _ _ h).same (endInputPick_same _ _ (.refl _)) (endInputPick_zar ..)
  · exact (moveUnit_gains o.unitNo (nozzleSpot k o.nozzle) h).frame rfl rfl
  · exact moveSocket_gains _ _ ((moveUnit_gains o.unitNo (nozzleSpot k o.nozzle) h).frame rfl rfl)
  · exact h

theorem becomeReady_gains (u : UnitNo) (h : GainsNothing g r s) : GainsNothing g r (becomeReady u s) := by
  have hready : GainsNothing g r (modXpl (fun x => { x with readySeq := x.readySeq + 1 })
      (modUnit u (fun r => { r with state := .ready, readySeq := s.xpl.readySeq }) s)) := h.frame rfl rfl
  exact (examineRetest_gains u hready).cancels (addReady_cancels u (.refl _)) (addReady_zar ..)

theorem arriveSoak_gains (u : UnitNo) (p : SoakIx) (purpose : Purpose) (h : GainsNothing g r s) :
    GainsNothing g r (arriveSoak u p purpose s) := by
  cases hu : findUnit u s with
  | none => simpa [arriveSoak, hu] using h
  | some x =>
    have hset : GainsNothing g r (setDown u p (arrival purpose x s) s) := (moveUnit_gains u (.soak p) h).frame rfl rfl
    rw [arriveSoak_of_found hu]
    split
    · exact becomeReady_gains u hset
    · exact hset

theorem loadSocket_gains (u : UnitNo) (k : SocketIx) (h : GainsNothing g r s) : GainsNothing g r (loadSocket u k s) := by
  have hset : GainsNothing g r (setInSocket u k s) :=
    moveSocket_gains _ _ ((moveUnit_gains u (.socket k) h).frame rfl rfl)
  rw [loadSocket_eq]; split
  · exact moveSocket_gains _ _ (hset.frame rfl rfl)
  · unfold loadedInHead; split
    · exact startFill_gains _ hset
    · exact hset

theorem retire_gains (u : UnitNo) (dest : Place) (h : GainsNothing g r s) : GainsNothing g r (retire u dest s) := by
  cases hu : findUnit u s with
  | none => simpa [retire, hu] using h
  | some x =>
    have happend : GainsNothing g r (appendLog x dest s) := by
      unfold appendLog; split
      · exact raiseLogFactors_induct (h.frame rfl rfl) (fun _ _ _ ht => ht.frame rfl rfl)
      · exact h
    have hcount : ∀ s, GainsNothing g r s → GainsNothing g r (countRetired x dest s) := fun s hs => by
      unfold countRetired; split <;> exact hs.frame rfl rfl
    rw [retire_of_found hu]
    exact (hcount _ (leaveSpot_gains u happend)).frame rfl rfl

theorem placeDone_gains (o : Order) (h : GainsNothing g r s) : GainsNothing g r (placeDone o s) := by
  unfold placeDone; dsimp only; split
  · exact arriveSoak_gains _ _ _ h
  · exact loadSocket_gains _ _ h
  · exact (retire_gains _ _ h).same (endOutPlace_same _ _ (.refl _)) (endOutPlace_zar ..)
  · exact (retire_gains o.unitNo .chute h).frame rfl rfl
  · exact h

theorem inspectDone_gains (o : Order) (p : List Byte) (h : GainsNothing g r s) : GainsNothing g r (inspectDone o p s) := by
  have hstage : ∀ n s, GainsNothing g r s → GainsNothing g r (stageAt n s) := fun n s hs => by
    unfold stageAt; dsimp only; split <;> exact hs.frame rfl rfl
  have hnozzle : ∀ s n, GainsNothing g r s → GainsNothing g r (inspectNozzle p s n) := fun s n hs => by
    unfold inspectNozzle; split
    · exact hs.frame rfl rfl
    · exact hstage n _ (hs.frame rfl rfl)
  exact (GainsNothing.foldl hnozzle (maskNozzles o.mask) s h).frame rfl rfl

theorem applyFate_done_gains (k : Gantry) (o : Order) (p : List Byte) (h : GainsNothing g r s) :
    GainsNothing g r (applyFate k o p .done s) := by
  unfold applyFate; cases o.kind
  · exact pickDone_gains k o h
  · exact inspectDone_gains o p h
  · exact placeDone_gains o h
  · exact h.frame (setParked_zar ..) (by cases g <;> cases k <;> rfl)

end Sys2Proof.Machine
end

section
/-! PROOF. The zones that a recovered gantry gives back (R112, step 4, R138): the gantry gets none of them again, and its
empty queue stays empty, whatever the grants to the others set going. -/
namespace Sys2Proof.Machine

variable {g : Gantry} {r s t : State}

/-! ### The relation -/

/-- The gantry gains no zone and no request, and its queue stays empty if it is. -/
structure StaysClear (g : Gantry) (r s : State) : Prop where
  zones : GainsNoZone g r s
  empty : queue g r = [] → queue g s = []

theorem StaysClear.refl (g : Gantry) (s : State) : StaysClear g s s := ⟨.refl g s, id⟩

theorem StaysClear.trans (a : StaysClear g r s) (b : StaysClear g s t) : StaysClear g r t :=
  ⟨a.zones.trans b.zones, fun h => b.empty (a.empty h)⟩

theorem GainsNothing.queue_empty (h : GainsNothing g r s) (hr : queue g r = []) : queue g s = [] := by
  have horders := h.orders
  rw [hr] at horders
  exact List.map_eq_nil_iff.1 (List.sublist_nil.1 horders)

theorem StaysClear.gains (h : StaysClear g r s) (k : GainsNothing g s t) : StaysClear g r t :=
  h.trans ⟨k.zones, k.queue_empty⟩

theorem StaysClear.frame (h : StaysClear g r s) (hz : t.zar = s.zar) (hq : queue g t = queue g s) : StaysClear g r t :=
  h.gains ((GainsNothing.refl g s).frame hz hq)

theorem StaysClear.onZone (h : StaysClear g r s) (z : HeadIx) {f : Zone → Zone}
    (hf : s.zar[z].Spares g (f s.zar[z])) : StaysClear g r (modZone z f s) :=
  h.gains ((GainsNothing.refl g s).onZone z hf)

theorem setGantry_clear (k : Gantry) (st : GantryState) (h : StaysClear g r s) : StaysClear g r (setGantry k st s) :=
  h.frame (modGsq_zar ..) (queue_modGsq ..)

/-! ### Sends and releases -/

theorem sendOrder_zar (k : Gantry) (o : Order) (c : Int × Int) (s : State) : (sendOrder k o c s).zar = s.zar := by
  obtain ⟨_, _, _, hsend⟩ := sendOrder_frame k o c s
  rw [hsend]

theorem queue_sendOrder_other {k : Gantry} (hk : k ≠ g) (o : Order) (c : Int × Int) (s : State) :
    queue g (sendOrder k o c s) = queue g s := by
  unfold sendOrder
  cases g <;> cases k <;> first | exact absurd rfl hk | (dsimp only; split <;> rfl)

theorem sendOrder_clear {k : Gantry} (hk : k ≠ g) (o : Order) (c : Int × Int) (h : StaysClear g r s) :
    StaysClear g r (sendOrder k o c s) := h.frame (sendOrder_zar ..) (queue_sendOrder_other hk ..)

/-- A zone left by its holder. -/
def freed (z : HeadIx) (s : State) : State := modZone z (fun r => { r with holder := .none }) s

theorem freed_holder (z : HeadIx) (s : State) : (freed z s).zar[z].holder = .none := by simp [freed]

theorem freed_clear (z : HeadIx) (h : StaysClear g r s) : StaysClear g r (freed z s) :=
  h.onZone z fun hx => by cases g <;> exact ⟨hx, fun e => nomatch e⟩

theorem headOrder_of_empty (h : queue g s = []) : headOrder g s = none := by simp [headOrder, h]

/-- The unload gantry is granted the zone only on its own request, and sends only an order that it has. -/
theorem releaseFirst_clear (g : Gantry) (z : HeadIx) (s : State) : StaysClear g (freed z s) (releaseFirst z s) := by
  have hfirst : releaseFirst z s = if (freed z s).zar[z].head then grantHead z (freed z s)
      else if (freed z s).zar[z].unload then
        match headOrder .unload (modZone z (Zone.grant .unload) (freed z s)) with
        | some o => sendPlain .unload o (modZone z (Zone.grant .unload) (freed z s))
        | none => modZone z (Zone.grant .unload) (freed z s)
      else freed z s := rfl
  rw [hfirst]
  generalize freed z s = w
  split
  · exact (StaysClear.refl g w).gains (grantHead_gains z (.refl g w))
  · split
    · rename_i hasks
      cases g
      · have hgrant : StaysClear .load w (modZone z (Zone.grant .unload) w) :=
          (StaysClear.refl .load w).onZone z fun hx => ⟨hx, fun e => nomatch e⟩
        split
        · exact sendOrder_clear (by decide) _ _ hgrant
        · exact hgrant
      · refine ⟨fun hnone => ?_, fun hempty => ?_⟩
        · exact absurd ((hnone z).symm.trans hasks) (by decide)
        · rw [headOrder_of_empty (g := .unload) (s := modZone z _ w) hempty]
          exact hempty
    · exact .refl g w

theorem releaseLoad_clear (z : HeadIx) (h : StaysClear g r s) : StaysClear g r (releaseLoad z s) := by
  unfold releaseLoad; split
  · exact (freed_clear z h).trans (releaseFirst_clear g z s)
  · exact h

/-! ### Attempts of the load gantry leave the unload gantry clear -/

theorem setGrant_clear (k : Gantry) (v : Option Nat) (h : StaysClear g r s) : StaysClear g r (setGrant k v s) := by
  cases k <;> exact h.frame rfl rfl

theorem stopWaiting_clear (k : Gantry) (h : StaysClear g r s) : StaysClear g r (stopWaiting k s) := by
  unfold stopWaiting; split
  · exact setGantry_clear k .held h
  · exact h

theorem enterHold_clear (c : HoldCauses) (arg : List Byte) (h : StaysClear g r s) :
    StaysClear g r (enterHold c arg s) := by
  have hraised : StaysClear g r (raise .holdEntered (n8 c.code ++ arg)
      (modRcu (fun r => { r with run := .hold, causes := c, settle := none }) s)) := h.frame rfl rfl
  have hquiet : ∀ s, StaysClear g s (withdrawAll s) := fun s =>
    ⟨.of_spares fun z _ => by cases g <;> simp [withdrawAll, Zone.quiet, Zone.asks], id⟩
  exact ((stopWaiting_clear .unload (stopWaiting_clear .load hraised)).trans (hquiet _)).frame rfl rfl

theorem checkHoldPoint_clear (k : Gantry) (o : Order) (h : StaysClear g r s) :
    StaysClear g r (checkHoldPoint k o s).2 := by
  have hheld : ∀ s v, StaysClear g r s → StaysClear g r (setHeld k v s) := fun s v hs => by
    cases k <;> exact hs.frame rfl rfl
  unfold checkHoldPoint; dsimp only
  repeat' split
  · exact setGrant_clear _ _ h
  · exact setGrant_clear _ _ h
  · exact setGantry_clear _ _ (enterHold_clear _ _ (hheld _ _ (setGrant_clear _ _ h)))

theorem requestZone_clear (z : HeadIx) (h : StaysClear .unload r s) : StaysClear .unload r (requestZone .load z s).2 := by
  unfold requestZone; split
  · exact h.onZone z fun hx => ⟨hx, fun e => nomatch e⟩
  · exact h.onZone z fun hx => ⟨hx, id⟩

theorem checksBefore_clear (o : Order) (h : StaysClear .unload r s) : StaysClear .unload r (checksBefore .load o s).2 := by
  unfold checksBefore
  split
  · exact setGantry_clear .load .held h
  · have hpoint := checkHoldPoint_clear .load o h
    split <;> rename_i epoint <;> rw [epoint] at hpoint
    · exact hpoint
    · split
      · exact hpoint
      · rename_i z _
        have hzone := requestZone_clear z hpoint
        split <;> rename_i ezone <;> rw [ezone] at hzone
        · exact hzone
        · exact setGantry_clear .load .zoneWait hzone

theorem countRealign_clear (u : UnitNo) (k : SocketIx) (h : StaysClear g r s) : StaysClear g r (countRealign u k s) := by
  unfold countRealign; dsimp only; split <;> exact h.frame rfl rfl

theorem replaceDiverted_clear (o : Order) (u : UnitNo) (h : StaysClear .unload r s) :
    StaysClear .unload r (replaceDiverted o u s) := by
  unfold replaceDiverted; split
  · rename_i p w hw
    obtain ⟨-, rfl, -⟩ := reserveSoak_eq_some hw
    exact h.frame rfl rfl
  · exact h.frame rfl rfl

theorem divert_clear (o : Order) (u : UnitNo) (k : SocketIx) (v : Bool) (h : StaysClear .unload r s) :
    StaysClear .unload r (divert o u k v s) := by
  have hraised : StaysClear .unload r (raise (if v then .alignVoid else .alignOut) (alignArg u k) s) := h.frame rfl rfl
  have hreleased := hraised.gains ((GainsNothing.refl ..).cancels (releaseSocket_cancels k (.refl _)) (releaseSocket_zar ..))
  have hfollowed := hreleased.gains (headsFollow_gains (raise (if v then .alignVoid else .alignOut) (alignArg u k) s)
    (.refl ..))
  exact setGantry_clear _ _ (replaceDiverted_clear _ _ (countRealign_clear _ _ (releaseLoad_clear _ hfollowed)))

theorem applyFlags_clear (u : UnitNo) (k : SocketIx) (a b : Bool) (h : StaysClear g r s) :
    StaysClear g r (applyFlags u k a b s) := by
  unfold applyFlags; dsimp only
  repeat' split
  all_goals exact h.frame rfl rfl

theorem coordinateLoad_clear (o : Order) (h : StaysClear .unload r s) : StaysClear .unload r (coordinateLoad o s).2 := by
  unfold coordinateLoad
  repeat' split
  · exact sendOrder_clear (by decide) _ _ h
  · exact sendOrder_clear (by decide) _ _ (applyFlags_clear _ _ _ _ h)
  · exact divert_clear _ _ _ _ h

theorem attemptLoad_clear : ∀ (n : Nat) (s : State), StaysClear .unload r s → StaysClear .unload r (attemptLoad n s)
  | 0, _, h => h
  | n + 1, s, h => by
    unfold attemptLoad
    split
    · split
      · exact h
      · rename_i o _
        have hchecks := checksBefore_clear o h
        split <;> rename_i echecks <;> rw [echecks] at hchecks
        · exact hchecks
        · have hsent := coordinateLoad_clear o hchecks
          split <;> rename_i esent <;> rw [esent] at hsent
          · exact hsent
          · exact attemptLoad_clear n _ hsent
    · exact h

/-- The load gantry is granted the zone only on its own request, and acts only on an order that it has. -/
theorem grantLoad_clear (z : HeadIx) (s : State) (hasks : s.zar[z].load = true) : StaysClear g s (grantLoad z s) := by
  unfold grantLoad; dsimp only
  cases g
  · refine ⟨fun hnone => absurd ((hnone z).symm.trans hasks) (by decide), fun hempty => ?_⟩
    rw [headOrder_of_empty (g := .load) (s := modZone z _ s) hempty]
    exact hempty
  · have hgrant : StaysClear .unload s (modZone z (Zone.grant .load) s) :=
      (StaysClear.refl .unload s).onZone z fun hx => ⟨hx, fun e => nomatch e⟩
    split
    · exact hgrant
    · rename_i o _
      have hsent := coordinateLoad_clear o hgrant
      split <;> rename_i esent <;> rw [esent] at hsent
      · exact hsent
      · exact attemptLoad_clear _ _ hsent

/-! ### The zones given back -/

theorem releaseZone_clear (z : HeadIx) (hheld : s.zar[z].holder = gantryHolder g) :
    StaysClear g (freed z s) (releaseZone (gantryHolder g) z s) := by
  unfold releaseZone
  rw [if_neg (not_not.2 hheld)]
  split
  · exact releaseFirst_clear g z s
  · dsimp only; split
    · rename_i hasks; exact grantLoad_clear z (freed z s) hasks
    · exact .refl g _

theorem releaseZone_stays (z : HeadIx) (h : StaysClear g r s) : StaysClear g r (releaseZone (gantryHolder g) z s) := by
  by_cases hheld : s.zar[z].holder = gantryHolder g
  · exact (freed_clear z h).trans (releaseZone_clear z hheld)
  · unfold releaseZone; rw [if_pos hheld]; exact h

theorem releaseZone_holder (z : HeadIx) (hn : NoRequest g s) :
    (releaseZone (gantryHolder g) z s).zar[z].holder ≠ gantryHolder g := by
  by_cases hheld : s.zar[z].holder = gantryHolder g
  · intro hagain
    obtain ⟨hn', -⟩ := (freed_clear z (.refl g s)).zones hn
    have hfree := ((releaseZone_clear z hheld).zones hn').2 z hagain
    rw [freed_holder] at hfree
    cases g <;> cases hfree
  · unfold releaseZone; rw [if_pos hheld]; exact hheld

theorem releaseZones_stays : ∀ (l : List HeadIx) (s : State), StaysClear g r s →
    StaysClear g r (l.foldl (fun s z => releaseZone (gantryHolder g) z s) s)
  | [], _, h => h
  | z :: l, _, h => releaseZones_stays l _ (releaseZone_stays z h)

theorem releaseZones_holder : ∀ (l : List HeadIx) (s : State), NoRequest g s → ∀ z ∈ l,
    (l.foldl (fun s z => releaseZone (gantryHolder g) z s) s).zar[z].holder ≠ gantryHolder g
  | [], _, _, _, h => absurd h (by simp)
  | y :: l, s, hn, z, hz => by
    have hn' : NoRequest g (releaseZone (gantryHolder g) y s) := ((releaseZone_stays y (.refl g s)).zones hn).1
    rcases List.mem_cons.1 hz with rfl | hz
    · intro hagain
      exact releaseZone_holder z hn (((releaseZones_stays l _ (.refl g _)).zones hn').2 z hagain)
    · exact releaseZones_holder l _ hn' z hz

theorem releaseHeld_holder (hn : NoRequest g s) (z : HeadIx) : (releaseHeld g s).zar[z].holder ≠ gantryHolder g :=
  releaseZones_holder allHeads s hn z (by revert z; decide)

end Sys2Proof.Machine
end

section
/-! PROOF. RECOVER (R166, R167) and the recovery of a gantry (R112). -/
namespace Sys2Proof.Machine

variable {g : Gantry} {r s t : State} {mask : Byte}

/-! ### The queue of a recovered gantry -/

/-- Every order of the gantry is QUEUED, and only the load gantry has an INSPECT (R55). -/
def Cancellable (g : Gantry) (s : State) : Prop :=
  ∀ o ∈ queue g s, o.status = .queued ∧ (o.kind = .inspect → g = .load)

theorem GainsNothing.exists_order (h : GainsNothing g s t) {x : Order} (hx : x ∈ queue g t) :
    ∃ y ∈ queue g s, y.face = x.face := by
  simpa using h.orders.subset (List.mem_map_of_mem hx)

theorem Cancellable.gains (a : Cancellable g s) (h : GainsNothing g s t) : Cancellable g t := fun x hx => by
  obtain ⟨y, hy, hface⟩ := h.exists_order hx
  rw [← Order.status_eq_of_face hface, ← Order.kind_eq_of_face hface]
  exact a y hy

/-- Where every order is QUEUED, an id that is cancelled leaves the queue, however many orders have it. -/
theorem cancelOne_removes (a : Cancellable g s) (id : Nat) {x : Order} (hx : x ∈ queue g (cancelOne g s id)) :
    x.id ≠ id := by
  unfold cancelOne at hx
  split at hx
  · rename_i o ho
    have hmem : o ∈ queue g s := List.mem_of_find?_eq_some ho
    have hid : o.id = id := by simpa using List.find?_some ho
    rw [if_pos (a o hmem).1] at hx
    exact hid ▸ cancelOrder_removes hmem (a o hmem).2 hx
  · rename_i hnone
    simpa using List.find?_eq_none.1 hnone x hx

theorem cancelIds_removes : ∀ (ids : List Nat) (s : State), Cancellable g s →
    ∀ x ∈ queue g (ids.foldl (cancelOne g) s), x.id ∉ ids
  | [], _, _, _, _ => by simp
  | id :: ids, s, a, x, hx => by
    have hrest : Cancels (cancelOne g s id) (ids.foldl (cancelOne g) (cancelOne g s id)) :=
      Cancels.foldl (fun _ _ => cancelOne_cancels _ _) _ _ (.refl _)
    obtain ⟨y, hy, hface⟩ := hrest.exists_order hx
    have hne : x.id ≠ id := Order.id_eq_of_face hface ▸ cancelOne_removes a id hy
    exact List.not_mem_cons_of_ne_of_not_mem hne (cancelIds_removes ids _ (a.gains (cancelOne_gains g id (.refl g s))) x hx)

/-- A cancellation of all orders, each of them QUEUED, leaves none (R71). -/
theorem cancelWhere_all_empty (a : Cancellable g s) : queue g (cancelWhere g (fun _ => true) s) = [] := by
  refine List.eq_nil_iff_forall_not_mem.2 fun x hx => ?_
  rw [cancelWhere, queue_afterCancel, List.filter_true] at hx
  obtain ⟨y, hy, hface⟩ :=
    (Cancels.foldl (r := s) (fun _ _ => cancelOne_cancels _ _) _ _ (.refl s)).exists_order hx
  exact cancelIds_removes _ s a x hx (Order.id_eq_of_face hface ▸ List.mem_map_of_mem hy)

/-! ### The order in flight (R112, step 1) -/

/-- The order in flight stands at the head of the queue. -/
theorem inFlight_eq_some {o : Order} (h : inFlight g s = some o) : ∃ os, queue g s = o :: os := by
  unfold inFlight headOrder at h
  split at h
  · rename_i p hp
    obtain ⟨os, hos⟩ := List.head?_eq_some_iff.1 hp
    split at h
    · cases h
    · cases h; exact ⟨os, hos⟩
  · cases h

/-- With no order in flight the head order is QUEUED. -/
theorem inFlight_eq_none (h : inFlight g s = none) : ∀ o ∈ headOrder g s, o.status = .queued := by
  intro o ho
  by_contra hst
  simp [inFlight, Option.mem_def.1 ho, hst] at h

theorem resolveUncertain_gains (g : Gantry) (mask : Byte) (s : State) :
    GainsNothing g s (resolveUncertain g mask s) := by
  unfold resolveUncertain
  split
  · rename_i o _
    split
    · have hdone := applyFate_done_gains g o [] (.refl g s)
      exact hdone.cancels (removeOrder_cancels g o.id (.refl _)) (modQueue_zar ..)
    · exact (GainsNothing.refl g s).cancels (cancelOrder_cancels g o (.refl s)) (cancelOrder_zar g o s)
  · exact .refl g s

/-- The order in flight leaves the queue, done or cancelled. -/
theorem resolveUncertain_removes {o x : Order} (h : inFlight g s = some o) (hi : o.kind = .inspect → g = .load)
    (hx : x ∈ queue g (resolveUncertain g mask s)) : x.id ≠ o.id := by
  obtain ⟨os, hq⟩ := inFlight_eq_some h
  simp only [resolveUncertain, h] at hx
  split at hx
  · rw [removeOrder, queue_modQueue] at hx
    simpa using (List.mem_filter.1 hx).2
  · exact cancelOrder_removes (by simp [hq]) hi hx

/-- After step 1 every order of the gantry is QUEUED. -/
theorem resolveUncertain_cancellable (hq : ∀ o ∈ (queue g s).drop 1, o.status = .queued)
    (hi : ∀ o ∈ queue g s, o.kind = .inspect → g = .load) : Cancellable g (resolveUncertain g mask s) := by
  intro x hx
  obtain ⟨y, hy, hface⟩ := (resolveUncertain_gains g mask s).exists_order hx
  rw [← Order.status_eq_of_face hface, ← Order.kind_eq_of_face hface]
  refine ⟨?_, hi y hy⟩
  obtain ⟨p, os, hos⟩ := List.exists_cons_of_ne_nil (List.ne_nil_of_mem hy)
  rw [hos] at hq hy
  rcases List.mem_cons.1 hy with rfl | hrest
  · cases hflight : inFlight g s with
    | none => exact inFlight_eq_none hflight y (by simp [headOrder, hos])
    | some o =>
      obtain ⟨os', hos'⟩ := inFlight_eq_some hflight
      obtain ⟨rfl, -⟩ := List.cons.inj (hos.symm.trans hos')
      exact absurd (Order.id_eq_of_face hface).symm
        (resolveUncertain_removes hflight (hi y (by simp [hos])) hx)
  · exact hq y hrest

/-! ### The steps of a recovery (R112) -/

/-- A recovery after step 1. -/
def recoverFirst (g : Gantry) (mask : Byte) (s : State) : State :=
  s |> resolveUncertain g mask |> checkEmpty |> headsFollow s

/-- A recovery after step 3. -/
def recoverOrders (g : Gantry) (mask : Byte) (s : State) : State :=
  recoverFirst g mask s |> cancelWhere g (fun _ => true) |> loseMissing g mask (comparedNozzles (inFlight g s))
    |> checkEmpty |> headsFollow (recoverFirst g mask s)

theorem recoverGantry_eq (g : Gantry) (mask : Byte) (s : State) :
    recoverGantry g mask s = forgetTargets g (returnIdle g (releaseHeld g (recoverOrders g mask s))) := rfl

theorem recoverFirst_gains (g : Gantry) (mask : Byte) (s : State) : GainsNothing g s (recoverFirst g mask s) :=
  headsFollow_gains _ (checkEmpty_gains (resolveUncertain_gains g mask s))

/-- What steps 2 and 3 make of a state. -/
theorem afterCancelAll_gains (before : State) (ns : List NozzleIx) (h : GainsNothing g r s) :
    GainsNothing g r (headsFollow before (checkEmpty (loseMissing g mask ns s))) :=
  headsFollow_gains _ (checkEmpty_gains (loseMissing_gains g mask ns h))

theorem recoverOrders_gains (g : Gantry) (mask : Byte) (s : State) : GainsNothing g s (recoverOrders g mask s) :=
  afterCancelAll_gains _ _ (cancelWhere_gains g _ (recoverFirst_gains g mask s))

theorem queue_recoverOrders (hq : ∀ o ∈ (queue g s).drop 1, o.status = .queued)
    (hi : ∀ o ∈ queue g s, o.kind = .inspect → g = .load) : queue g (recoverOrders g mask s) = [] := by
  have hfirst : GainsNothing g (resolveUncertain g mask s) (recoverFirst g mask s) :=
    headsFollow_gains _ (checkEmpty_gains (.refl g _))
  exact (afterCancelAll_gains _ _ (.refl g _)).queue_empty
    (cancelWhere_all_empty ((resolveUncertain_cancellable hq hi).gains hfirst))

theorem queue_dropGrant (g : Gantry) (s : State) : queue g (dropGrant g s) = queue g s := by
  unfold dropGrant
  repeat' split
  · rfl
  · cases g <;> rfl
  · rfl

/-- The last two steps change no zone and no order. -/
theorem returned_frame (g : Gantry) (s : State) : (forgetTargets g (returnIdle g s)).zar = s.zar
    ∧ queue g (forgetTargets g (returnIdle g s)) = queue g s := by
  have hforget : ∀ s, queue g (forgetTargets g s) = queue g s := fun s => by cases g <;> rfl
  have hdrop : ∀ s, (dropGrant g s).zar = s.zar := fun s => by
    unfold dropGrant
    repeat' split
    · rfl
    · cases g <;> rfl
    · rfl
  refine ⟨?_, ?_⟩
  · rw [forgetTargets, modUpt_zar, returnIdle, hdrop]; simp
  · rw [hforget, returnIdle, queue_dropGrant]
    cases g <;> rfl

theorem gsq_dropGrant (g : Gantry) (s : State) : gsq g (dropGrant g s) = gsq g s := by
  unfold dropGrant
  repeat' split
  · rfl
  · cases g <;> rfl
  · rfl

theorem parked_dropGrant (g : Gantry) (s : State) : parked g (dropGrant g s) = parked g s := by
  unfold dropGrant
  repeat' split
  · rfl
  · cases g <;> rfl
  · rfl

/-- The sequencer and the parked flag as the last steps leave them (R112, step 5). -/
theorem returned_idle (g : Gantry) (s : State) :
    gsq g (forgetTargets g (returnIdle g s)) = { gsq g s with state := .idle, timer := none, cause := none }
    ∧ parked g (forgetTargets g (returnIdle g s)) = false := by
  have hforget : ∀ s, gsq g (forgetTargets g s) = gsq g s ∧ parked g (forgetTargets g s) = parked g s := fun s => by
    cases g <;> exact ⟨rfl, rfl⟩
  rw [(hforget _).1, (hforget _).2, returnIdle, gsq_dropGrant, parked_dropGrant]
  cases g <;> exact ⟨rfl, rfl⟩

theorem forgetTargets_target {x : UnitRec} {n : NozzleIx} (h : x ∈ (forgetTargets g s).upt.units)
    (hp : x.place = some (nozzleSpot g n)) : x.target = none := by
  have hnozzle : Spot.isNozzleOf g (nozzleSpot g n) = true := by cases g <;> rfl
  obtain ⟨y, -, hxy⟩ := List.mem_map.1 h
  split at hxy
  · rw [← hxy]
  · rename_i hnot
    rw [hxy, UnitRec.onNozzleOf, hp] at hnot
    exact absurd hnozzle hnot

/-! ### RECOVER (R166, R167) -/

theorem exec_recover_of_takesNow {tag lp up : Byte} (h : takesNow s) : exec (.recover tag mask lp up) s
    = .next (replied 0x1B tag (serveRecover mask lp up s).2 (serveRecover mask lp up s).1) := by
  rw [exec_of_takesNow rfl h rfl]; rfl

theorem mem_namedGantries : g ∈ namedGantries mask ↔
    (g = .load ∧ mask.getLsbD 0 = true) ∨ (g = .unload ∧ mask.getLsbD 1 = true) := by
  unfold namedGantries
  cases mask.getLsbD 0 <;> cases mask.getLsbD 1 <;> cases g <;> simp

theorem namedGantries_any (p : Gantry → Prop) [DecidablePred p] : (namedGantries mask).any (fun g => p g) = true ↔
    (mask.getLsbD 0 = true ∧ p .load) ∨ (mask.getLsbD 1 = true ∧ p .unload) := by
  simp only [List.any_eq_true, mem_namedGantries, decide_eq_true_eq]
  constructor
  · rintro ⟨k, ⟨rfl, hk⟩ | ⟨rfl, hk⟩, hp⟩
    · exact .inl ⟨hk, hp⟩
    · exact .inr ⟨hk, hp⟩
  · rintro (⟨hk, hp⟩ | ⟨hk, hp⟩)
    · exact ⟨_, .inl ⟨rfl, hk⟩, hp⟩
    · exact ⟨_, .inr ⟨rfl, hk⟩, hp⟩

/-- Check 3 in ESTOP: some gantry that must be recovered is not named. -/
theorem unnamed_iff : ([Gantry.load, .unload].any (fun g => mustRecover g s && !(namedGantries mask).contains g)) = true ↔
    (mustRecover .load s = true ∧ mask.getLsbD 0 = false) ∨ (mustRecover .unload s = true ∧ mask.getLsbD 1 = false) := by
  unfold namedGantries
  cases mask.getLsbD 0 <;> cases mask.getLsbD 1 <;> simp

/-- The gantries named are taken in turn, the load gantry first. -/
theorem foldl_namedGantries {α : Type} (f : α → Gantry → α) (a : α) : (namedGantries mask).foldl f a =
    (let a1 := if mask.getLsbD 0 then f a .load else a
     if mask.getLsbD 1 then f a1 .unload else a1) := by
  unfold namedGantries
  cases mask.getLsbD 0 <;> cases mask.getLsbD 1 <;> rfl

/-- The masks of a RECOVER are out of range. -/
abbrev RecoverArgsBad (mask lp up : Byte) : Prop :=
  mask = 0 ∨ 4 ≤ mask.toNat ∨ (mask.getLsbD 0 = true ∧ 16 ≤ lp.toNat) ∨ (mask.getLsbD 1 = true ∧ 16 ≤ up.toNat)

theorem recoverArgsBad_iff {lp up : Byte} : (mask = 0 ∨ 4 ≤ mask.toNat
      ∨ (namedGantries mask).any (fun g => 16 ≤ (presenceFor lp up g).toNat) = true) ↔ RecoverArgsBad mask lp up :=
  or_congr_right (or_congr_right (namedGantries_any (fun g => 16 ≤ (presenceFor lp up g).toNat)))

/-- The checks of R166 in their order, and what follows them. -/
theorem serveRecover_eq (mask lp up : Byte) (s : State) : serveRecover mask lp up s =
    if RecoverArgsBad mask lp up then (s, [3])
    else if s.rcu.run = .estop ∧ s.pins.estop = true then (s, [7])
    else if s.rcu.run = .estop ∧ ((mustRecover .load s = true ∧ mask.getLsbD 0 = false)
        ∨ (mustRecover .unload s = true ∧ mask.getLsbD 1 = false)) then (s, [3])
    else if s.rcu.run ≠ .estop ∧ ((mask.getLsbD 0 = true ∧ s.gsqL.state ≠ .fault)
        ∨ (mask.getLsbD 1 = true ∧ s.gsqU.state ≠ .fault)) then (s, [4])
    else
      match firstUnaccounted mask lp up s with
      | some (g, n) => (s, [3, BitVec.ofNat 8 (gantryCode g), BitVec.ofNat 8 n.val])
      | none => (settle (recoverRun ((namedGantries mask).foldl
          (fun s g => recoverGantry g (presenceFor lp up g) s) s)), [0]) := by
  have hfault : (namedGantries mask).any (fun g => (gsq g s).state ≠ .fault) = true ↔
      (mask.getLsbD 0 = true ∧ s.gsqL.state ≠ .fault) ∨ (mask.getLsbD 1 = true ∧ s.gsqU.state ≠ .fault) :=
    namedGantries_any (fun g => (gsq g s).state ≠ .fault)
  unfold serveRecover
  dsimp only
  simp only [recoverArgsBad_iff, unnamed_iff, hfault]
  split_ifs
  · rfl
  · rfl
  · rfl
  · rfl
  · cases firstUnaccounted mask lp up s <;> rfl

/-- Settles O51: a gantry that is recovered by the lemmas about its steps, the checks by `serveRecover_eq`. -/
theorem recoverLeavesEstopForHold : Obligations.RecoverLeavesEstopForHold := by
  refine ⟨fun g mask s => ?_, fun tag mask lp up s h => ⟨fun hbad => ?_, fun hok => ?_⟩⟩
  · obtain ⟨hgsq, hparked⟩ := returned_idle g (releaseHeld g (recoverOrders g mask s))
    obtain ⟨hzar, hqueue⟩ := returned_frame g (releaseHeld g (recoverOrders g mask s))
    rw [recoverGantry_eq, hgsq]
    refine ⟨rfl, rfl, rfl, hparked, fun hq hi => ?_, fun x hx n => forgetTargets_target hx, fun hn z => ?_⟩
    · have hinspect : ∀ o ∈ queue g s, o.kind = .inspect → g = .load := fun o ho hk => by
        cases g
        · rfl
        · exact absurd hk (hi o ho)
      rw [hqueue]
      exact (releaseZones_stays allHeads _ (.refl g _)).empty (queue_recoverOrders hq hinspect)
    · have hnone : NoRequest g s := fun z => by
        obtain ⟨hl, hu⟩ := hn z
        cases g
        · exact hl rfl
        · exact hu rfl
      rw [hzar]
      exact releaseHeld_holder ((recoverOrders_gains g mask s).zones hnone).1 z
  · rw [exec_recover_of_takesNow h, serveRecover_eq, if_pos hbad]
  · rw [exec_recover_of_takesNow h, serveRecover_eq, if_neg hok, foldl_namedGantries]
    cases firstUnaccounted mask lp up s with
    | some c => dsimp only; split_ifs <;> with_reducible rfl
    | none => dsimp only [presenceFor, recoverRun]; split_ifs <;> with_reducible rfl

end Sys2Proof.Machine
end

section
/-! PROOF. Planning outside RUN and the frame of planning: when a gantry is evaluated (R57), what an issue attempt
outside RUN leaves (R95, R96), the rounds that close a step (log entry 6), and the planner's choice of a
socket (R60). -/
namespace Sys2Proof.Machine

variable {s : State} {g : Gantry} {ex : BitVec 16}

/-! ### When a gantry is evaluated (R57) -/

theorem queueOpen_iff :
    queueOpen g s = true ↔ queue g s = [] ∨ ∃ o, queue g s = [o] ∧ o.kind = .park ∧ o.status = .queued := by
  unfold queueOpen
  split <;> rename_i h
  · simp [h]
  · simp [h]
  · refine iff_of_false Bool.false_ne_true ?_
    rintro (he | ⟨o, he, -⟩)
    · exact absurd he (by assumption)
    · exact h o he

theorem lotActive_iff :
    lotActive s = true ↔ s.ltc.state = .running ∨ s.ltc.state = .draining ∨ s.ltc.state = .purging := by
  simp [lotActive, or_assoc]

theorem due_iff : due g s = true ↔ queueOpen g s = true ∧ (gsq g s).state ≠ .fault ∧ s.rcu.run = .run
    ∧ lotActive s = true := by simp [due, and_assoc]

theorem evaluate_of_due (h : due g s = true) : evaluate g s = plan g s := if_pos h

theorem evaluate_of_not_due (h : due g s ≠ true) : evaluate g s = s := if_neg h

theorem inEitherOrder_cases (e f : State → State) (s : State) :
    inEitherOrder e f s = e (f { s with free := s.free + 1 })
    ∨ inEitherOrder e f s = f (e { s with free := s.free + 1 }) := by
  unfold inEitherOrder
  split <;> rename_i h <;> obtain ⟨-, rfl⟩ := Prod.mk.inj h
  · exact .inl rfl
  · exact .inr rfl

theorem evaluateBoth_cases (s : State) : ∃ n,
    evaluateBoth s = evaluate .unload (evaluate .load { s with free := n })
    ∨ evaluateBoth s = evaluate .load (evaluate .unload { s with free := n }) := by
  unfold evaluateBoth
  split
  · exact ⟨_, (inEitherOrder_cases _ _ s).symm⟩
  · exact ⟨s.free, .inl rfl⟩

theorem settle_cases (s : State) : settle s = issueRound s (evaluateBoth s)
    ∨ ∃ n, settle s = rounds n (issueRound s (evaluateBoth s)) := by
  unfold settle rounds
  dsimp only
  split
  · exact .inl rfl
  · exact .inr ⟨7, rfl⟩

/-! ### Outside RUN (R57, R95, R96) -/

theorem evaluate_of_not_run (g : Gantry) (h : s.rcu.run ≠ .run) : evaluate g s = s :=
  evaluate_of_not_due fun hd => h (due_iff.1 hd).2.2.1

theorem evaluateBoth_of_not_run (h : s.rcu.run ≠ .run) : evaluateBoth s = s := by
  have hdue : ¬(due .load s = true ∧ due .unload s = true) := fun hd => h (due_iff.1 hd.1).2.2.1
  rw [evaluateBoth, if_neg hdue]
  simp only [evaluate_of_not_run _ h]

theorem headOrder_of_canAttempt (h : canAttempt g s = true) : ∃ o, headOrder g s = some o := by
  have hq : queue g s ≠ [] := by simp [canAttempt] at h; exact h.2
  exact ⟨_, List.head?_eq_some_head hq⟩

/-- A gantry with its state HELD where it can make an issue attempt. -/
def heldIfWaiting (g : Gantry) (s : State) : State := if canAttempt g s then setGantry g .held s else s

theorem checksBefore_of_not_run (o : Order) (h : s.rcu.run ≠ .run) :
    checksBefore g o s = (false, setGantry g .held s) := if_pos h

theorem attempt_of_not_run (g : Gantry) (h : s.rcu.run ≠ .run) : attempt g s = heldIfWaiting g s := by
  unfold heldIfWaiting
  split <;> rename_i hc
  · obtain ⟨o, ho⟩ := headOrder_of_canAttempt hc
    cases g
    · simp only [attempt, attemptFuel, attemptLoad, hc, ho, checksBefore_of_not_run o h, if_true]
    · simp only [attempt, attemptUnload, hc, ho, checksBefore_of_not_run o h, if_true]
  · cases g
    · simp only [attempt, attemptFuel, attemptLoad, hc]; rfl
    · simp only [attempt, attemptUnload, hc]; rfl

theorem heldIfWaiting_load (s : State) : heldIfWaiting .load s =
    { s with gsqL := if canAttempt .load s then { s.gsqL with state := .held } else s.gsqL } := by
  unfold heldIfWaiting; split <;> rfl

theorem heldIfWaiting_unload (s : State) : heldIfWaiting .unload s =
    { s with gsqU := if canAttempt .unload s then { s.gsqU with state := .held } else s.gsqU } := by
  unfold heldIfWaiting; split <;> rfl

theorem heldIfWaiting_run (g : Gantry) (s : State) : (heldIfWaiting g s).rcu.run = s.rcu.run := by
  cases g
  · rw [heldIfWaiting_load]
  · rw [heldIfWaiting_unload]

/-- What one gantry's wait depends on is not changed by the other's. -/
theorem heldIfWaiting_both (n : Nat) (s : State) :
    heldIfWaiting .load (heldIfWaiting .unload { s with free := n })
        = heldIfWaiting .unload (heldIfWaiting .load { s with free := n })
    ∧ heldIfWaiting .unload (heldIfWaiting .load { s with free := n }) = { s with
        free := n
        gsqL := if canAttempt .load s then { s.gsqL with state := .held } else s.gsqL
        gsqU := if canAttempt .unload s then { s.gsqU with state := .held } else s.gsqU } := by
  simp only [heldIfWaiting_load, heldIfWaiting_unload]
  exact ⟨rfl, rfl⟩

/-- Both gantries attempt outside RUN, in whatever order. -/
theorem attemptBoth_of_not_run (h : s.rcu.run ≠ .run) : ∃ n, attemptBoth s = { s with
    free := n
    gsqL := if canAttempt .load s then { s.gsqL with state := .held } else s.gsqL
    gsqU := if canAttempt .unload s then { s.gsqU with state := .held } else s.gsqU } := by
  have hboth : ∀ n, attempt .load (attempt .unload { s with free := n })
      = heldIfWaiting .load (heldIfWaiting .unload { s with free := n })
      ∧ attempt .unload (attempt .load { s with free := n })
      = heldIfWaiting .unload (heldIfWaiting .load { s with free := n }) := fun n => by
    have hn : ({ s with free := n } : State).rcu.run ≠ .run := h
    rw [attempt_of_not_run _ hn, attempt_of_not_run _ hn, attempt_of_not_run .load, attempt_of_not_run .unload]
    · exact ⟨rfl, rfl⟩
    · rw [heldIfWaiting_run]; exact h
    · rw [heldIfWaiting_run]; exact h
  unfold attemptBoth
  split
  · refine ⟨s.free + 1, ?_⟩
    rcases inEitherOrder_cases (attempt .load) (attempt .unload) s with e | e
    · rw [e, (hboth _).1, (heldIfWaiting_both _ s).1, (heldIfWaiting_both _ s).2]
    · rw [e, (hboth _).2, (heldIfWaiting_both _ s).2]
  · exact ⟨s.free, (hboth s.free).2.trans (heldIfWaiting_both s.free s).2⟩

theorem headView_congr {t : State} (hh : t.hsc = s.hsc) (hl : t.ltc = s.ltc) (hu : t.upt = s.upt) (h : HeadIx) :
    headView h t = headView h s := by simp only [headView, drainClear, hh, hl, hu]

/-- Where the heads, the sockets, the lot and the units are as before, nothing follows. -/
theorem headsFollow_of_unchanged {t : State} (hh : t.hsc = s.hsc) (hl : t.ltc = s.ltc) (hu : t.upt = s.upt) :
    headsFollow s t = t := by
  have hactive : activeSet s = activeSet t := by simp only [activeSet, hh]
  have hview : ∀ h, headView h s = headView h t := fun h => (headView_congr hh hl hu h).symm
  have hreview : ∀ hs : List HeadIx,
      hs.foldl (fun t h => if headView h s = headView h t then t else reviewHead h t) t = t := fun hs => by
    induction hs with
    | nil => rfl
    | cons h hs ih => rw [List.foldl_cons, if_pos (hview h), ih]
  rw [headsFollow, examineActive, if_pos hactive]
  exact hreview allHeads

/-- What closes a step outside RUN turns a gantry whose queue waits into HELD, and does no more. -/
theorem settle_of_not_run (h : s.rcu.run ≠ .run) : ∃ n, settle s = { s with
    free := n
    gsqL := if canAttempt .load s then { s.gsqL with state := .held } else s.gsqL
    gsqU := if canAttempt .unload s then { s.gsqU with state := .held } else s.gsqU } := by
  obtain ⟨n, hn⟩ := attemptBoth_of_not_run h
  refine ⟨n, ?_⟩
  have hround : issueRound s s = _ := (headsFollow_of_unchanged (by rw [hn]) (by rw [hn]) (by rw [hn])).trans hn
  simp only [settle, rounds, evaluateBoth_of_not_run h, hround, and_self, if_true]

/-! ### The planner's choice of a socket (R60) -/

/-- An EMPTY socket is active where it is not off-pending. -/
theorem SocketRec.active_and_empty_iff (r : SocketRec) (rest : Prop) :
    (r.active = true ∧ r.state = .empty ∧ rest) ↔ r.state = .empty ∧ r.offPending = none ∧ rest := by
  cases h : r.state <;> simp [SocketRec.active, h]

theorem eligible_iff {k : SocketIx} : eligible ex s k = true ↔ s.hsc.sockets[k].state = .empty
    ∧ s.hsc.sockets[k].offPending = none ∧ ex.getLsbD k.val = false ∧ s.hsc.heads[headOf k].state = .fill
    ∧ s.hsc.heads[headOf k].fillExpired = false := by
  simp only [eligible, Bool.and_eq_true, Bool.not_eq_true', decide_eq_true_eq, and_assoc]
  exact SocketRec.active_and_empty_iff ..

theorem mem_socketsOf {h : HeadIx} {k : SocketIx} : k ∈ socketsOf h ↔ headOf k = h := by
  revert h k; decide

theorem socketsOf_ascending (h : HeadIx) : (socketsOf h).Pairwise (· < ·) := by revert h; decide

theorem headOf_mono {j k : SocketIx} (h : headOf k < headOf j) : k < j := by
  have : k.val / 4 < j.val / 4 := h
  exact Fin.lt_def.2 (by omega)

/-- What `find?` gives on an ascending list is least. -/
theorem find?_le_of_ascending {α : Type} [LinearOrder α] {p : α → Bool} {l : List α} {a b : α} (hl : l.Pairwise (· < ·))
    (ha : l.find? p = some a) (hb : b ∈ l) (hpb : p b = true) : a ≤ b := by
  obtain ⟨-, before, after, rfl, hbefore⟩ := List.find?_eq_some_iff_append.1 ha
  obtain ⟨-, hafter, -⟩ := List.pairwise_append.1 hl
  rcases List.mem_append.1 hb with hb | hb
  · simpa [hpb] using hbefore b hb
  · rcases List.mem_cons.1 hb with rfl | hb
    · exact le_rfl
    · exact (List.rel_of_pairwise_cons hafter hb).le

theorem fullestHead_eq_none_iff {l : List HeadIx} : fullestHead s l = none ↔ l = [] := by
  cases l with
  | nil => simp [fullestHead]
  | cons h hs =>
    unfold fullestHead
    split
    · simp
    · split <;> simp

/-- The head with the most LOADED sockets, the first on a tie. -/
theorem fullestHead_spec {l : List HeadIx} {b : HeadIx} (hl : l.Pairwise (· < ·)) (h : fullestHead s l = some b) :
    b ∈ l ∧ ∀ j ∈ l, countSockets j .loaded s < countSockets b .loaded s
      ∨ (countSockets j .loaded s = countSockets b .loaded s ∧ b ≤ j) := by
  induction l generalizing b with
  | nil => cases h
  | cons i is ih =>
    unfold fullestHead at h
    split at h <;> rename_i hrest
    · cases h
      simp [fullestHead_eq_none_iff.1 hrest]
    · rename_i c
      obtain ⟨hmem, hmax⟩ := ih hl.of_cons hrest
      split at h <;> rename_i hlt <;> cases h
      · exact ⟨List.mem_cons_of_mem _ hmem, List.forall_mem_cons.2 ⟨.inl hlt, hmax⟩⟩
      · refine ⟨List.mem_cons_self, List.forall_mem_cons.2 ⟨.inr ⟨rfl, le_rfl⟩, fun j hj => ?_⟩⟩
        have hle : countSockets j .loaded s ≤ countSockets i .loaded s :=
          ((hmax j hj).elim le_of_lt fun e => e.1.le).trans (not_lt.1 hlt)
        exact hle.lt_or_eq.imp_right fun e => ⟨e, (List.rel_of_pairwise_cons hl hj).le⟩

/-- The heads that have a socket eligible for a unit. -/
def headsEligible (ex : BitVec 16) (s : State) : List HeadIx :=
  allHeads.filter (fun h => (socketsOf h).any (eligible ex s))

theorem mem_headsEligible {h : HeadIx} :
    h ∈ headsEligible ex s ↔ ∃ k, headOf k = h ∧ eligible ex s k = true := by
  have hall : h ∈ allHeads := by revert h; decide
  simp [headsEligible, hall, mem_socketsOf]

theorem headsEligible_ascending (ex : BitVec 16) (s : State) : (headsEligible ex s).Pairwise (· < ·) :=
  List.Pairwise.filter _ (by decide)

/-- The socket chosen is the first eligible one of the fullest head. -/
theorem chooseSocket_eq_some {k : SocketIx} (h : chooseSocket ex s = some k) :
    fullestHead s (headsEligible ex s) = some (headOf k) ∧ (socketsOf (headOf k)).find? (eligible ex s) = some k := by
  unfold chooseSocket at h
  split at h
  · rename_i b hb
    have hk : headOf k = b := mem_socketsOf.1 (List.mem_of_find?_eq_some h)
    exact hk ▸ ⟨hb, h⟩
  · cases h

theorem chooseSocket_eq_none_iff : chooseSocket ex s = none ↔ ∀ k, eligible ex s k ≠ true := by
  unfold chooseSocket
  constructor
  · intro h k hk
    split at h
    · rename_i b hb
      obtain ⟨hmem, -⟩ := fullestHead_spec (headsEligible_ascending ex s) hb
      obtain ⟨j, hj, hej⟩ := mem_headsEligible.1 hmem
      exact List.find?_eq_none.1 h j (mem_socketsOf.2 hj) hej
    · rename_i hb
      have hmem : headOf k ∈ headsEligible ex s := mem_headsEligible.2 ⟨k, rfl, hk⟩
      have hnil : headsEligible ex s = [] := fullestHead_eq_none_iff.1 hb
      rw [hnil] at hmem
      cases hmem
  · intro h
    split
    · exact List.find?_eq_none.2 fun k _ => h k
    · rfl

theorem chooseSocket_best {k : SocketIx} (h : chooseSocket ex s = some k) :
    eligible ex s k = true ∧ ∀ j, eligible ex s j = true →
      countSockets (headOf j) .loaded s < countSockets (headOf k) .loaded s
      ∨ (countSockets (headOf j) .loaded s = countSockets (headOf k) .loaded s ∧ k ≤ j) := by
  obtain ⟨hhead, hfirst⟩ := chooseSocket_eq_some h
  refine ⟨List.find?_some hfirst, fun j hj => ?_⟩
  obtain ⟨-, hmax⟩ := fullestHead_spec (headsEligible_ascending ex s) hhead
  rcases hmax (headOf j) (mem_headsEligible.2 ⟨j, rfl, hj⟩) with hlt | ⟨heq, hle⟩
  · exact .inl hlt
  · refine .inr ⟨heq, ?_⟩
    rcases hle.lt_or_eq with hlt | hsame
    · exact (headOf_mono hlt).le
    · exact find?_le_of_ascending (socketsOf_ascending _) hfirst (mem_socketsOf.2 hsame.symm) hj

end Sys2Proof.Machine
end

section
/-! PROOF. Trips as queues: the orders that a trip's legs give, their place in the queue (R56), and the first leg of a
nozzle trip (R64, R68) with the placement of a unit by the tables of R64 and R69. -/
namespace Sys2Proof.Machine

variable {s t : State} {g : Gantry} {n : NozzleIx} {l : Leg} {o : Order}

/-! ### The orders of a trip (R56) -/

theorem head?_numbered {os : List Order} (i : Nat) (h : os.head? = some o) :
    (numbered i os).head? = some { o with id := i } := by
  cases os with
  | nil => cases h
  | cons a as => obtain rfl := Option.some.inj h; rfl

theorem mem_numbered {os : List Order} (i : Nat) (h : o ∈ os) : ∃ j, { o with id := j } ∈ numbered i os := by
  induction os generalizing i with
  | nil => cases h
  | cons a as ih =>
    rcases List.mem_cons.1 h with rfl | h
    · exact ⟨i, List.mem_cons_self⟩
    · obtain ⟨j, hj⟩ := ih (i + 1) h
      exact ⟨j, List.mem_cons_of_mem _ hj⟩

theorem queue_placeOrders (g : Gantry) (os : List Order) (s : State) :
    queue g (placeOrders g os s) = numbered s.xpl.nextOrderId os := by cases g <;> rfl

theorem queue_placeLoadTrip (kind : TripKind) (b : Bool) (ls : List Leg) (s : State) :
    queue .load (placeLoadTrip kind b ls s) = numbered s.xpl.nextOrderId (tripOrders b ls) := rfl

/-- The first order of a trip heads the queue. -/
theorem headOrder_of_numbered {i : Nat} {os : List Order} (hq : queue g t = numbered i os) (h : os.head? = some o) :
    headOrder g t = some { o with id := i } := by
  rw [headOrder, hq, head?_numbered i h]

/-- Each order of a trip stands in the queue. -/
theorem mem_queue_of_numbered {i : Nat} {os : List Order} (hq : queue g t = numbered i os) (h : o ∈ os) :
    ∃ j, { o with id := j } ∈ queue g t := by
  rw [hq]; exact mem_numbered i h

/-- The PICK of a leg with the place it picks from. -/
def Leg.pickFrom (l : Leg) (p : Place) : Order :=
  { plainOrder .pick with
    unit := (match l.unit with
      | .created => .none
      | u => u)
    place := some p, nozzle := l.nozzle }

/-- The PLACE of a leg with the place it puts its unit down at. -/
def Leg.placeAt (l : Leg) (p : Place) : Order :=
  { plainOrder .place with
    unit := l.unit, place := some p, nozzle := l.nozzle, reservation := l.reservation, purpose := l.purpose }

theorem Leg.pick_of_source {p : Place} (h : l.source = some p) : l.pick = [l.pickFrom p] := by
  rw [Leg.pick, h]; rfl

theorem Leg.place_of_dest {p : Place} (h : l.dest = some p) : l.place = [l.placeAt p] := by
  simp only [Leg.place, h, Leg.placeAt]

theorem head?_tripOrders_of_source {p : Place} (b : Bool) (ls : List Leg) (h : l.source = some p) :
    (tripOrders b (l :: ls)).head? = some (l.pickFrom p) := by
  simp [tripOrders, Leg.pick_of_source h]

theorem placeAt_mem_tripOrders {p : Place} (b : Bool) (ls : List Leg) (h : l.dest = some p) :
    l.placeAt p ∈ tripOrders b (l :: ls) := by
  simp [tripOrders, Leg.place_of_dest h]

theorem inspect_mem_tripOrders (ls : List Leg) :
    { plainOrder .inspect with mask := pickMask ls } ∈ tripOrders true ls := by
  simp [tripOrders]

theorem flatMap_pick_placesOnly {ls : List Leg} (h : ∀ x ∈ ls, x.placesOnly) : ls.flatMap Leg.pick = [] := by
  refine List.flatMap_eq_nil_iff.2 fun x hx => ?_
  have hsource : x.source = none := h x hx
  simp only [Leg.pick, hsource]

/-- A trip without PICKs begins with the PLACE of its first leg. -/
theorem head?_tripOrders_placesOnly {p : Place} {ls : List Leg} (hl : ∀ x ∈ l :: ls, x.placesOnly)
    (h : l.dest = some p) :
    (tripOrders false (l :: ls)).head? = some (l.placeAt p) := by
  simp [tripOrders, flatMap_pick_placesOnly hl, Leg.place_of_dest h]

/-! ### The mask of an INSPECT -/

/-- The nozzles of a mask and of the legs that pick. -/
def addPick (m : BitVec 4) (l : Leg) : BitVec 4 := if l.source.isSome then m ||| BitVec.twoPow 4 l.nozzle.val else m

theorem addPick_getLsbD {m : BitVec 4} {i : Nat} (l : Leg) (h : m.getLsbD i = true) :
    (addPick m l).getLsbD i = true := by
  unfold addPick; split
  · rw [BitVec.getLsbD_or, h, Bool.true_or]
  · exact h

theorem foldl_addPick_getLsbD {m : BitVec 4} {i : Nat} (ls : List Leg) (h : m.getLsbD i = true) :
    (ls.foldl addPick m).getLsbD i = true := by
  induction ls generalizing m with
  | nil => exact h
  | cons l ls ih => exact ih (addPick_getLsbD l h)

theorem pickMask_getLsbD {p : Place} (ls : List Leg) (h : l.source = some p) :
    (pickMask (l :: ls)).getLsbD l.nozzle.val = true := by
  refine foldl_addPick_getLsbD (m := addPick 0 l) ls ?_
  have hn : l.nozzle.val < 4 := l.nozzle.isLt
  simp [addPick, h, hn]

/-! ### A PARK alone (R57) -/

theorem planPark_of_open (hp : parked g s = false) (hq : queue g s = []) :
    planPark g s = placeOrders g [plainOrder .park] s := if_pos ⟨hp, hq⟩

theorem planPark_of_not_open (h : parked g s = true ∨ queue g s ≠ []) : planPark g s = s := by
  refine if_neg ?_
  rintro ⟨hp, hq⟩
  rcases h with h | h
  · rw [hp] at h; cases h
  · exact h hq

/-! ### The choice of a trip (R63, R68) -/

theorem planLoad_of_nozzle {ls : List Leg} (h : nozzleLegs nozzleLeg allNozzles s = (l :: ls, t)) :
    planLoad s = placeLoadTrip .nozzle false (l :: ls) t := by
  simp only [planLoad, h]

theorem planUnload_of_nozzle {ls : List Leg} (h : nozzleLegs unloadNozzleLeg allNozzles s = (l :: ls, t)) :
    planUnload s = placeOrders .unload (tripOrders false (l :: ls)) t := by
  simp only [planUnload, h]

theorem planLoad_of_socket {ls : List Leg} {w : State} (h : nozzleLegs nozzleLeg allNozzles s = ([], w))
    (ht : lotTesting w = true)
    (hs : socketLegs w.xpl.readyList (freeNozzles .load w) 3 w = (l :: ls, t)) :
    planLoad s = placeLoadTrip .socket true (l :: ls) t := by
  simp only [planLoad, h, ht, if_true, hs]

theorem planLoad_of_input {s1 s2 : State} (h : nozzleLegs nozzleLeg allNozzles s = ([], s1))
    (hs : (if lotTesting s1 then socketLegs s1.xpl.readyList (freeNozzles .load s1) 3 s1 else ([], s1)) = ([], s2))
    (hi : inputTrip s2 = some t) : planLoad s = t := by
  simp only [planLoad, h, hs, hi]

theorem planLoad_of_none {s1 s2 : State} (h : nozzleLegs nozzleLeg allNozzles s = ([], s1))
    (hs : (if lotTesting s1 then socketLegs s1.xpl.readyList (freeNozzles .load s1) 3 s1 else ([], s1)) = ([], s2))
    (hi : inputTrip s2 = none) (hg : (stagingTrip s2).1 = false) :
    planLoad s = planPark .load (stagingTrip s2).2 := by
  simp only [planLoad, h, hs, hi]
  generalize stagingTrip s2 = x at hg ⊢
  obtain ⟨b, w⟩ := x
  obtain rfl : b = false := hg
  rfl

theorem planUnload_of_pickup {ls : List Leg} {w : State} (h : nozzleLegs unloadNozzleLeg allNozzles s = ([], w))
    (hp : pickupLegs (doneUnits w ++ plateUnits w) (freeNozzles .unload w) w = (l :: ls, t)) :
    planUnload s = placeOrders .unload (tripOrders false (l :: ls)) t := by
  simp only [planUnload, h, hp]

theorem planUnload_of_none {w : State} (h : nozzleLegs unloadNozzleLeg allNozzles s = ([], w))
    (hp : pickupLegs (doneUnits w ++ plateUnits w) (freeNozzles .unload w) w = ([], t)) :
    planUnload s = planPark .unload t := by
  simp only [planUnload, h, hp]

/-! ### The legs of a nozzle trip -/

theorem nozzleLegs_of_leg {leg : NozzleIx → State → Option Leg × State} (ns : List NozzleIx)
    (h : leg n s = (some l, t)) :
    nozzleLegs leg (n :: ns) s = (l :: (nozzleLegs leg ns t).1, (nozzleLegs leg ns t).2) := by
  simp only [nozzleLegs, h]; rfl

/-- Nozzles without a placement are passed over. -/
theorem nozzleLegs_skip {leg : NozzleIx → State → Option Leg × State} {pre : List NozzleIx} (ns : List NozzleIx)
    (h : ∀ m ∈ pre, leg m s = (none, s)) : nozzleLegs leg (pre ++ ns) s = nozzleLegs leg ns s := by
  induction pre with
  | nil => rfl
  | cons m pre ih =>
    rw [List.cons_append, nozzleLegs, h m List.mem_cons_self]
    exact ih fun k hk => h k (List.mem_cons_of_mem _ hk)

theorem nozzleLegs_of_none {leg : NozzleIx → State → Option Leg × State} (ns : List NozzleIx)
    (h : ∀ m ∈ ns, leg m s = (none, s)) : nozzleLegs leg ns s = ([], s) := by
  have hskip := nozzleLegs_skip [] h
  rwa [List.append_nil] at hskip

/-- The nozzles around one of them. -/
theorem allNozzles_split (n : NozzleIx) : allNozzles =
    allNozzles.takeWhile (· < n) ++ n :: (allNozzles.dropWhile (· < n)).tail := by revert n; decide

theorem lt_of_mem_takeWhile {m : NozzleIx} (h : m ∈ allNozzles.takeWhile (· < n)) : m < n := by
  simpa using List.mem_takeWhile_imp h

/-- A nozzle trip begins with the lowest nozzle that has a placement. -/
theorem nozzleLegs_first {leg : NozzleIx → State → Option Leg × State}
    (hm : ∀ m : NozzleIx, m < n → leg m s = (none, s)) (h : leg n s = (some l, t)) :
    ∃ ls w, nozzleLegs leg allNozzles s = (l :: ls, w) := by
  rw [allNozzles_split n, nozzleLegs_skip _ fun m h => hm m (lt_of_mem_takeWhile h), nozzleLegs_of_leg _ h]
  exact ⟨_, _, rfl⟩

/-- A leg that carries a unit from a source, or from the nozzle, to a place. -/
structure Leg.Carries (l : Leg) (n : NozzleIx) (u : UnitNo) (source : Option Place) : Prop where
  nozzle : l.nozzle = n
  unit : l.unit = .unit u
  source : l.source = source
  dest : ∃ p, l.dest = some p

theorem socketLeg_carries (n : NozzleIx) (u : UnitNo) (source : Option Place) (k : SocketIx) (s : State) :
    (socketLeg n u source k s).1.Carries n u source := ⟨rfl, rfl, rfl, _, rfl⟩

theorem soakLeg_of_reserved {u : UnitNo} {source : Option Place} {purpose : Purpose} {p : SoakIx}
    (h : reserveSoak purpose u s = some (p, t)) : soakLeg n u source purpose s = some
      ({ nozzle := n, unit := .unit u, source := source, dest := some (.soak p), reservation := .soak p,
         purpose := some purpose }, setTarget u (some (.soak p)) t) := by
  simp only [soakLeg, h]

theorem soakLeg_of_refused {u : UnitNo} {source : Option Place} {purpose : Purpose}
    (h : reserveSoak purpose u s = none) : soakLeg n u source purpose s = none := by simp only [soakLeg, h]

theorem soakLeg_carries {u : UnitNo} {source : Option Place} {purpose : Purpose}
    (h : soakLeg n u source purpose s = some (l, t)) : l.Carries n u source := by
  unfold soakLeg at h
  split at h
  · obtain ⟨rfl, -⟩ := Prod.mk.inj (Option.some.inj h)
    exact ⟨rfl, rfl, rfl, _, rfl⟩
  · cases h

theorem pocketLeg_carries {u : UnitNo} {source : Option Place} {p : PairIx}
    (h : pocketLeg n u source p s = some (l, t)) : l.Carries n u source := by
  unfold pocketLeg at h
  split at h
  · cases h
  · obtain ⟨x, -, hx⟩ := Option.map_eq_some_iff.1 h
    obtain ⟨rfl, -⟩ := Prod.mk.inj hx
    exact ⟨rfl, rfl, rfl, _, rfl⟩

theorem chuteLeg_carries {u : UnitNo} {source : Option Place} (h : chuteLeg n u source s = some (l, t)) :
    l.Carries n u source := by
  obtain ⟨x, -, hx⟩ := Option.map_eq_some_iff.1 h
  obtain ⟨rfl, -⟩ := Prod.mk.inj hx
  exact ⟨rfl, rfl, rfl, _, rfl⟩

theorem unloadLeg_carries {r : UnitRec} {source : Option Place} (h : unloadLeg n r source s = some (l, t)) :
    l.Carries n r.no source := by
  unfold unloadLeg at h
  repeat' split at h
  · exact pocketLeg_carries h
  · exact chuteLeg_carries h
  · cases h
  · exact chuteLeg_carries h
  · exact soakLeg_carries h
  · exact soakLeg_carries h
  · exact soakLeg_carries h

theorem stagedLeg_carries {r : UnitRec} (h : stagedLeg n r s = (some l, t)) : l.Carries n r.no none := by
  unfold stagedLeg at h
  repeat' split at h
  · rename_i hsoak
    obtain ⟨hl, -⟩ := Prod.mk.inj h
    exact Option.some.inj hl ▸ soakLeg_carries hsoak
  · cases h
  · obtain ⟨hl, -⟩ := Prod.mk.inj h
    exact Option.some.inj hl ▸ socketLeg_carries n r.no none _ s
  · cases h

theorem nozzleLeg_carries (h : nozzleLeg n s = (some l, t)) : ∃ u, l.Carries n u none := by
  unfold nozzleLeg at h
  repeat' split at h
  · cases h
  · exact ⟨_, stagedLeg_carries h⟩
  · rename_i hsoak
    obtain ⟨hl, -⟩ := Prod.mk.inj h
    exact ⟨_, Option.some.inj hl ▸ soakLeg_carries hsoak⟩
  · cases h
  · cases h

theorem unloadNozzleLeg_carries (h : unloadNozzleLeg n s = (some l, t)) : ∃ u, l.Carries n u none := by
  unfold unloadNozzleLeg at h
  repeat' split at h
  · cases h
  · rename_i hleg
    obtain ⟨hl, -⟩ := Prod.mk.inj h
    exact ⟨_, Option.some.inj hl ▸ unloadLeg_carries hleg⟩
  · cases h

/-- Where each leg carries its unit from the nozzle, the legs of the trip pick nothing. -/
theorem nozzleLegs_placesOnly {leg : NozzleIx → State → Option Leg × State}
    (hleg : ∀ n s l t, leg n s = (some l, t) → ∃ u, l.Carries n u none) (ns : List NozzleIx) (s : State) :
    ∀ x ∈ (nozzleLegs leg ns s).1, x.placesOnly := by
  induction ns generalizing s with
  | nil => intro x hx; cases hx
  | cons n ns ih =>
    unfold nozzleLegs
    split
    · rename_i l w hl
      obtain ⟨u, hu⟩ := hleg _ _ _ _ hl
      exact List.forall_mem_cons.2 ⟨hu.source, ih w⟩
    · exact ih _

/-- The first order of a nozzle trip is the PLACE of its first leg. -/
theorem head?_tripOrders_nozzle {leg : NozzleIx → State → Option Leg × State} {ls : List Leg} {w : State} {p : Place}
    (hleg : ∀ n s l t, leg n s = (some l, t) → ∃ u, l.Carries n u none)
    (h : nozzleLegs leg allNozzles s = (l :: ls, w)) (hd : l.dest = some p) :
    (tripOrders false (l :: ls)).head? = some (l.placeAt p) := by
  have hplaces := nozzleLegs_placesOnly hleg allNozzles s
  rw [h] at hplaces
  exact head?_tripOrders_placesOnly hplaces hd

theorem headOrder_load_nozzle (hm : ∀ m : NozzleIx, m < n → nozzleLeg m s = (none, s))
    (h : nozzleLeg n s = (some l, t)) :
    ∃ o, headOrder .load (plan .load s) = some o ∧ o.kind = .place ∧ o.unit = l.unit ∧ o.place = l.dest
      ∧ o.nozzle = n ∧ o.reservation = l.reservation ∧ o.purpose = l.purpose ∧ o.status = .queued := by
  obtain ⟨ls, w, hlegs⟩ := nozzleLegs_first hm h
  obtain ⟨u, hu⟩ := nozzleLeg_carries h
  obtain ⟨p, hp⟩ := hu.dest
  have hhead := head?_tripOrders_nozzle (fun _ _ _ _ => nozzleLeg_carries) hlegs hp
  have hqueue : queue .load (plan .load s) = _ :=
    (congrArg _ (planLoad_of_nozzle hlegs)).trans (queue_placeLoadTrip ..)
  exact ⟨_, headOrder_of_numbered hqueue hhead, rfl, rfl, hp.symm, hu.nozzle, rfl, rfl, rfl⟩

theorem headOrder_unload_nozzle (hm : ∀ m : NozzleIx, m < n → unloadNozzleLeg m s = (none, s))
    (h : unloadNozzleLeg n s = (some l, t)) :
    ∃ o, headOrder .unload (plan .unload s) = some o ∧ o.kind = .place ∧ o.unit = l.unit ∧ o.place = l.dest
      ∧ o.nozzle = n ∧ o.reservation = l.reservation ∧ o.purpose = l.purpose ∧ o.status = .queued := by
  obtain ⟨ls, w, hlegs⟩ := nozzleLegs_first hm h
  obtain ⟨u, hu⟩ := unloadNozzleLeg_carries h
  obtain ⟨p, hp⟩ := hu.dest
  have hhead := head?_tripOrders_nozzle (fun _ _ _ _ => unloadNozzleLeg_carries) hlegs hp
  have hqueue : queue .unload (plan .unload s) = _ :=
    (congrArg _ (planUnload_of_nozzle hlegs)).trans (queue_placeOrders ..)
  exact ⟨_, headOrder_of_numbered hqueue hhead, rfl, rfl, hp.symm, hu.nozzle, rfl, rfl, rfl⟩

/-! ### The placement of a unit on a load nozzle (R64, R70) -/

section
variable {r : UnitRec} (hr : findUnit (nozzleUnit .load n s) s = some r)
include hr

theorem nozzleLeg_of_staged (h : r.state = .staged) : nozzleLeg n s = stagedLeg n r s := by
  simp only [nozzleLeg, hr, h, if_true]

/-- A STAGED unit that may still be tested goes to the socket chosen for it, or is examined. -/
theorem nozzleLeg_of_staged_open (h : r.state = .staged) (hp : s.ltc.state ≠ .purging) (hf : r.hasFinal = false)
    (hn : r.noSocket = false) :
    (∀ k, chooseSocket r.excluded s = some k → nozzleLeg n s = ((socketLeg n r.no none k s).map some id))
    ∧ (chooseSocket r.excluded s = none → nozzleLeg n s = (none, examineRetest r.no s)) := by
  have hopen : ¬(r.hasFinal = true ∨ s.ltc.state = .purging ∨ r.noSocket = true) := by simp [hp, hf, hn]
  rw [nozzleLeg_of_staged hr h, stagedLeg, if_neg hopen]
  exact ⟨fun k hk => by simp only [hk], fun hk => by simp only [hk]⟩

end

/-- The leg that a request for a soak position gives, with the state it leaves. -/
def soakAnswer (n : NozzleIx) (u : UnitNo) (purpose : Purpose) (s : State) : Option Leg × State :=
  match soakLeg n u none purpose s with
  | some (l, s) => (some l, s)
  | none => (none, s)

theorem soakAnswer_cases (n : NozzleIx) (u : UnitNo) (purpose : Purpose) (s : State) :
    (∀ p t, reserveSoak purpose u s = some (p, t) → soakAnswer n u purpose s =
      (some { nozzle := n, unit := .unit u, source := none, dest := some (.soak p), reservation := .soak p,
              purpose := some purpose }, setTarget u (some (.soak p)) t))
    ∧ (reserveSoak purpose u s = none → soakAnswer n u purpose s = (none, s)) :=
  ⟨fun _ _ h => by rw [soakAnswer, soakLeg_of_reserved h], fun h => by rw [soakAnswer, soakLeg_of_refused h]⟩

theorem nozzleLeg_of_back {r : UnitRec} (hr : findUnit (nozzleUnit .load n s) s = some r) (hs : r.state ≠ .staged)
    (hb : r.state = .returnWait ∨ (r.state = .onLoad ∧ r.target = none)) :
    nozzleLeg n s = soakAnswer n r.no (if r.state = .returnWait then .giveBack else returnPurpose r s) s := by
  simp only [nozzleLeg, hr, if_neg hs, if_pos hb] <;> rfl

/-- The purpose with which the unit of a load nozzle goes back to the plate, if the table of R64 sends it there. -/
def platePurpose (r : UnitRec) (s : State) (purpose : Purpose) : Prop :=
  (r.state = .staged ∧ (s.ltc.state = .purging ∨ r.hasFinal = true ∨ r.noSocket = true) ∧ purpose = .giveBack)
  ∨ (r.state = .returnWait ∧ purpose = .giveBack)
  ∨ (r.state = .onLoad ∧ r.target = none ∧ purpose = if r.soakStart = none ∧ 0 < s.ltc.params.soakTime
      ∧ (s.ltc.state = .running ∨ s.ltc.state = .draining) then .fresh else .giveBack)

theorem nozzleLeg_of_platePurpose {r : UnitRec} {purpose : Purpose} (hr : findUnit (nozzleUnit .load n s) s = some r)
    (h : platePurpose r s purpose) : nozzleLeg n s = soakAnswer n r.no purpose s := by
  rcases h with ⟨hst, hback, rfl⟩ | ⟨hst, rfl⟩ | ⟨hst, htarget, hpurpose⟩
  · have hplate : r.hasFinal = true ∨ s.ltc.state = .purging ∨ r.noSocket = true := or_left_comm.1 hback
    rw [nozzleLeg_of_staged hr hst, stagedLeg, if_pos hplate]; rfl
  · rw [nozzleLeg_of_back hr (by simp [hst]) (.inl hst), if_pos hst]
  · have hreturn : returnPurpose r s = purpose := by
      rw [hpurpose]; simp only [returnPurpose, lotTesting_iff]
    rw [nozzleLeg_of_back hr (by simp [hst]) (.inr ⟨hst, htarget⟩), if_neg (by simp [hst]), hreturn]

theorem nozzleLeg_of_other {r : UnitRec} (hr : findUnit (nozzleUnit .load n s) s = some r) (hs : r.state ≠ .staged)
    (hw : r.state ≠ .returnWait) (ho : r.state ≠ .onLoad ∨ r.target ≠ none) : nozzleLeg n s = (none, s) := by
  have hstay : ¬(r.state = .returnWait ∨ (r.state = .onLoad ∧ r.target = none)) := by
    rintro (h | ⟨h, ht⟩)
    · exact hw h
    · exact ho.elim (absurd h) (absurd ht)
  simp only [nozzleLeg, hr, if_neg hs, if_neg hstay]

theorem unloadNozzleLeg_of_leg {r : UnitRec} (hr : findUnit (nozzleUnit .unload n s) s = some r)
    (h : unloadLeg n r none s = some (l, t)) : unloadNozzleLeg n s = (some l, t) := by
  simp only [unloadNozzleLeg, hr, h]

theorem unloadNozzleLeg_of_refused {r : UnitRec} (hr : findUnit (nozzleUnit .unload n s) s = some r)
    (h : unloadLeg n r none s = none) : unloadNozzleLeg n s = (none, s) := by
  simp only [unloadNozzleLeg, hr, h]

/-! ### The destination of a route (R69) -/

section
variable {r : UnitRec} {source : Option Place}

theorem unloadLeg_of_pair {c : Category} {purged : Bool} {p : PairIx} (hr : r.route = some (.final c purged))
    (hp : s.srt.categories[c] = .pair p) : unloadLeg n r source s = pocketLeg n r.no source p s := by
  simp only [unloadLeg, hr, hp]

theorem unloadLeg_of_chute (h : r.route = some .realignReject
    ∨ ∃ c purged, r.route = some (.final c purged) ∧ s.srt.categories[c] = .chute) :
    unloadLeg n r source s = chuteLeg n r.no source s := by
  rcases h with h | ⟨c, purged, h, hc⟩
  · simp only [unloadLeg, h]
  · simp only [unloadLeg, h, hc]

theorem unloadLeg_of_plate {purpose : Purpose} (h : (r.route = some .retest ∧ r.state ≠ .evict ∧ purpose = .retest)
    ∨ ((r.route = some .retest ∨ r.route = none) ∧ r.state = .evict ∧ purpose = .giveBack)) :
    unloadLeg n r source s = soakLeg n r.no source purpose s := by
  rcases h with ⟨hr, hs, rfl⟩ | ⟨hr | hr, hs, rfl⟩
  · simp only [unloadLeg, hr, if_neg hs]
  · simp only [unloadLeg, hr, hs, if_true]
  · simp only [unloadLeg, hr]

theorem pocketLeg_of_no_entry {u : UnitNo} {p : PairIx} (h : reserveLog u s = none) :
    pocketLeg n u source p s = none := by simp only [pocketLeg, h]

theorem pocketLeg_of_entry {u : UnitNo} {p : PairIx} (h : reserveLog u s = some t) :
    pocketLeg n u source p s = (takePocket p t).map (fun (st, pocket, w) =>
      ({ nozzle := n, unit := .unit u, source := source, dest := some (.output st pocket),
         reservation := .pocket st pocket, purpose := none }, w)) := by simp only [pocketLeg, h]

end

end Sys2Proof.Machine
end

section
/-! PROOF. The first legs of the socket trip (R65), the input trip under soak (R66) and the pickup trip (R68), what the
legs after the first leave of them, and the order in which DONE sockets are taken (R68, R129). -/
namespace Sys2Proof.Machine

variable {s t : State} {g : Gantry} {n : NozzleIx} {l : Leg} {u v : UnitNo} {r : UnitRec} {k : SocketIx}

/-! ### A gantry with free nozzles and an empty queue -/

theorem freeNozzles_of_empty (hn : ∀ n : NozzleIx, nozzleUnit g n s = 0) (hq : queue g s = []) :
    freeNozzles g s = allNozzles := by
  refine List.filter_eq_self.2 fun n _ => ?_
  simp [hn n, hq]

theorem nozzleLeg_of_empty (hn : ∀ n : NozzleIx, s.upt.loadNozzles[n] = 0) (h0 : findUnit 0 s = none) (n : NozzleIx) :
    nozzleLeg n s = (none, s) := by
  have hunit : nozzleUnit .load n s = 0 := hn n
  simp only [nozzleLeg, hunit, h0]

theorem unloadNozzleLeg_of_empty (hn : ∀ n : NozzleIx, s.upt.unloadNozzles[n] = 0) (h0 : findUnit 0 s = none)
    (n : NozzleIx) : unloadNozzleLeg n s = (none, s) := by
  have hunit : nozzleUnit .unload n s = 0 := hn n
  simp only [unloadNozzleLeg, hunit, h0]

/-! ### The socket trip (R65) -/

/-- Units of the ready list for which no socket is eligible are passed over. -/
theorem socketLegs_skip {pre : List UnitNo} (us : List UnitNo) (n : NozzleIx) (ns : List NozzleIx) (room : Nat)
    (h : ∀ v ∈ pre, ∀ w, findUnit v s = some w → chooseSocket w.excluded s = none) :
    socketLegs (pre ++ us) (n :: ns) (room + 1) s = socketLegs us (n :: ns) (room + 1) s := by
  induction pre with
  | nil => rfl
  | cons v pre ih =>
    have hv : (findUnit v s).bind (fun r => (chooseSocket r.excluded s).map (fun k => (r, k))) = none := by
      refine Option.bind_eq_none_iff.2 fun w hw => ?_
      rw [h v List.mem_cons_self w hw]; rfl
    rw [List.cons_append, socketLegs, hv]
    exact ih fun w hw => h w (List.mem_cons_of_mem _ hw)

/-- The state in which the socket trip goes on after a leg for unit u into socket k. -/
def afterSocketLeg (u : UnitNo) (k : SocketIx) (s : State) : State :=
  s |> reserveSocket k |> setTarget u (some (.socket k)) |> unready u

theorem socketLegs_of_socket (us : List UnitNo) (n : NozzleIx) (ns : List NozzleIx) (room : Nat)
    (hr : findUnit u s = some r) (hk : chooseSocket r.excluded s = some k) :
    socketLegs (u :: us) (n :: ns) (room + 1) s =
      ((socketLeg n u (soakSource r) k s).1 :: (socketLegs us ns room (afterSocketLeg u k s)).1,
        (socketLegs us ns room (afterSocketLeg u k s)).2) := by
  simp only [socketLegs, hr, hk, Option.bind_some, Option.map_some]; rfl

/-- What the legs of a socket trip for some units keep: RESERVED sockets, the records of other units, and that a unit is
not in the ready list. -/
structure SocketLegsKeep (us : List UnitNo) (s t : State) : Prop where
  reserved : ∀ k : SocketIx, s.hsc.sockets[k].state = .reserved → t.hsc.sockets[k].state = .reserved
  records : ∀ v, v ∉ us → findUnit v t = findUnit v s
  unready : ∀ v, v ∉ s.xpl.readyList → v ∉ t.xpl.readyList

theorem SocketLegsKeep.refl (us : List UnitNo) (s : State) : SocketLegsKeep us s s :=
  ⟨fun _ h => h, fun _ _ => rfl, fun _ h => h⟩

theorem afterSocketLeg_reserved (u : UnitNo) (k : SocketIx) (s : State) :
    (afterSocketLeg u k s).hsc.sockets[k].state = .reserved :=
  congrArg SocketRec.state (modSocket_same s k fun r => { r with state := .reserved })

theorem afterSocketLeg_keeps_reserved (u : UnitNo) (k : SocketIx) {j : SocketIx}
    (h : s.hsc.sockets[j].state = .reserved) : (afterSocketLeg u k s).hsc.sockets[j].state = .reserved := by
  by_cases hj : j = k
  · subst hj; exact afterSocketLeg_reserved u j s
  · exact (congrArg SocketRec.state (modSocket_other s k j (fun r => { r with state := .reserved }) hj)).trans h

theorem findUnit_afterSocketLeg (k : SocketIx) (h : findUnit u s = some r) :
    findUnit u (afterSocketLeg u k s) = some { r with target := some (.socket k) } :=
  findUnit_modUnit_same (s := reserveSocket k s) (f := fun r => { r with target := some (.socket k) }) h

theorem findUnit_afterSocketLeg_other (k : SocketIx) (h : v ≠ u) :
    findUnit v (afterSocketLeg u k s) = findUnit v s :=
  findUnit_modUnit_other (s := reserveSocket k s) (f := fun r => { r with target := some (.socket k) }) h

theorem mem_readyList_afterSocketLeg (k : SocketIx) :
    v ∈ (afterSocketLeg u k s).xpl.readyList ↔ v ∈ s.xpl.readyList ∧ v ≠ u := by
  have hready : (afterSocketLeg u k s).xpl.readyList = s.xpl.readyList.filter (fun v => v ≠ u) := rfl
  simp [hready]

theorem SocketLegsKeep.after {us : List UnitNo} (h : SocketLegsKeep us (afterSocketLeg u k s) t) :
    SocketLegsKeep (u :: us) s t where
  reserved j hj := h.reserved j (afterSocketLeg_keeps_reserved u k hj)
  records v hv := by
    obtain ⟨hu, hus⟩ := List.ne_and_not_mem_of_not_mem_cons hv
    rw [h.records v hus, findUnit_afterSocketLeg_other k hu]
  unready v hv := h.unready v fun hm => hv ((mem_readyList_afterSocketLeg k).1 hm).1

theorem SocketLegsKeep.cons {us : List UnitNo} (h : SocketLegsKeep us s t) (u : UnitNo) :
    SocketLegsKeep (u :: us) s t where
  reserved := h.reserved
  records v hv := h.records v fun hm => hv (List.mem_cons_of_mem _ hm)
  unready := h.unready

theorem socketLegs_later (us : List UnitNo) : ∀ (ns : List NozzleIx) (room : Nat) (s : State),
    SocketLegsKeep us s (socketLegs us ns room s).2 := by
  induction us with
  | nil => intro ns room s; simp only [socketLegs]; exact .refl _ _
  | cons u us ih =>
    intro ns room s
    match ns, room with
    | [], _ => simp only [socketLegs]; exact .refl _ _
    | n :: ns, 0 => simp only [socketLegs]; exact .refl _ _
    | n :: ns, room + 1 =>
      unfold socketLegs
      split
      · exact (ih ns room _).after
      · exact (ih (n :: ns) (room + 1) s).cons u

/-- The socket trip planned for the first unit of the ready list that has a socket. -/
theorem plan_socket {pre us : List UnitNo} (hn : ∀ n : NozzleIx, s.upt.loadNozzles[n] = 0) (h0 : findUnit 0 s = none)
    (hq : queue .load s = []) (ht : lotTesting s = true) (hl : s.xpl.readyList = pre ++ u :: us)
    (hpre : ∀ v ∈ pre, ∀ w, findUnit v s = some w → chooseSocket w.excluded s = none) (hr : findUnit u s = some r)
    (hk : chooseSocket r.excluded s = some k) :
    ∃ ls w, plan .load s = placeLoadTrip .socket true ((socketLeg 0 u (soakSource r) k s).1 :: ls) w
      ∧ ls.length ≤ 2 ∧ SocketLegsKeep us (afterSocketLeg u k s) w := by
  have hlater := socketLegs_later us [1, 2, 3] 2 (afterSocketLeg u k s)
  have hlength := (socketLegs_keeps us [1, 2, 3] 2 _ (.refl (afterSocketLeg u k s))).1
  have hfirst := (congrArg₂ (socketLegs · · 3 s) hl (freeNozzles_of_empty (g := .load) hn hq)).trans
    ((socketLegs_skip (u :: us) 0 [1, 2, 3] 2 hpre).trans (socketLegs_of_socket us 0 [1, 2, 3] 2 hr hk))
  have hnozzles := nozzleLegs_of_none allNozzles fun m _ => nozzleLeg_of_empty hn h0 m
  exact ⟨_, _, planLoad_of_socket hnozzles ht hfirst, by simpa using hlength, hlater⟩

theorem socketTrip_first {pre us : List UnitNo} {q : SoakIx} (hn : ∀ n : NozzleIx, s.upt.loadNozzles[n] = 0)
    (h0 : findUnit 0 s = none) (hq : queue .load s = []) (ht : lotTesting s = true)
    (hl : s.xpl.readyList = pre ++ u :: us) (hus : u ∉ us)
    (hpre : ∀ v ∈ pre, ∀ w, findUnit v s = some w → chooseSocket w.excluded s = none) (hr : findUnit u s = some r)
    (hp : r.place = some (.soak q)) (hk : chooseSocket r.excluded s = some k) (hplan : t = plan .load s) :
    (∃ o, headOrder .load t = some o ∧ o.kind = .pick ∧ o.unit = .unit u ∧ o.place = some (.soak q) ∧ o.nozzle = 0
      ∧ o.status = .queued)
    ∧ (∃ o ∈ queue .load t, o.kind = .place ∧ o.unit = .unit u ∧ o.place = some (.socket k) ∧ o.nozzle = 0
      ∧ o.reservation = .socket k ∧ o.status = .queued)
    ∧ (∃ o ∈ queue .load t, o.kind = .inspect ∧ o.mask.getLsbD 0 = true)
    ∧ (queue .load t).length ≤ 7
    ∧ t.hsc.sockets[k].state = .reserved ∧ u ∉ t.xpl.readyList
    ∧ findUnit u t = some { r with target := some (.socket k) } := by
  obtain ⟨ls, w, hw, hlength, hlater⟩ := plan_socket hn h0 hq ht hl hpre hr hk
  rw [hw] at hplan
  have hsource : (socketLeg 0 u (soakSource r) k s).1.source = some (.soak q) :=
    congrArg (Option.map Spot.toPlace) hp
  have hqueue : queue .load t = _ := (congrArg _ hplan).trans (queue_placeLoadTrip ..)
  obtain ⟨i, hplace⟩ := mem_queue_of_numbered hqueue (placeAt_mem_tripOrders (p := .socket k) true ls rfl)
  obtain ⟨j, hinspect⟩ := mem_queue_of_numbered hqueue (inspect_mem_tripOrders _)
  refine ⟨⟨_, headOrder_of_numbered hqueue (head?_tripOrders_of_source true ls hsource), rfl, rfl, rfl, rfl, rfl⟩,
    ⟨_, hplace, rfl, rfl, rfl, rfl, rfl, rfl⟩, ⟨_, hinspect, rfl, pickMask_getLsbD ls hsource⟩, ?_, ?_, ?_, ?_⟩
  · have htrip := tripOrders_length true ((socketLeg 0 u (soakSource r) k s).1 :: ls)
    rw [hqueue, numbered_length]
    rw [List.length_cons, if_pos rfl] at htrip
    omega
  · rw [hplan]
    exact hlater.reserved k (afterSocketLeg_reserved u k s)
  · rw [hplan]
    exact hlater.unready u fun hm => ((mem_readyList_afterSocketLeg k).1 hm).2 rfl
  · rw [hplan]
    exact (hlater.records u hus).trans (findUnit_afterSocketLeg k hr)

/-! ### The input trip under soak (R66) -/

theorem planPocket_same (st : Side) (s : State) : SameTable s (planPocket st s) := by
  unfold planPocket finishStation
  dsimp only
  split
  · exact handOver_same _ (modIn_same _ _ (modIn_same _ _ (.refl s)))
  · exact modIn_same _ _ (.refl s)

theorem planInputPick_same {st : Side} {slot : InSlot} (h : planInputPick s = some (st, slot, t)) : SameTable s t := by
  unfold planInputPick at h
  dsimp only at h
  repeat' split at h
  all_goals cases h
  · exact planPocket_same _ s
  · exact modIn_same _ _ (.refl s)

/-- What the legs of an input trip keep: RESERVED soak positions, and the creations pending already. -/
structure InputLegsKeep (s t : State) : Prop where
  reserved : ∀ q : SoakIx, s.upt.soak[q].state = .reserved → t.upt.soak[q].state = .reserved
  pending : s.upt.pendingCreations ≤ t.upt.pendingCreations

theorem InputLegsKeep.refl (s : State) : InputLegsKeep s s := ⟨fun _ h => h, le_rfl⟩

theorem InputLegsKeep.trans {w : State} (a : InputLegsKeep s t) (b : InputLegsKeep t w) : InputLegsKeep s w :=
  ⟨fun q h => b.reserved q (a.reserved q h), a.pending.trans b.pending⟩

theorem InputLegsKeep.of_upt (h : t.upt = s.upt) : InputLegsKeep s t := ⟨fun _ hq => h ▸ hq, h ▸ le_rfl⟩

theorem reserveSoak_input {purpose : Purpose} {p : SoakIx} (h : reserveSoak purpose u s = some (p, t)) :
    InputLegsKeep s t := by
  obtain ⟨-, rfl, -⟩ := reserveSoak_eq_some h
  refine ⟨fun q hq => ?_, le_rfl⟩
  by_cases hp : q = p
  · subst hp; rw [modSoak_same]
  · rw [modSoak_other _ _ _ _ hp]; exact hq

theorem inputDestination_later {x : Place × Reservation × Option Purpose × State} (h : inputDestination s = some x) :
    InputLegsKeep s x.2.2.2 := by
  unfold inputDestination at h
  split at h
  · obtain ⟨⟨p, w⟩, hp, rfl⟩ := Option.map_eq_some_iff.1 h
    exact reserveSoak_input hp
  · obtain ⟨k, -, rfl⟩ := Option.map_eq_some_iff.1 h
    exact .of_upt rfl

/-- A soak position RESERVED for a unit number. -/
def SoakPos.reserve (u : UnitNo) (p : SoakPos) : SoakPos := { p with state := .reserved, reservedFor := u }

/-- A creation pending more. -/
def addCreation (s : State) : State := modUpt (fun t => { t with pendingCreations := t.pendingCreations + 1 }) s

theorem addCreation_later (s : State) : InputLegsKeep s (addCreation s) := ⟨fun _ h => h, Nat.le_succ _⟩

theorem inputLegs_later (ns : List NozzleIx) :
    ∀ (limit : Nat) (s : State), InputLegsKeep s (inputLegs ns limit s).2 := by
  induction ns with
  | nil => intro limit s; simp only [inputLegs]; exact .refl s
  | cons n ns ih =>
    intro limit s
    match limit with
    | 0 => simp only [inputLegs]; exact .refl s
    | limit + 1 =>
      unfold inputLegs
      split
      · exact .refl s
      · split
        · exact .refl s
        · rename_i hd
          split
          · exact .refl s
          · rename_i hp
            exact ((inputDestination_later hd).trans (addCreation_later _)).trans
              ((InputLegsKeep.of_upt (planInputPick_same hp).upt).trans (ih limit _))

/-- The leg of an input trip that picks a slot of a station onto a soak position. -/
def inputSoakLeg (n : NozzleIx) (st : Side) (slot : InSlot) (q : SoakIx) : Leg :=
  { nozzle := n, unit := .created, source := some (.input st slot), dest := some (.soak q), reservation := .soak q,
    purpose := some .fresh }

theorem inputLegs_of_soak {st : Side} {slot : InSlot} {q : SoakIx} {w : State} (n : NozzleIx) (ns : List NozzleIx)
    (limit : Nat) (hroom : 0 < tableRoom s) (hsoak : 0 < s.ltc.params.soakTime)
    (hq : reserveSoak .fresh 0 s = some (q, w)) (hp : planInputPick (addCreation w) = some (st, slot, t)) :
    inputLegs (n :: ns) (limit + 1) s =
      (inputSoakLeg n st slot q :: (inputLegs ns limit t).1, (inputLegs ns limit t).2) := by
  have hdest : inputDestination s = some (.soak q, .soak q, some .fresh, w) := by
    rw [inputDestination, if_pos hsoak, hq]; rfl
  rw [addCreation] at hp
  simp only [inputLegs, hdest, hp, if_neg hroom.ne']; rfl

theorem feedActive_of_current {st : Side} (hc : s.fsc.current = some st) (ha : (inStation st s).state = .active) :
    feedActive s = true := by simp [feedActive, hc, ha]

theorem inputTrip_of_soak {ls : List Leg} (hl : s.ltc.state = .running) (hf : feedActive s = true)
    (hsoak : 0 < s.ltc.params.soakTime) (h : inputLegs (freeNozzles .load s) 4 s = (l :: ls, t)) :
    inputTrip s = some (placeLoadTrip .input false (l :: ls) t) := by
  simp [inputTrip, hl, hf, hsoak.ne', h]

theorem socketLegs_nil (ns : List NozzleIx) (room : Nat) (s : State) : socketLegs [] ns room s = ([], s) := by
  unfold socketLegs; rfl

/-- The input trip planned under soak, with the next pocket of the ACTIVE station first. -/
theorem plan_input {st : Side} {p : Pocket} {q : SoakIx} {w : State} (hn : ∀ n : NozzleIx, s.upt.loadNozzles[n] = 0)
    (h0 : findUnit 0 s = none) (hq : queue .load s = []) (hl : s.ltc.state = .running) (hready : s.xpl.readyList = [])
    (hc : s.fsc.current = some st) (ha : (inStation st s).state = .active) (hm : (inStation st s).mode = some .counted)
    (hnext : (inStation st s).next = p.val) (hroom : 0 < tableRoom s) (hsoak : 0 < s.ltc.params.soakTime)
    (hres : reserveSoak .fresh 0 s = some (q, w)) :
    ∃ ls x, plan .load s = placeLoadTrip .input false (inputSoakLeg 0 st (.pocket p) q :: ls) x
      ∧ InputLegsKeep (addCreation w) x := by
  obtain ⟨-, rfl, -⟩ := reserveSoak_eq_some hres
  have hpick := planInputPick_of_counted (s := addCreation (modSoak q (SoakPos.reserve 0) s))
    hc ha hm hnext
  have hlegs := (congrArg (inputLegs · 4 s) (freeNozzles_of_empty (g := .load) hn hq)).trans
    (inputLegs_of_soak 0 [1, 2, 3] 3 hroom hsoak hres hpick)
  have hnozzles := nozzleLegs_of_none allNozzles fun m _ => nozzleLeg_of_empty hn h0 m
  have hsockets :
      (if lotTesting s then socketLegs s.xpl.readyList (freeNozzles .load s) 3 s else ([], s)) = ([], s) := by
    rw [hready, socketLegs_nil, ite_self]
  exact ⟨_, _, planLoad_of_input hnozzles hsockets (inputTrip_of_soak hl (feedActive_of_current hc ha) hsoak hlegs),
    (InputLegsKeep.of_upt (planInputPick_same hpick).upt).trans (inputLegs_later _ _ _)⟩

theorem inputTrip_first {st : Side} {p : Pocket} {q : SoakIx} {w : State}
    (hn : ∀ n : NozzleIx, s.upt.loadNozzles[n] = 0) (h0 : findUnit 0 s = none)
    (hq : queue .load s = []) (hl : s.ltc.state = .running) (hready : s.xpl.readyList = [])
    (hc : s.fsc.current = some st) (ha : (inStation st s).state = .active) (hm : (inStation st s).mode = some .counted)
    (hnext : (inStation st s).next = p.val) (hroom : 0 < tableRoom s) (hsoak : 0 < s.ltc.params.soakTime)
    (hres : reserveSoak .fresh 0 s = some (q, w)) (hplan : t = plan .load s) :
    (∃ o, headOrder .load t = some o ∧ o.kind = .pick ∧ o.unit = .none ∧ o.place = some (.input st (.pocket p))
      ∧ o.nozzle = 0 ∧ o.status = .queued)
    ∧ (∃ o ∈ queue .load t, o.kind = .place ∧ o.unit = .created ∧ o.place = some (.soak q) ∧ o.nozzle = 0
      ∧ o.reservation = .soak q ∧ o.purpose = some .fresh)
    ∧ t.upt.soak[q].state = .reserved ∧ s.upt.pendingCreations < t.upt.pendingCreations := by
  obtain ⟨ls, x, hx, hlater⟩ := plan_input hn h0 hq hl hready hc ha hm hnext hroom hsoak hres
  obtain ⟨-, rfl, -⟩ := reserveSoak_eq_some hres
  rw [hx] at hplan
  have hqueue : queue .load t = _ := (congrArg _ hplan).trans (queue_placeLoadTrip ..)
  obtain ⟨i, hplace⟩ := mem_queue_of_numbered hqueue (placeAt_mem_tripOrders (p := .soak q) false ls rfl)
  refine ⟨⟨_, headOrder_of_numbered hqueue (head?_tripOrders_of_source (p := .input st (.pocket p)) false ls rfl), rfl,
    rfl, rfl, rfl, rfl⟩, ⟨_, hplace, rfl, rfl, rfl, rfl, rfl, rfl⟩, ?_, ?_⟩
  · rw [hplan]
    exact hlater.reserved q (congrArg SoakPos.state (modSoak_same s q (SoakPos.reserve 0)))
  · rw [hplan]
    exact Nat.lt_of_succ_le hlater.pending

/-! ### The pickup trip (R68) -/

/-- Candidates whose destination does not accept them are passed over. -/
theorem pickupLegs_skip {pre : List UnitNo} (us : List UnitNo) (ns : List NozzleIx)
    (h : ∀ v ∈ pre, ∀ w, findUnit v s = some w → unloadLeg n w (w.place.map Spot.toPlace) s = none) :
    pickupLegs (pre ++ us) (n :: ns) s = pickupLegs us (n :: ns) s := by
  induction pre with
  | nil => rfl
  | cons v pre ih =>
    have hv : (findUnit v s).bind (fun r => unloadLeg n r (r.place.map Spot.toPlace) s) = none :=
      Option.bind_eq_none_iff.2 fun w hw => h v List.mem_cons_self w hw
    rw [List.cons_append, pickupLegs, hv]
    exact ih fun w hw => h w (List.mem_cons_of_mem _ hw)

theorem pickupLegs_of_leg (us : List UnitNo) (ns : List NozzleIx) (hr : findUnit u s = some r)
    (h : unloadLeg n r (r.place.map Spot.toPlace) s = some (l, t)) :
    pickupLegs (u :: us) (n :: ns) s = (l :: (pickupLegs us ns t).1, (pickupLegs us ns t).2) := by
  simp only [pickupLegs, hr, Option.bind_some, h]; rfl

theorem pickupTrip_first {pre us : List UnitNo} {sp : Spot} {w : State}
    (hn : ∀ n : NozzleIx, s.upt.unloadNozzles[n] = 0) (h0 : findUnit 0 s = none) (hq : queue .unload s = [])
    (hl : doneUnits s ++ plateUnits s = pre ++ u :: us)
    (hpre : ∀ v ∈ pre, ∀ w, findUnit v s = some w → unloadLeg 0 w (w.place.map Spot.toPlace) s = none)
    (hr : findUnit u s = some r) (hp : r.place = some sp) (hleg : unloadLeg 0 r (some sp.toPlace) s = some (l, w))
    (hplan : t = plan .unload s) :
    (∃ o, headOrder .unload t = some o ∧ o.kind = .pick ∧ o.unit = .unit u ∧ o.place = some sp.toPlace ∧ o.nozzle = 0
      ∧ o.status = .queued)
    ∧ ∃ o ∈ queue .unload t, o.kind = .place ∧ o.unit = .unit u ∧ o.place = l.dest ∧ o.nozzle = 0
      ∧ o.reservation = l.reservation ∧ o.purpose = l.purpose ∧ o.status = .queued := by
  obtain ⟨hnozzle, hunit, hsource, d, hd⟩ := unloadLeg_carries hleg
  rw [findUnit_no hr] at hunit
  have hplace : r.place.map Spot.toPlace = some sp.toPlace := congrArg (Option.map Spot.toPlace) hp
  have hlegs := (congrArg₂ (pickupLegs · · s) hl (freeNozzles_of_empty (g := .unload) hn hq)).trans
    ((pickupLegs_skip (u :: us) [1, 2, 3] hpre).trans (pickupLegs_of_leg us [1, 2, 3] hr (hplace ▸ hleg)))
  have hnozzles := nozzleLegs_of_none allNozzles fun m _ => unloadNozzleLeg_of_empty hn h0 m
  have hqueue : queue .unload t = _ :=
    (congrArg _ (hplan.trans (planUnload_of_pickup hnozzles hlegs))).trans (queue_placeOrders ..)
  obtain ⟨i, hmem⟩ := mem_queue_of_numbered hqueue (placeAt_mem_tripOrders false _ hd)
  refine ⟨⟨_, headOrder_of_numbered hqueue (head?_tripOrders_of_source false _ hsource), rfl, ?_, rfl, hnozzle, rfl⟩,
    ⟨_, hmem, rfl, hunit, hd.symm, hnozzle, rfl, rfl, rfl⟩⟩
  simp only [Leg.pickFrom, hunit]

/-! ### The order of pickup (R68, R129) -/

/-- The order in which heads are taken: the capture that lies further back first, the lower head on a tie. -/
def takenBefore (s : State) (a b : HeadIx) : Prop :=
  captureAge b s < captureAge a s ∨ (captureAge b s = captureAge a s ∧ a < b)

theorem takenBefore_age {a b : HeadIx} (h : takenBefore s a b) : captureAge b s ≤ captureAge a s :=
  h.elim le_of_lt fun e => e.1.le

theorem insertHead_perm (s : State) (h : HeadIx) (hs : List HeadIx) : (insertHead s h hs).Perm (h :: hs) := by
  induction hs with
  | nil => exact .refl _
  | cons b bs ih =>
    unfold insertHead
    split
    · exact .refl _
    · exact (ih.cons b).trans (.swap h b bs)

/-- A head greater than all of an ordered list takes its place in the order. -/
theorem insertHead_ordered {h : HeadIx} {hs : List HeadIx} (ho : hs.Pairwise (takenBefore s)) (hlt : ∀ b ∈ hs, b < h) :
    (insertHead s h hs).Pairwise (takenBefore s) := by
  induction hs with
  | nil => exact List.pairwise_singleton _ _
  | cons b bs ih =>
    obtain ⟨hb, hbs⟩ := List.pairwise_cons.1 ho
    unfold insertHead
    split <;> rename_i hage
    · refine List.pairwise_cons.2 ⟨List.forall_mem_cons.2 ⟨.inl hage, fun c hc => .inl ?_⟩, ho⟩
      exact (takenBefore_age (hb c hc)).trans_lt hage
    · refine List.pairwise_cons.2 ⟨fun c hc => ?_, ih hbs fun c hc => hlt c (List.mem_cons_of_mem _ hc)⟩
      rcases List.mem_cons.1 ((insertHead_perm s h bs).mem_iff.1 hc) with rfl | hc
      · exact (not_lt.1 hage).lt_or_eq.imp_right fun e => ⟨e, hlt b List.mem_cons_self⟩
      · exact hb c hc

theorem foldl_insertHead {hs acc : List HeadIx} (hasc : hs.Pairwise (· < ·)) (hlt : ∀ a ∈ acc, ∀ h ∈ hs, a < h)
    (ho : acc.Pairwise (takenBefore s)) :
    (hs.foldl (fun l h => insertHead s h l) acc).Perm (acc ++ hs)
    ∧ (hs.foldl (fun l h => insertHead s h l) acc).Pairwise (takenBefore s) := by
  induction hs generalizing acc with
  | nil => exact ⟨by simp, ho⟩
  | cons h hs ih =>
    obtain ⟨hh, hasc⟩ := List.pairwise_cons.1 hasc
    have hins := insertHead_perm s h acc
    have hbelow : ∀ a ∈ insertHead s h acc, ∀ j ∈ hs, a < j := fun a ha j hj => by
      rcases List.mem_cons.1 (hins.mem_iff.1 ha) with rfl | ha
      · exact hh j hj
      · exact hlt a ha j (List.mem_cons_of_mem _ hj)
    obtain ⟨hperm, hord⟩ := ih hasc hbelow (insertHead_ordered ho fun b hb => hlt b hb h List.mem_cons_self)
    exact ⟨hperm.trans ((hins.append_right hs).trans List.perm_middle.symm), hord⟩

theorem headsByCapture_ordered (s : State) :
    (headsByCapture s).Perm [0, 1, 2, 3] ∧ (headsByCapture s).Pairwise (takenBefore s) :=
  foldl_insertHead (hs := allHeads) (acc := []) (by decide) (fun _ h => absurd h List.not_mem_nil) .nil

theorem plateUnits_eq (s : State) : plateUnits s = (List.finRange 64).filterMap (fun p =>
    (findUnit s.upt.soak[p].unit s).bind (fun r =>
      if r.hasFinal = true ∧ pickPlanned r.no s = false then some r.no else none)) := by
  refine List.filterMap_congr fun p _ => ?_
  cases findUnit s.upt.soak[p].unit s <;> rfl

/-! ### The statement -/

/-- Settles O49: the law of each trip's first leg, of the socket chosen and of the evaluations, clause by clause. -/
theorem plansAreMadeInRunWithTheseFirstLegs : Obligations.PlansAreMadeInRunWithTheseFirstLegs := by
  unfold Obligations.PlansAreMadeInRunWithTheseFirstLegs
  refine ⟨fun s => settle_of_not_run, fun g s atRest hrest => ?evaluated, evaluateBoth_cases, settle_cases,
    fun ex s ok hok => ?socket, fun s t ht hn h0 hq => ?trips, fun g s => ⟨?parkAlone, planPark_of_not_open⟩,
    fun s s1 s2 => planLoad_of_none, fun s s1 s2 => planUnload_of_none,
    fun n l s s' => ⟨headOrder_load_nozzle, headOrder_unload_nozzle⟩, fun n r s hr => ⟨?staged, ?plate, ?stays⟩,
    fun n r s hr => ⟨fun l t => unloadNozzleLeg_of_leg hr, unloadNozzleLeg_of_refused hr⟩,
    fun n r source s leg hleg => ⟨?pair, ?chute, ?soak⟩, ?pickup, fun s age hage => ?captures⟩
  case evaluated =>
    have hdue : due g s = true ↔ atRest ∧ (gsq g s).state ≠ .fault ∧ s.rcu.run = .run
        ∧ (s.ltc.state = .running ∨ s.ltc.state = .draining ∨ s.ltc.state = .purging) := by
      rw [due_iff, queueOpen_iff, ← hrest, lotActive_iff]
    exact ⟨fun hq hf hr hl => evaluate_of_due (hdue.2 ⟨hq, hf, hr, hl⟩),
      fun h => evaluate_of_not_due fun hd => h (hdue.1 hd)⟩
  case socket =>
    obtain rfl : ok = fun k => eligible ex s k = true := funext fun k => propext ((hok k).trans eligible_iff.symm)
    exact ⟨fun k => chooseSocket_best, chooseSocket_eq_none_iff⟩
  case trips =>
    refine ⟨fun pre us u r q k hl hready _ hus hpre hr hp hk => ?_,
      fun st p q s' hl hready hc ha hm hnext hroom hsoak hres => ?_⟩
    · exact socketTrip_first hn h0 hq (lotTesting_iff.2 hl) hready hus hpre hr hp hk ht
    · exact inputTrip_first hn h0 hq hl hready hc ha hm hnext hroom hsoak hres ht
  case parkAlone =>
    intro hp hq
    exact ⟨_, (congrArg _ (planPark_of_open hp hq)).trans (queue_placeOrders ..), rfl, rfl, rfl⟩
  case staged =>
    intro hst hp hf hns
    exact nozzleLeg_of_staged_open hr hst hp hf hns
  case plate =>
    intro purpose h
    rw [nozzleLeg_of_platePurpose hr h]
    exact soakAnswer_cases n r.no purpose s
  case stays => exact nozzleLeg_of_other hr
  case pair =>
    intro c purged p hroute hpair
    rw [unloadLeg_of_pair hroute hpair]
    refine ⟨pocketLeg_of_no_entry, fun s' hs' hno => ?_, fun s' st i t hs' htake => ?_⟩
    · rw [pocketLeg_of_entry hs', hno]; rfl
    · rw [pocketLeg_of_entry hs', htake, hleg]; rfl
  case chute =>
    intro hroute
    rw [unloadLeg_of_chute hroute, chuteLeg]
    exact ⟨fun h => by rw [h]; rfl, fun t h => by rw [h, hleg]; rfl⟩
  case soak =>
    intro purpose h
    rw [unloadLeg_of_plate h]
    exact ⟨soakLeg_of_refused, fun p t hp => by rw [soakLeg_of_reserved hp, hleg]⟩
  case pickup =>
    intro s t s' pre us u r sp l ht hn h0 hq hl hpre hr hp hleg
    exact pickupTrip_first hn h0 hq hl hpre hr hp hleg ht
  case captures =>
    obtain rfl : age = fun h => captureAge h s := funext hage
    obtain ⟨hperm, hordered⟩ := headsByCapture_ordered s
    exact ⟨hperm, hordered, rfl, plateUnits_eq s⟩

end Sys2Proof.Machine
end

section
/-! PROOF. Teach requests: the check of R77 that fails first, the steps of R77, and the six requests when they are taken
at once (R77 to R82). -/
namespace Sys2Proof.Machine

variable {s : State} {kind tag : Byte} {ranges prerequisites : Bool} {reach : List (Half × Bool)} {code : Half}
  {store : State → State}

/-! ### The check that fails first (R77) -/

/-- One more check that fails, against the lowest place code of those before it. -/
def lowerFailing (m : Option Half) (c : Half × Bool) : Option Half :=
  match m with
  | none => some c.1
  | some k => some (if c.1 < k then c.1 else k)

theorem firstFailing_eq (checks : List (Half × Bool)) :
    firstFailing checks = (checks.filter (fun c => !c.2)).foldl lowerFailing none := rfl

theorem foldl_lowerFailing : ∀ (l : List (Half × Bool)) (m : Half), ∃ k, l.foldl lowerFailing (some m) = some k
    ∧ k ∈ m :: l.map Prod.fst ∧ ∀ c ∈ m :: l.map Prod.fst, k ≤ c
  | [], m => ⟨m, rfl, by simp, by simp⟩
  | c :: l, m => by
    obtain ⟨k, hfold, hmem, hle⟩ := foldl_lowerFailing l (if c.1 < m then c.1 else m)
    refine ⟨k, hfold, ?_, ?_⟩
    · split at hmem <;> simp only [List.mem_cons, List.map_cons] at hmem ⊢ <;> tauto
    · have hlow := hle _ List.mem_cons_self
      intro d hd
      simp only [List.map_cons, List.mem_cons] at hd
      rcases hd with rfl | rfl | hd
      · split at hlow <;> bv_omega
      · split at hlow <;> bv_omega
      · exact hle d (List.mem_cons_of_mem _ hd)

/-- Where a check fails, the first that fails has the lowest place code of those that fail. -/
theorem firstFailing_of_failing {checks : List (Half × Bool)} (h : ∃ c ∈ checks, c.2 = false) :
    ∃ k, firstFailing checks = some k ∧ (∃ c ∈ checks, c.1 = k ∧ c.2 = false)
      ∧ ∀ c ∈ checks, c.2 = false → k ≤ c.1 := by
  have hfailing : ∀ c, c ∈ checks.filter (fun c => !c.2) ↔ c ∈ checks ∧ c.2 = false := by simp
  rw [firstFailing_eq]
  revert hfailing
  cases checks.filter (fun c => !c.2) with
  | nil =>
    intro hfailing
    obtain ⟨c, hc⟩ := h
    exact absurd ((hfailing c).2 hc) List.not_mem_nil
  | cons a l =>
    intro hfailing
    obtain ⟨k, hfold, hmem, hle⟩ := foldl_lowerFailing l a.1
    rw [← List.map_cons (f := Prod.fst)] at hmem hle
    obtain ⟨c, hc, rfl⟩ := List.mem_map.1 hmem
    obtain ⟨hin, hfalse⟩ := (hfailing c).1 hc
    exact ⟨c.1, hfold, ⟨c, hin, rfl, hfalse⟩,
      fun d hd hdfalse => hle _ (List.mem_map_of_mem ((hfailing d).2 ⟨hd, hdfalse⟩))⟩

theorem firstFailing_eq_none_iff {checks : List (Half × Bool)} :
    firstFailing checks = none ↔ ∀ c ∈ checks, c.2 = true := by
  constructor
  · intro h c hc
    by_contra hfalse
    obtain ⟨k, hk, -⟩ := firstFailing_of_failing ⟨c, hc, Bool.eq_false_of_not_eq_true hfalse⟩
    cases h.symm.trans hk
  · intro h
    have hnone : checks.filter (fun c => !c.2) = [] := by simpa using h
    rw [firstFailing_eq, hnone]
    rfl

theorem firstFailing_eq_some {checks : List (Half × Bool)} (hfails : ∃ c ∈ checks, c.1 = code ∧ c.2 = false)
    (hlowest : ∀ c ∈ checks, c.2 = false → code ≤ c.1) : firstFailing checks = some code := by
  obtain ⟨c, hc, rfl, hfalse⟩ := hfails
  obtain ⟨k, hk, ⟨d, hd, rfl, hdfalse⟩, hle⟩ := firstFailing_of_failing ⟨c, hc, hfalse⟩
  rw [hk, BitVec.le_antisymm (hle c hc hfalse) (hlowest d hd hdfalse)]

/-! ### The steps of R77 -/

theorem teach_of_not_idle (h : s.ltc.state ≠ .idle) : teach ranges prerequisites reach store s = (s, [4]) := if_pos h

theorem teach_of_idle (h : s.ltc.state = .idle) : teach ranges prerequisites reach store s =
    if ranges = false then (s, [3])
    else if prerequisites = false then (s, [5])
    else ((firstFailing reach).elim (store s, [0]) fun code => (s, 3 :: be16 code)) := by
  unfold teach
  rw [if_neg (not_not.2 h)]
  cases ranges <;> cases prerequisites <;> cases firstFailing reach <;> rfl

theorem teach_of_out_of_range (h : s.ltc.state = .idle) : teach false prerequisites reach store s = (s, [3]) :=
  teach_of_idle h

theorem teach_of_failing (h : s.ltc.state = .idle) (hreach : firstFailing reach = some code) :
    teach true true reach store s = (s, 3 :: be16 code) := by simp [teach_of_idle h, hreach]

theorem teach_of_reached (h : s.ltc.state = .idle) (hreach : firstFailing reach = none) :
    teach true true reach store s = (store s, [0]) := by simp [teach_of_idle h, hreach]

/-- A teach request stores its item only where its values lie in range, its prerequisites are there and every check of
reach passes. -/
theorem teach_stores {motive : State → Prop} (hs : motive s)
    (hstore : ranges = true → prerequisites = true → (∀ c ∈ reach, c.2 = true) → motive (store s)) :
    motive (teach ranges prerequisites reach store s).1 := by
  by_cases h : s.ltc.state = .idle
  · rw [teach_of_idle h]
    cases ranges with
    | false => exact hs
    | true =>
      cases prerequisites with
      | false => exact hs
      | true =>
        cases hfirst : firstFailing reach with
        | some code => exact hs
        | none => exact hstore rfl rfl (firstFailing_eq_none_iff.1 hfirst)
  · rw [teach_of_not_idle h]; exact hs

/-- The reply to a teach request whose checks of reach name one place code, step by step. -/
theorem replied_teach {A B C : Prop} [Decidable A] [Decidable B] [Decidable C] (h : s.ltc.state = .idle)
    (hcode : ∀ c ∈ reach, c.1 = code) (hranges : ranges = false ↔ A) (hprerequisites : prerequisites = false ↔ B)
    (hreach : (∃ c ∈ reach, c.2 = false) ↔ C) :
    replied kind tag (teach ranges prerequisites reach store s).2 (teach ranges prerequisites reach store s).1 =
      if A then replied kind tag [3] s
      else if B then replied kind tag [5] s
      else if C then replied kind tag (3 :: be16 code) s
      else replied kind tag [0] (store s) := by
  rw [teach_of_idle h]
  simp only [hranges, hprerequisites]
  split
  · rfl
  · split
    · rfl
    · split <;> rename_i hC
      · obtain ⟨k, hk, ⟨c, hc, rfl, -⟩, -⟩ := firstFailing_of_failing (hreach.2 hC)
        rw [hk, hcode c hc]
        rfl
      · have hall : ∀ c ∈ reach, c.2 = true := fun c hc =>
          Bool.eq_true_of_not_eq_false fun hfalse => hC (hreach.1 ⟨c, hc, hfalse⟩)
        rw [firstFailing_eq_none_iff.2 hall]
        rfl

/-! ### Ranges and prerequisites (Table 5-1) -/

theorem posOk_eq_false_iff {w : Word} : posOk w = false ↔ 1200000 < w.toNat := by simp [posOk]

theorem posOk_iff {w : Word} : posOk w = true ↔ w.toNat ≤ 1200000 := by simp [posOk]

theorem trimOk_iff {w : Half} : trimOk w = true ↔ w.toInt.natAbs ≤ 2000 := by
  simp only [trimOk, Bool.decide_and, Bool.and_eq_true, decide_eq_true_eq]
  omega

theorem gridOk_iff {g : GridArg} : gridOk g = true ↔ GridArgInRange g := by
  simp [gridOk, posOk_iff, and_assoc]

theorem gridOk_eq_false_iff {g : GridArg} : gridOk g = false ↔ ¬GridArgInRange g := by
  rw [← gridOk_iff, Bool.not_eq_true]

theorem frameTaught_eq_false_iff {g : Gantry} :
    frameTaught g s = false ↔ s.pcu.axis g .x = none ∨ s.pcu.axis g .y = none := by
  rw [frameTaught, Bool.and_eq_false_iff]
  simp

/-- Every nozzle's trims lie in range (Table 5-1). -/
theorem trims_ok_iff {trims : Vector TrimArg 4} : (trims.toList.all fun t => trimOk t.x && trimOk t.y) = true ↔
    ∀ n : NozzleIx, trims[n].x.toInt.natAbs ≤ 2000 ∧ trims[n].y.toInt.natAbs ≤ 2000 := by
  simp only [List.all_eq_true, Bool.and_eq_true, trimOk_iff, Vector.mem_toList_iff,
    Vector.forall_mem_iff_forall_getElem]
  exact ⟨fun h n => h n.val n.isLt, fun h i hi => h ⟨i, hi⟩⟩

end Sys2Proof.Machine
end

section
/-! PROOF. O21 to O24: each teach request, taken at once, goes through the steps of R77 with its own ranges,
prerequisites and checks of reach. -/
namespace Sys2Proof.Machine

variable {s : State} {tag : Byte}

/-! ### Outside lot IDLE (R77, step 1) -/

/-- The six teach requests alone have a kind below 7, and each of them goes through the steps of R77. -/
theorem serve_teach_eq (q : Request) (hq : q.kind.toNat < 7) (s : State) :
    ∃ ranges prerequisites reach store, serve q s = teach ranges prerequisites reach store s := by
  cases q with
  | setupAxis axis =>
    simp only [serve, serveSetupAxis]
    split <;> exact ⟨_, _, _, _, rfl⟩
  | setupCamera => exact ⟨_, _, _, _, rfl⟩
  | setupSocket socket lx ly ux uy tx ty w policy =>
    simp only [serve, serveSetupSocket]
    split <;> exact ⟨_, _, _, _, rfl⟩
  | setupSoak => exact ⟨_, _, _, _, rfl⟩
  | setupStation station part =>
    cases part with
    | tray =>
      simp only [serve, serveSetupStation, serveSetupTray]
      split <;> exact ⟨_, _, _, _, rfl⟩
    | other =>
      simp only [serve, serveSetupStation, serveSetupNest]
      split <;> exact ⟨_, _, _, _, rfl⟩
  | setupChute => exact ⟨_, _, _, _, rfl⟩
  | _ => exact absurd hq (by simp [Request.kind])

/-- Settles O21: each of the six requests is a `teach`, whose first step asks for lot IDLE. -/
theorem teachRequestsNeedLotIdle : Obligations.TeachRequestsNeedLotIdle := by
  intro q tag s htakes hwf hkind hlot
  obtain ⟨_, _, _, _, hteach⟩ := serve_teach_eq q hkind s
  have hexec : exec (rowOf tag q) s = .next (live (submit tag q) s) := by cases q <;> rfl
  rw [hexec, live_submit_of_takesNow htakes hwf, hteach, teach_of_not_idle hlot]

/-! ### SETUP_AXIS (R78) -/

theorem exec_setupAxis_of_takesNow (h : takesNow s) (tag axis : Byte) (k : Half) (lmax park : Word) :
    exec (.setupAxis tag axis k lmax park) s
      = .next (replied 0x01 tag (serveSetupAxis axis k lmax park s).2 (serveSetupAxis axis k lmax park s).1) :=
  congrArg Host.Outcome.next (live_submit_of_takesNow h rfl)

theorem axisOf_of_ge {axis : Byte} (h : 4 ≤ axis.toNat) : axisOf axis = none := by
  unfold axisOf
  split
  case h_5 => rfl
  all_goals omega

/-- The values of a SETUP_AXIS lie in their ranges (Table 5-1). -/
theorem axisRanges_iff {k : Half} {lmax park : Word} :
    (1 ≤ k.toNat && k.toNat ≤ 20000 && 1 ≤ lmax.toNat && lmax.toNat ≤ 16777215 && posOk park) = true ↔
      1 ≤ k.toNat ∧ k.toNat ≤ 20000 ∧ 1 ≤ lmax.toNat ∧ lmax.toNat ≤ 16777215 ∧ park.toNat ≤ 1200000 := by
  simp [posOk_iff, and_assoc]

theorem serveSetupAxis_of_out_of_range {axis : Byte} {k : Half} {lmax park : Word} (hlot : s.ltc.state = .idle)
    (h : 4 ≤ axis.toNat ∨ k.toNat < 1 ∨ 20000 < k.toNat ∨ lmax.toNat < 1 ∨ 16777215 < lmax.toNat
      ∨ 1200000 < park.toNat) : serveSetupAxis axis k lmax park s = (s, [3]) := by
  unfold serveSetupAxis
  cases haxis : axisOf axis with
  | none => exact teach_of_out_of_range hlot
  | some ga =>
    have hknown : ¬4 ≤ axis.toNat := fun hge => by cases (axisOf_of_ge hge).symm.trans haxis
    have hranges : (1 ≤ k.toNat && k.toNat ≤ 20000 && 1 ≤ lmax.toNat && lmax.toNat ≤ 16777215 && posOk park)
        = false := by
      rw [← Bool.not_eq_true, axisRanges_iff]; omega
    dsimp only
    rw [hranges]
    exact teach_of_out_of_range hlot

/-- The checks of a SETUP_AXIS: the park position, and every position taught on the axis (R78). -/
def axisChecks (g : Gantry) (a : Axis) (t : AxisTeach) (s : State) : List (Half × Bool) :=
  (noPlace, t.inReach t.park) :: (taughtOn g s).map (fun c => (c.1, t.inReach (c.2.coord a)))

theorem serveSetupAxis_of_in_range {axis : Byte} {g : Gantry} {a : Axis} {k : Half} {lmax park : Word} {t : AxisTeach}
    (haxis : axisOf axis = some (g, a)) (ht : t = { k := k.toNat, lmax := lmax.toNat, park := park.toNat })
    (hranges : 1 ≤ t.k ∧ t.k ≤ 20000 ∧ 1 ≤ t.lmax ∧ t.lmax ≤ 16777215 ∧ t.park ≤ 1200000) :
    serveSetupAxis axis k lmax park s = teach true true (axisChecks g a t s) (modPcu (Pcu.setAxis g a t)) s := by
  subst ht
  unfold serveSetupAxis
  rw [haxis]
  dsimp only
  rw [axisRanges_iff.2 hranges]
  rfl

/-- Settles O22: a value out of range, no check that fails, or the check of lowest place code that fails. -/
theorem setupAxisChecksEveryTaughtPosition : Obligations.SetupAxisChecksEveryTaughtPosition := by
  refine ⟨fun tag axis k lmax park s htakes hlot h => ?_, ?_⟩
  · rw [exec_setupAxis_of_takesNow htakes, serveSetupAxis_of_out_of_range hlot h]
  · intro tag axis g a k lmax park t s htakes hlot haxis ht hk hk' hl hl' hpark
    rw [exec_setupAxis_of_takesNow htakes, serveSetupAxis_of_in_range haxis ht ⟨hk, hk', hl, hl', hpark⟩]
    refine ⟨fun hparked hreach => ?_, fun code hfails hlowest => ?_⟩
    · have hnone : firstFailing (axisChecks g a t s) = none := by
        rw [firstFailing_eq_none_iff, axisChecks, List.forall_mem_cons, List.forall_mem_map]
        exact ⟨hparked, hreach⟩
      rw [teach_of_reached hlot hnone]
      rfl
    · have hmap : axisChecks g a t s = ((noPlace, t.park) :: (taughtOn g s).map (fun c => (c.1, c.2.coord a))).map
          (fun c => (c.1, t.inReach c.2)) := by simp [axisChecks, Function.comp_def]
      have hsome : firstFailing (axisChecks g a t s) = some code := by
        rw [hmap]
        obtain ⟨c, hc, hcode, hfalse⟩ := hfails
        refine firstFailing_eq_some ⟨_, List.mem_map_of_mem hc, hcode, hfalse⟩ ?_
        intro d hd hdfalse
        obtain ⟨e, he, rfl⟩ := List.mem_map.1 hd
        exact hlowest e he hdfalse
      rw [teach_of_failing hlot hsome]

/-! ### SETUP_CAMERA, SETUP_SOAK and SETUP_CHUTE (R79, R80) -/

theorem exec_setupCamera_of_takesNow (h : takesNow s) (tag : Byte) (scale : Half) (x y : Word)
    (trims : Vector TrimArg 4) : exec (.setupCamera tag scale x y trims) s
      = .next (replied 0x02 tag (serveSetupCamera scale x y trims s).2 (serveSetupCamera scale x y trims s).1) :=
  congrArg Host.Outcome.next (live_submit_of_takesNow h rfl)

theorem exec_setupSoak_of_takesNow (h : takesNow s) (tag : Byte) (load unload : GridArg) :
    exec (.setupSoak tag load unload) s
      = .next (replied 0x04 tag (serveSetupSoak load unload s).2 (serveSetupSoak load unload s).1) :=
  congrArg Host.Outcome.next (live_submit_of_takesNow h rfl)

theorem exec_setupChute_of_takesNow (h : takesNow s) (tag : Byte) (x y : Word) :
    exec (.setupChute tag x y) s = .next (replied 0x06 tag (serveSetupChute x y s).2 (serveSetupChute x y s).1) :=
  congrArg Host.Outcome.next (live_submit_of_takesNow h rfl)

/-- The values of a SETUP_CAMERA lie in their ranges (Table 5-1). -/
theorem cameraRanges_iff {scale : Half} {x y : Word} {trims : Vector TrimArg 4} :
    (500 ≤ scale.toNat && scale.toNat ≤ 50000 && posOk x && posOk y
        && trims.toList.all (fun t => trimOk t.x && trimOk t.y)) = true ↔
      500 ≤ scale.toNat ∧ scale.toNat ≤ 50000 ∧ x.toNat ≤ 1200000 ∧ y.toNat ≤ 1200000
        ∧ ∀ n : NozzleIx, trims[n].x.toInt.natAbs ≤ 2000 ∧ trims[n].y.toInt.natAbs ≤ 2000 := by
  rw [← trims_ok_iff]
  simp only [Bool.and_eq_true, decide_eq_true_eq, posOk_iff, and_assoc]

/-- A list of one check fails exactly where the check does. -/
theorem single_fails_iff {code : Half} {b : Bool} : (∃ c ∈ [(code, b)], c.2 = false) ↔ b = false := by simp

theorem single_code {code : Half} {b : Bool} : ∀ c ∈ [(code, b)], c.1 = code := by simp

/-- Settles O23, one request after another, each by its ranges, its axes and its checks of reach. -/
theorem setupCameraSoakAndChuteStoreTheirItem : Obligations.SetupCameraSoakAndChuteStoreTheirItem := by
  intro tag s htakes hlot
  refine ⟨fun scale x y trims c hc => ?camera, fun load unload => ?soak, fun x y => ?chute⟩
  case camera =>
    subst hc
    rw [exec_setupCamera_of_takesNow htakes, serveSetupCamera]
    refine congrArg _ (replied_teach hlot single_code ?_ frameTaught_eq_false_iff single_fails_iff)
    rw [← Bool.not_eq_true, cameraRanges_iff]
    simp only [not_and_or, not_le, not_forall]
  case soak =>
    rw [exec_setupSoak_of_takesNow htakes, serveSetupSoak]
    refine congrArg _ (replied_teach hlot (by simp [soakCode]) ?_ .rfl (by simp))
    rw [Bool.and_eq_false_iff, gridOk_eq_false_iff, gridOk_eq_false_iff]
  case chute =>
    rw [exec_setupChute_of_takesNow htakes, serveSetupChute]
    refine congrArg _ (replied_teach hlot single_code ?_ frameTaught_eq_false_iff single_fails_iff)
    rw [Bool.and_eq_false_iff, posOk_eq_false_iff, posOk_eq_false_iff]

/-! ### SETUP_STATION (R81) -/

theorem exec_setupStation_of_takesNow (h : takesNow s) (tag station : Byte) (part : StationPart)
    (hwf : (Request.setupStation station part).wf = true) : exec (.setupStation tag station part) s
      = .next (replied 0x05 tag (serveSetupStation station part s).2 (serveSetupStation station part s).1) :=
  congrArg Host.Outcome.next (live_submit_of_takesNow h hwf)

theorem index_ofNat {n : Nat} (hn : n ≤ 256) (i : Fin n) : index n (BitVec.ofNat 8 i.val).toNat = some i := by
  have hval : (BitVec.ofNat 8 i.val).toNat = i.val := by
    rw [BitVec.toNat_ofNat]; exact Nat.mod_eq_of_lt (lt_of_lt_of_le i.isLt hn)
  rw [hval, index_val]

theorem index_of_ge {n a : Nat} (h : n ≤ a) : index n a = none := dif_neg (not_lt.2 h)

/-- The values of a tray lie in their ranges (Table 5-1). -/
theorem trayRanges_iff {rows columns : Byte} {grid : GridArg} :
    (1 ≤ rows.toNat && rows.toNat ≤ 24 && 1 ≤ columns.toNat && columns.toNat ≤ 16 && gridOk grid) = true ↔
      1 ≤ rows.toNat ∧ rows.toNat ≤ 24 ∧ 1 ≤ columns.toNat ∧ columns.toNat ≤ 16 ∧ GridArgInRange grid := by
  simp only [Bool.and_eq_true, decide_eq_true_eq, gridOk_iff, and_assoc]

/-! ### SETUP_SOCKET (R82) -/

theorem exec_setupSocket_of_takesNow (h : takesNow s) (tag socket : Byte) (lx ly ux uy : Word) (tx ty w : Half)
    (policy : Byte) : exec (.setupSocket tag socket lx ly ux uy tx ty w policy) s
      = .next (replied 0x03 tag (serveSetupSocket socket lx ly ux uy tx ty w policy s).2
        (serveSetupSocket socket lx ly ux uy tx ty w policy s).1) :=
  congrArg Host.Outcome.next (live_submit_of_takesNow h rfl)

theorem policyOf_of_lt {policy : Byte} (h : policy.toNat < 2) :
    policyOf policy = some (if policy = 0 then .strict else .lenient) := by
  have hpolicy : policy = 0 ∨ policy = 1 := by bv_omega
  rcases hpolicy with rfl | rfl <;> rfl

theorem policyOf_of_ge {policy : Byte} (h : 2 ≤ policy.toNat) : policyOf policy = none := by
  unfold policyOf
  split
  case h_3 => rfl
  all_goals omega

/-- The values of a SETUP_SOCKET lie in their ranges (Table 5-1). -/
theorem socketRanges_iff {lx ly ux uy : Word} {tx ty w : Half} :
    (posOk lx && posOk ly && posOk ux && posOk uy && trimOk tx && trimOk ty && w.toNat ≤ 2000) = true ↔
      lx.toNat ≤ 1200000 ∧ ly.toNat ≤ 1200000 ∧ ux.toNat ≤ 1200000 ∧ uy.toNat ≤ 1200000
        ∧ tx.toInt.natAbs ≤ 2000 ∧ ty.toInt.natAbs ≤ 2000 ∧ w.toNat ≤ 2000 := by
  simp only [Bool.and_eq_true, decide_eq_true_eq, posOk_iff, trimOk_iff, and_assoc]

/-- Settles O24: a name out of range is refused, and each item goes through its ranges, its axes and its checks of
reach. -/
theorem setupStationAndSocketStoreTheirItem : Obligations.SetupStationAndSocketStoreTheirItem := by
  intro tag s htakes hlot
  have hpart : ∀ (station part : Byte) (x y : Word), part ≠ 0 →
      (Request.setupStation station (.other part x y)).wf = true := fun station part x y h => by
    simpa [Request.wf, StationPart.wf] using h
  refine ⟨fun station rows columns grid h => ?noStation, fun i rows columns grid t ht => ?tray,
    fun i part x y h => ?nest, fun station part x y h hne => ?noNest,
    fun socket lx ly ux uy tx ty w policy h => ?noSocket, fun k lx ly ux uy tx ty w policy t hpolicy ht => ?socket⟩
  case noStation =>
    rw [exec_setupStation_of_takesNow htakes _ _ _ rfl, serveSetupStation, serveSetupTray, index_of_ge h]
    dsimp only
    rw [teach_of_out_of_range hlot]
  case tray =>
    subst ht
    rw [exec_setupStation_of_takesNow htakes _ _ _ rfl, serveSetupStation, serveSetupTray, index_ofNat (by decide)]
    refine congrArg _ (replied_teach hlot single_code ?_ .rfl single_fails_iff)
    rw [← Bool.not_eq_true, trayRanges_iff]
    simp only [not_and_or, not_le]
  case nest =>
    rw [exec_setupStation_of_takesNow htakes _ _ _ (hpart _ _ _ _ h), serveSetupStation, serveSetupNest,
      index_ofNat (by decide)]
    refine congrArg _ (replied_teach hlot single_code ?_ .rfl single_fails_iff)
    simp only [Bool.and_eq_false_iff, decide_eq_false_iff_not, posOk_eq_false_iff, or_assoc, ne_eq]
  case noNest =>
    rw [exec_setupStation_of_takesNow htakes _ _ _ (hpart _ _ _ _ hne), serveSetupStation, serveSetupNest,
      index_of_ge h]
    dsimp only
    rw [teach_of_out_of_range hlot]
  case noSocket =>
    have hserve : serveSetupSocket socket lx ly ux uy tx ty w policy s = (s, [3]) := by
      unfold serveSetupSocket
      rcases h with hsocket | hpolicy
      · rw [index_of_ge hsocket]
        exact teach_of_out_of_range hlot
      · rw [policyOf_of_ge hpolicy]
        cases index 16 socket.toNat <;> exact teach_of_out_of_range hlot
    rw [exec_setupSocket_of_takesNow htakes, hserve]
  case socket =>
    subst ht
    rw [exec_setupSocket_of_takesNow htakes, serveSetupSocket, index_ofNat (by decide), policyOf_of_lt hpolicy]
    refine congrArg _ (replied_teach hlot (by simp) ?_ .rfl ?_)
    · rw [← Bool.not_eq_true, socketRanges_iff]
      simp only [not_and_or, not_le]
    · simp [imp_iff_not_or, or_assoc]

end Sys2Proof.Machine
end

section
/-! PROOF. What is taught on the axes of a gantry, and O28: every step keeps everything taught in its range and in
reach (R77 to R82). -/
namespace Sys2Proof.Machine

variable {s t : State} {g : Gantry} {p : Point}

/-! ### Reach (R77) -/

theorem pointReach_iff : pointReach g p s = true ↔
    ∀ a, ∃ t, s.pcu.axis g a = some t ∧ t.inReach (p.coord a) = true := by
  rw [pointReach, List.all_eq_true]
  refine ⟨fun h a => ?_, fun h a _ => ?_⟩
  · have ha := h a (by cases a <;> simp)
    cases haxis : s.pcu.axis g a with
    | none => simp [haxis] at ha
    | some t => exact ⟨t, rfl, by simpa [haxis] using ha⟩
  · obtain ⟨t, ht, hreach⟩ := h a
    simp [ht, hreach]

theorem pointReach_congr (h : t.pcu.axis = s.pcu.axis) : pointReach g p t = pointReach g p s := by
  simp only [pointReach, h]

/-! ### The taught positions of a gantry (R78) -/

/-- The position of a taught socket that lies farthest out in the frame of a gantry: the load nominal plus 2000 µm, or
the unload nominal (R78, R82). -/
def SocketTeach.far (t : SocketTeach) : Gantry → Point
  | .load => { x := t.load.x + 2000, y := t.load.y + 2000 }
  | .unload => t.unload

/-- A position that R78 checks in the frame of a gantry. -/
inductive TaughtAt (s : State) : Gantry → Point → Prop
  | camera {c : CameraTeach} (h : s.pcu.camera = some c) : TaughtAt s .load { x := c.x, y := c.y }
  | plate {t : SoakTeach} (g : Gantry) (h : s.pcu.soak = some t) : TaughtAt s g ((t.frame g).cell 7 7)
  | tray {i : Fin 10} {t : TrayTeach} (h : s.pcu.trays[i] = some t) : TaughtAt s (stationGantry i) t.far
  | nest {i : Fin 2} {p : Point} (h : s.pcu.nests[i] = some p) : TaughtAt s .load p
  | chute {p : Point} (h : s.pcu.chute = some p) : TaughtAt s .unload p
  | socket {k : SocketIx} {t : SocketTeach} (g : Gantry) (h : s.hsc.sockets[k].teach = some t) : TaughtAt s g (t.far g)

theorem mem_plateCheck {c : Half × Point} :
    c ∈ plateCheck g s ↔ ∃ t, s.pcu.soak = some t ∧ (soakCode, (t.frame g).cell 7 7) = c := by
  simp only [plateCheck, Option.mem_toList, Option.map_eq_some_iff]

theorem mem_trayCheck {i : Fin 10} {c : Half × Point} :
    c ∈ trayCheck s i ↔ ∃ t, s.pcu.trays[i] = some t ∧ (t.farCode i.val, t.far) = c := by
  simp only [trayCheck, Option.mem_toList, Option.map_eq_some_iff]

theorem mem_nestCheck {i : Fin 2} {c : Half × Point} :
    c ∈ nestCheck s i ↔ ∃ p, s.pcu.nests[i] = some p ∧ (stationCode i.val 4095, p) = c := by
  simp only [nestCheck, Option.mem_toList, Option.map_eq_some_iff]

theorem mem_socketCheck {k : SocketIx} {c : Half × Point} :
    c ∈ socketCheck g s k ↔ ∃ t, s.hsc.sockets[k].teach = some t ∧ ((Place.socket k).code, t.far g) = c := by
  cases g <;>
    simp only [socketCheck, SocketTeach.far, Option.mem_toList, Option.map_eq_some_iff]

theorem stationGantry_eq_load_iff {i : Fin 10} : stationGantry i = .load ↔ i = 0 ∨ i = 1 := by revert i; decide

theorem stationGantry_eq_unload_iff {i : Fin 10} :
    stationGantry i = .unload ↔ i ∈ ([2, 3, 4, 5, 6, 7, 8, 9] : List (Fin 10)) := by revert i; decide

theorem mem_taughtOn_load {c : Half × Point} : c ∈ taughtOn .load s ↔
    (∃ m, s.pcu.camera = some m ∧ (noPlace, { x := m.x, y := m.y }) = c) ∨ c ∈ plateCheck .load s
      ∨ (∃ i, stationGantry i = .load ∧ c ∈ trayCheck s i) ∨ (∃ i, c ∈ nestCheck s i)
      ∨ ∃ k, c ∈ socketCheck .load s k := by
  simp only [taughtOn, List.mem_append, List.mem_flatMap, allSockets, List.mem_finRange, true_and, Option.mem_toList,
    Option.map_eq_some_iff, stationGantry_eq_load_iff, or_and_right, exists_or, exists_eq_left,
    Fin.exists_fin_two, or_assoc]

theorem mem_taughtOn_unload {c : Half × Point} : c ∈ taughtOn .unload s ↔
    c ∈ plateCheck .unload s ∨ (∃ i, stationGantry i = .unload ∧ c ∈ trayCheck s i)
      ∨ (∃ p, s.pcu.chute = some p ∧ (Place.chute.code, p) = c) ∨ ∃ k, c ∈ socketCheck .unload s k := by
  simp only [taughtOn, List.mem_append, List.mem_flatMap, allSockets, List.mem_finRange, true_and, Option.mem_toList,
    Option.map_eq_some_iff, stationGantry_eq_unload_iff, or_assoc]

theorem taughtAt_of_mem {c : Half × Point} (hc : c ∈ taughtOn g s) : TaughtAt s g c.2 := by
  have htray : ∀ i, stationGantry i = g → c ∈ trayCheck s i → TaughtAt s g c.2 := by
    rintro i rfl hi
    obtain ⟨t, h, rfl⟩ := mem_trayCheck.1 hi
    exact .tray h
  have hplate : c ∈ plateCheck g s → TaughtAt s g c.2 := fun h => by
    obtain ⟨t, ht, rfl⟩ := mem_plateCheck.1 h
    exact .plate g ht
  have hsocket : ∀ k, c ∈ socketCheck g s k → TaughtAt s g c.2 := fun k h => by
    obtain ⟨t, ht, rfl⟩ := mem_socketCheck.1 h
    exact .socket g ht
  cases g with
  | load =>
    rcases mem_taughtOn_load.1 hc with ⟨m, h, rfl⟩ | h | ⟨i, hi, h⟩ | ⟨i, h⟩ | ⟨k, h⟩
    · exact .camera h
    · exact hplate h
    · exact htray i hi h
    · obtain ⟨q, hq, rfl⟩ := mem_nestCheck.1 h
      exact .nest hq
    · exact hsocket k h
  | unload =>
    rcases mem_taughtOn_unload.1 hc with h | ⟨i, hi, h⟩ | ⟨q, h, rfl⟩ | ⟨k, h⟩
    · exact hplate h
    · exact htray i hi h
    · exact .chute h
    · exact hsocket k h

theorem mem_of_taughtAt (h : TaughtAt s g p) : ∃ c ∈ taughtOn g s, c.2 = p := by
  cases h with
  | camera h => exact ⟨_, mem_taughtOn_load.2 (.inl ⟨_, h, rfl⟩), rfl⟩
  | plate _ h =>
    have hmem := mem_plateCheck (g := g).2 ⟨_, h, rfl⟩
    cases g
    · exact ⟨_, mem_taughtOn_load.2 (.inr (.inl hmem)), rfl⟩
    · exact ⟨_, mem_taughtOn_unload.2 (.inl hmem), rfl⟩
  | @tray i t h =>
    have hmem := mem_trayCheck.2 ⟨t, h, rfl⟩
    cases hi : stationGantry i
    · exact ⟨_, mem_taughtOn_load.2 (.inr (.inr (.inl ⟨i, hi, hmem⟩))), rfl⟩
    · exact ⟨_, mem_taughtOn_unload.2 (.inr (.inl ⟨i, hi, hmem⟩)), rfl⟩
  | @nest i p h => exact ⟨_, mem_taughtOn_load.2 (.inr (.inr (.inr (.inl ⟨i, mem_nestCheck.2 ⟨p, h, rfl⟩⟩)))), rfl⟩
  | chute h => exact ⟨_, mem_taughtOn_unload.2 (.inr (.inr (.inl ⟨_, h, rfl⟩))), rfl⟩
  | @socket k t _ h =>
    have hmem := mem_socketCheck (g := g).2 ⟨t, h, rfl⟩
    cases g
    · exact ⟨_, mem_taughtOn_load.2 (.inr (.inr (.inr (.inr ⟨k, hmem⟩)))), rfl⟩
    · exact ⟨_, mem_taughtOn_unload.2 (.inr (.inr (.inr ⟨k, hmem⟩))), rfl⟩

/-- Everything taught on the axes of a gantry lies in reach. -/
theorem TeachInv.pointReach (i : TeachInv s) (h : TaughtAt s g p) : pointReach g p s = true := by
  obtain ⟨c, hc, rfl⟩ := mem_of_taughtAt h
  exact i.reach g c hc

/-! ### What the invariant reads -/

theorem TaughtAt.congr (hp : t.pcu = s.pcu) (hk : ∀ k : SocketIx, t.hsc.sockets[k].teach = s.hsc.sockets[k].teach)
    (h : TaughtAt t g p) : TaughtAt s g p := by
  cases h with
  | camera h => exact .camera (hp ▸ h)
  | plate _ h => exact .plate _ (hp ▸ h)
  | tray h => exact .tray (hp ▸ h)
  | nest h => exact .nest (hp ▸ h)
  | chute h => exact .chute (hp ▸ h)
  | socket _ h => exact .socket _ ((hk _).symm.trans h)

theorem TeachInv.congr (i : TeachInv s) (hp : t.pcu = s.pcu)
    (hk : ∀ k : SocketIx, t.hsc.sockets[k].teach = s.hsc.sockets[k].teach) : TeachInv t where
  axes := by rw [hp]; exact i.axes
  camera := by rw [hp]; exact i.camera
  trays := by rw [hp]; exact i.trays
  sockets k t h := i.sockets k t ((hk k).symm.trans h)
  reach g c hc := by
    rw [pointReach_congr (s := s) (by rw [hp])]
    exact i.pointReach ((taughtAt_of_mem hc).congr hp hk)

theorem TeachInv.keeps (i : TeachInv s) (k : Keeps s t) : TeachInv t := i.congr k.pcu k.teach

/-- The axes of t are those of s, and every other item taught in t is taught in s too, or lies in its range and in
reach. -/
structure StoresChecked (s t : State) : Prop where
  axes : t.pcu.axis = s.pcu.axis
  camera : ∀ c, t.pcu.camera = some c → s.pcu.camera = some c ∨
    (500 ≤ c.scale ∧ c.scale ≤ 50000 ∧ ∀ n : NozzleIx, c.trimX[n].natAbs ≤ 2000 ∧ c.trimY[n].natAbs ≤ 2000)
      ∧ pointReach .load { x := c.x, y := c.y } s = true
  plate : ∀ x, t.pcu.soak = some x → s.pcu.soak = some x ∨ ∀ g, pointReach g ((x.frame g).cell 7 7) s = true
  trays : ∀ (j : Fin 10) x, t.pcu.trays[j] = some x → s.pcu.trays[j] = some x ∨
    (1 ≤ x.rows ∧ x.rows ≤ 24 ∧ 1 ≤ x.columns ∧ x.columns ≤ 16) ∧ pointReach (stationGantry j) x.far s = true
  nests : ∀ (j : Fin 2) q, t.pcu.nests[j] = some q → s.pcu.nests[j] = some q ∨ pointReach .load q s = true
  chute : ∀ q, t.pcu.chute = some q → s.pcu.chute = some q ∨ pointReach .unload q s = true
  sockets : ∀ (k : SocketIx) x, t.hsc.sockets[k].teach = some x → s.hsc.sockets[k].teach = some x ∨
    x.legal ∧ ∀ g, pointReach g (x.far g) s = true

theorem StoresChecked.refl (s : State) : StoresChecked s s :=
  ⟨rfl, fun _ => .inl, fun _ => .inl, fun _ _ => .inl, fun _ _ => .inl, fun _ => .inl, fun _ _ => .inl⟩

theorem TeachInv.stored (i : TeachInv s) (h : StoresChecked s t) : TeachInv t where
  axes g a x hx := i.axes g a x (h.axes ▸ hx)
  camera c hc := (h.camera c hc).elim (i.camera c) And.left
  trays j x hx := (h.trays j x hx).elim (i.trays j x) And.left
  sockets k x hx := (h.sockets k x hx).elim (i.sockets k x) And.left
  reach g c hc := by
    rw [pointReach_congr (s := s) h.axes]
    obtain ⟨code, p⟩ := c
    cases (taughtAt_of_mem hc : TaughtAt t g p) with
    | camera hx => exact (h.camera _ hx).elim (fun hs => i.pointReach (.camera hs)) And.right
    | plate _ hx => exact (h.plate _ hx).elim (fun hs => i.pointReach (.plate g hs)) (· g)
    | tray hx => exact (h.trays _ _ hx).elim (fun hs => i.pointReach (.tray hs)) And.right
    | nest hx => exact (h.nests _ _ hx).elim (fun hs => i.pointReach (.nest hs)) id
    | chute hx => exact (h.chute _ hx).elim (fun hs => i.pointReach (.chute hs)) id
    | socket _ hx => exact (h.sockets _ _ hx).elim (fun hs => i.pointReach (.socket g hs)) (·.2 g)

/-! ### The six teach requests -/

theorem Pcu.axis_setAxis (q : Pcu) (g' : Gantry) (a a' : Axis) (x : AxisTeach) :
    (q.setAxis g a x).axis g' a' = if g' = g ∧ a' = a then some x else q.axis g' a' := by
  cases g <;> cases a <;> cases g' <;> cases a' <;> rfl

/-- Besides its axis, a stored axis leaves everything taught. -/
theorem TaughtAt.of_setAxis {a : Axis} {x : AxisTeach} {g' : Gantry}
    (h : TaughtAt (modPcu (Pcu.setAxis g a x) s) g' p) : TaughtAt s g' p := by
  have hitems : ∀ q : Pcu, (q.setAxis g a x).camera = q.camera ∧ (q.setAxis g a x).soak = q.soak
      ∧ (q.setAxis g a x).trays = q.trays ∧ (q.setAxis g a x).nests = q.nests ∧ (q.setAxis g a x).chute = q.chute := by
    intro q; cases g <;> cases a <;> exact ⟨rfl, rfl, rfl, rfl, rfl⟩
  obtain ⟨hcamera, hsoak, htrays, hnests, hchute⟩ := hitems s.pcu
  cases h with
  | camera h => exact .camera (hcamera ▸ h)
  | plate _ h => exact .plate _ (hsoak ▸ h)
  | tray h => exact .tray (htrays ▸ h)
  | nest h => exact .nest (hnests ▸ h)
  | chute h => exact .chute (hchute ▸ h)
  | socket _ h => exact .socket (s := s) _ h

theorem TeachInv.setAxis (i : TeachInv s) {a : Axis} {x : AxisTeach} (hx : x.legal)
    (hall : ∀ c ∈ taughtOn g s, x.inReach (c.2.coord a) = true) : TeachInv (modPcu (Pcu.setAxis g a x) s) where
  axes g' a' y hy := by
    rw [show (modPcu (Pcu.setAxis g a x) s).pcu = s.pcu.setAxis g a x from rfl, Pcu.axis_setAxis] at hy
    split at hy
    · cases hy; exact hx
    · exact i.axes g' a' y hy
  camera := by cases g <;> cases a <;> exact i.camera
  trays := by cases g <;> cases a <;> exact i.trays
  sockets := i.sockets
  reach g' c hc := by
    obtain ⟨d, hd, heq⟩ := mem_of_taughtAt (taughtAt_of_mem hc).of_setAxis
    rw [← heq, pointReach_iff]
    intro a'
    rw [show (modPcu (Pcu.setAxis g a x) s).pcu = s.pcu.setAxis g a x from rfl, Pcu.axis_setAxis]
    split <;> rename_i hstored
    · obtain ⟨rfl, rfl⟩ := hstored
      exact ⟨x, rfl, hall d hd⟩
    · exact pointReach_iff.1 (i.reach g' d hd) a'

theorem serveSetupAxis_TeachInv (axis : Byte) (k : Half) (lmax park : Word) (i : TeachInv s) :
    TeachInv (serveSetupAxis axis k lmax park s).1 := by
  unfold serveSetupAxis
  split
  · exact teach_stores i nofun
  · refine teach_stores i fun hranges _ hreach => ?_
    obtain ⟨hk, hk', hl, hl', -⟩ := axisRanges_iff.1 hranges
    obtain ⟨hpark, hall⟩ := List.forall_mem_cons.1 hreach
    exact i.setAxis ⟨hk, hk', hl, hl', hpark⟩ (List.forall_mem_map.1 hall)

theorem serveSetupCamera_TeachInv (scale : Half) (x y : Word) (trims : Vector TrimArg 4) (i : TeachInv s) :
    TeachInv (serveSetupCamera scale x y trims s).1 := by
  refine teach_stores i fun hranges _ hreach => i.stored { StoresChecked.refl s with camera := fun c hc => .inr ?_ }
  obtain ⟨hlow, hhigh, -, -, htrims⟩ := cameraRanges_iff.1 hranges
  cases hc
  exact ⟨⟨hlow, hhigh, fun n => by simpa using htrims n⟩, hreach _ List.mem_cons_self⟩

theorem serveSetupSoak_TeachInv (load unload : GridArg) (i : TeachInv s) :
    TeachInv (serveSetupSoak load unload s).1 := by
  refine teach_stores i fun _ _ hreach => i.stored { StoresChecked.refl s with plate := fun x hx => .inr fun g => ?_ }
  have hload := hreach _ List.mem_cons_self
  have hunload := hreach _ (List.mem_cons_of_mem _ List.mem_cons_self)
  cases hx
  cases g
  · exact hload
  · exact hunload

theorem serveSetupChute_TeachInv (x y : Word) (i : TeachInv s) : TeachInv (serveSetupChute x y s).1 := by
  refine teach_stores i fun _ _ hreach => i.stored { StoresChecked.refl s with chute := fun q hq => .inr ?_ }
  cases hq
  exact hreach _ List.mem_cons_self

/-- What stands in a vector after a write is the value written or what stood there. -/
theorem getElem_set_eq_some {α : Type} {n : Nat} {v : Vector (Option α) n} {i j : Fin n} {a b : α}
    (h : (v.set i.val (some a))[j] = some b) : (j = i ∧ b = a) ∨ v[j] = some b := by
  rw [Fin.getElem_fin, Vector.getElem_set] at h
  split at h <;> rename_i hij
  · exact .inl ⟨(Fin.ext hij).symm, (Option.some.inj h).symm⟩
  · exact .inr h

theorem serveSetupTray_TeachInv (station rows columns : Byte) (grid : GridArg) (i : TeachInv s) :
    TeachInv (serveSetupTray station rows columns grid s).1 := by
  unfold serveSetupTray
  split
  · exact teach_stores i nofun
  · refine teach_stores i fun hranges _ hreach => i.stored { StoresChecked.refl s with trays := fun j x hx => ?_ }
    obtain ⟨hrows, hrows', hcolumns, hcolumns', -⟩ := trayRanges_iff.1 hranges
    rcases getElem_set_eq_some hx with ⟨rfl, rfl⟩ | hbefore
    · exact .inr ⟨⟨hrows, hrows', hcolumns, hcolumns'⟩, hreach _ List.mem_cons_self⟩
    · exact .inl hbefore

theorem serveSetupNest_TeachInv (station part : Byte) (x y : Word) (i : TeachInv s) :
    TeachInv (serveSetupNest station part x y s).1 := by
  unfold serveSetupNest
  split
  · exact teach_stores i nofun
  · refine teach_stores i fun _ _ hreach => i.stored { StoresChecked.refl s with nests := fun j q hq => ?_ }
    rcases getElem_set_eq_some hq with ⟨rfl, rfl⟩ | hbefore
    · exact .inr (hreach _ List.mem_cons_self)
    · exact .inl hbefore

/-- The teach data of a socket after SETUP_SOCKET. -/
theorem teach_modSocket {k j : SocketIx} {x y : SocketTeach}
    (h : (modSocket k (fun r => { r with teach := some x }) s).hsc.sockets[j].teach = some y) :
    (j = k ∧ y = x) ∨ s.hsc.sockets[j].teach = some y := by
  by_cases hj : j = k
  · subst hj
    rw [modSocket_same] at h
    exact .inl ⟨rfl, (Option.some.inj h).symm⟩
  · rw [modSocket_other s k j _ hj] at h
    exact .inr h

theorem serveSetupSocket_TeachInv (socket : Byte) (lx ly ux uy : Word) (tx ty w : Half) (policy : Byte)
    (i : TeachInv s) : TeachInv (serveSetupSocket socket lx ly ux uy tx ty w policy s).1 := by
  unfold serveSetupSocket
  split
  · refine teach_stores i fun hranges _ hreach => i.stored { StoresChecked.refl s with sockets := fun k x hx => ?_ }
    obtain ⟨-, -, -, -, htx, hty, hw⟩ := socketRanges_iff.1 hranges
    simp only [List.forall_mem_cons, Bool.and_eq_true, decide_eq_true_eq] at hreach
    obtain ⟨⟨hlx, hly⟩, hload, hunload, -⟩ := hreach
    rcases teach_modSocket hx with ⟨-, rfl⟩ | hbefore
    · refine .inr ⟨⟨hlx, hly, hw, htx, hty⟩, fun g => ?_⟩
      cases g
      · exact hload
      · exact hunload
    · exact .inl hbefore
  · exact teach_stores i nofun

theorem serveSetupStation_TeachInv (station : Byte) (part : StationPart) (i : TeachInv s) :
    TeachInv (serveSetupStation station part s).1 := by
  cases part with
  | tray => exact serveSetupTray_TeachInv _ _ _ _ i
  | other => exact serveSetupNest_TeachInv _ _ _ _ i

/-! ### The settings of the lot, of the run control unit and of the cell link -/

theorem serveLotOpen_TeachInv (lot : Half) (i : TeachInv s) : TeachInv (serveLotOpen lot s).1 := by
  unfold serveLotOpen; split <;> exact i.congr rfl fun _ => rfl

theorem serveSetLot_TeachInv (es : List ParamArg) (i : TeachInv s) : TeachInv (serveSetLot es s).1 := by
  unfold serveSetLot
  repeat' split
  all_goals exact i.congr rfl fun _ => rfl

theorem serveSetBin_TeachInv (es : List BinArg) (i : TeachInv s) : TeachInv (serveSetBin es s).1 := by
  unfold serveSetBin
  repeat' split
  all_goals exact i.congr rfl fun _ => rfl

theorem serveSetCategory_TeachInv (es : List CategoryArg) (i : TeachInv s) : TeachInv (serveSetCategory es s).1 := by
  unfold serveSetCategory
  repeat' split
  all_goals exact i.congr rfl fun _ => rfl

theorem serveLotStart_TeachInv (i : TeachInv s) : TeachInv (serveLotStart s).1 := by
  have hstart : TeachInv (startLot s) := i.congr rfl fun _ => rfl
  unfold serveLotStart
  repeat' split
  · exact i
  · exact i
  · exact hstart.keeps (settle_keeps (headsFollow_keeps _ (.refl _)))

theorem modRcu_TeachInv (f : Rcu → Rcu) (i : TeachInv s) : TeachInv (modRcu f s) := i.congr rfl fun _ => rfl

theorem setRunMode_TeachInv (m : RunMode) (i : TeachInv s) : TeachInv (setRunMode m s) := by
  unfold setRunMode; split
  · exact (modRcu_TeachInv _ i).keeps (clearCredits_keeps (.refl _))
  · exact (modRcu_TeachInv _ i).keeps (Keeps.foldl (fun _ _ => requestHead_keeps _) _ _ (.refl _))
  · exact i

theorem serveSetMode_TeachInv (mode : Byte) (timeout delay : Half) (i : TeachInv s) :
    TeachInv (serveSetMode mode timeout delay s).1 := by
  unfold serveSetMode
  repeat' split
  · exact (setRunMode_TeachInv _ (modRcu_TeachInv _ i)).keeps (settle_keeps (headsFollow_keeps _ (.refl _)))
  · exact i
  · exact i

theorem serveSetHoldpoint_TeachInv (x kind : Byte) (value : Word) (enabled : Byte) (i : TeachInv s) :
    TeachInv (serveSetHoldpoint x kind value enabled s).1 := by
  unfold serveSetHoldpoint
  repeat' split
  all_goals exact i.congr rfl fun _ => rfl

theorem serveSetProtect_TeachInv (v : Byte) (i : TeachInv s) : TeachInv (serveSetProtect v s).1 := by
  unfold serveSetProtect; split <;> exact i.congr rfl fun _ => rfl

theorem serveNoticeEnable_TeachInv (m : Word) (i : TeachInv s) : TeachInv (serveNoticeEnable m s).1 := by
  unfold serveNoticeEnable; split <;> exact i.congr rfl fun _ => rfl

theorem serveNoticeClear_TeachInv (m : Word) (i : TeachInv s) : TeachInv (serveNoticeClear m s).1 := by
  unfold serveNoticeClear
  repeat' split
  all_goals exact i.congr rfl fun _ => rfl

/-! ### Every step -/

theorem serve_stores_TeachInv (q : Request) (hq : storesValues q = true) (i : TeachInv s) : TeachInv (serve q s).1 := by
  cases q with
  | setupAxis => exact serveSetupAxis_TeachInv _ _ _ _ i
  | setupCamera => exact serveSetupCamera_TeachInv _ _ _ _ i
  | setupSocket => exact serveSetupSocket_TeachInv _ _ _ _ _ _ _ _ _ i
  | setupSoak => exact serveSetupSoak_TeachInv _ _ i
  | setupStation => exact serveSetupStation_TeachInv _ _ i
  | setupChute => exact serveSetupChute_TeachInv _ _ i
  | lotOpen => exact serveLotOpen_TeachInv _ i
  | setLot => exact serveSetLot_TeachInv _ i
  | setBin => exact serveSetBin_TeachInv _ i
  | setCategory => exact serveSetCategory_TeachInv _ i
  | lotStart => exact serveLotStart_TeachInv i
  | setMode => exact serveSetMode_TeachInv _ _ _ i
  | setHoldpoint => exact serveSetHoldpoint_TeachInv _ _ _ _ i
  | setProtect => exact serveSetProtect_TeachInv _ i
  | noticeEnable => exact serveNoticeEnable_TeachInv _ i
  | noticeClear => exact serveNoticeClear_TeachInv _ i
  | reset => exact i.congr rfl fun _ => rfl
  | _ => cases hq

theorem TeachInv.stepKept : StepKept TeachInv where
  blocks k i := i.keeps k
  queue _ i := i.congr rfl fun _ => rfl
  time _ i := i.congr rfl fun _ => rfl
  lines _ i := i.congr rfl fun _ => rfl
  link _ i := i.congr rfl fun _ => rfl
  stores q hq i := serve_stores_TeachInv q hq i
  reset _ := reset_TeachInv.congr rfl fun _ => rfl

/-- Settles O28: besides a reset, only the six teach requests change what is taught, and each stores its item only after
its ranges and its checks of reach. -/
theorem stepKeepsEverythingTaughtInReach : Obligations.StepKeepsEverythingTaughtInReach :=
  fun _ _ i e => TeachInv.stepKept.step i e

end Sys2Proof.Machine
end

section
/-! PROOF. Counts of orders that are not corrected, and of corrected placements (R84 to R87): a position between 0 and
one in reach has its counts within the limits. -/
namespace Sys2Proof.Machine

variable {s : State} {g : Gantry} {p q : Point}

/-! ### Conversion on one axis (R84) -/

theorem AxisTeach.count_nonneg (a : AxisTeach) {x : Int} (h : 0 ≤ x) : 0 ≤ a.count x := by
  have hproduct : 0 ≤ x * a.k := mul_nonneg h (Int.natCast_nonneg _)
  unfold AxisTeach.count ceilDiv
  omega

theorem AxisTeach.count_mono (a : AxisTeach) {x y : Int} (h : x ≤ y) : a.count x ≤ a.count y := by
  have hproduct : x * a.k ≤ y * a.k := mul_le_mul_of_nonneg_right h (Int.natCast_nonneg _)
  unfold AxisTeach.count ceilDiv
  omega

theorem AxisTeach.count_le_of_inReach {a : AxisTeach} {n : Nat} (h : a.inReach n = true) : a.count n ≤ a.lmax := by
  simp only [AxisTeach.inReach, decide_eq_true_eq] at h
  exact h.2

/-- A position from 0 up to one in reach has its count within 0 and the limit of the axis. -/
theorem AxisTeach.count_within {a : AxisTeach} {x : Int} {n : Nat} (h0 : 0 ≤ x) (hx : x ≤ n)
    (hn : a.inReach n = true) : 0 ≤ a.count x ∧ a.count x ≤ a.lmax :=
  ⟨a.count_nonneg h0, (a.count_mono hx).trans (count_le_of_inReach hn)⟩

/-! ### Conversion on both axes -/

/-- The counts of x and y lie within 0 and the limits of two axes. -/
def CountsWithin (ax ay : AxisTeach) (c : Int × Int) : Prop := 0 ≤ c.1 ∧ c.1 ≤ ax.lmax ∧ 0 ≤ c.2 ∧ c.2 ≤ ay.lmax

theorem countsAt_eq {ax ay : AxisTeach} (hx : s.pcu.axis g .x = some ax) (hy : s.pcu.axis g .y = some ay) (x y : Int) :
    countsAt g x y s = (ax.count x, ay.count y) := by simp [countsAt, hx, hy]

theorem inReach_of_pointReach {a : Axis} {t : AxisTeach} (h : pointReach g p s = true) (ht : s.pcu.axis g a = some t) :
    t.inReach (p.coord a) = true := by
  obtain ⟨t', ht', hreach⟩ := pointReach_iff.1 h a
  cases ht.symm.trans ht'
  exact hreach

/-- A position from 0 up to a point in reach has its counts within the limits. -/
theorem countsAt_within {ax ay : AxisTeach} {x y : Int} (hax : s.pcu.axis g .x = some ax)
    (hay : s.pcu.axis g .y = some ay) (hp : pointReach g p s = true) (hx0 : 0 ≤ x) (hx : x ≤ p.x) (hy0 : 0 ≤ y)
    (hy : y ≤ p.y) : CountsWithin ax ay (countsAt g x y s) := by
  rw [countsAt_eq hax hay]
  obtain ⟨hlow, hhigh⟩ := AxisTeach.count_within hx0 hx (inReach_of_pointReach (a := .x) hp hax)
  obtain ⟨hlow', hhigh'⟩ := AxisTeach.count_within hy0 hy (inReach_of_pointReach (a := .y) hp hay)
  exact ⟨hlow, hhigh, hlow', hhigh'⟩

/-! ### Orders that are not corrected -/

/-- A point lies no farther out than another on either axis. -/
def Point.le (p q : Point) : Prop := p.x ≤ q.x ∧ p.y ≤ q.y

theorem Point.le_refl (p : Point) : p.le p := ⟨Nat.le_refl _, Nat.le_refl _⟩

theorem Grid.cell_le (t : Grid) {r c r' c' : Nat} (hr : r ≤ r') (hc : c ≤ c') : (t.cell r c).le (t.cell r' c') :=
  ⟨Nat.add_le_add_left (Nat.mul_le_mul_right _ hc) _, Nat.add_le_add_left (Nat.mul_le_mul_right _ hr) _⟩

/-- A pocket of a tray lies no farther out than the tray's far corner. -/
theorem TrayTeach.pocket_le_far {t : TrayTeach} {n : Nat} (h : n < t.pockets) : (t.pocket n).le t.far := by
  have hcolumns : 0 < t.columns := Nat.pos_of_ne_zero fun h0 => by simp [TrayTeach.pockets, h0] at h
  have hrow : n / t.columns < t.rows := Nat.div_lt_of_lt_mul (by rwa [Nat.mul_comm])
  have hcolumn : n % t.columns < t.columns := Nat.mod_lt _ hcolumns
  exact t.grid.cell_le (by omega) (by omega)

theorem stationGantry_inSide (st : Side) : stationGantry st.trayIx = .load := by cases st <;> rfl

theorem stationGantry_outStation (st : OutStation) : stationGantry st.trayIx = .unload :=
  if_neg (by simp only [OutStation.trayIx]; omega)

/-- The park position of a gantry lies in reach (R78). -/
theorem TeachInv.park_reach (i : TeachInv s) {ax ay : AxisTeach} (hax : s.pcu.axis g .x = some ax)
    (hay : s.pcu.axis g .y = some ay) : Machine.pointReach g { x := ax.park, y := ay.park } s = true := by
  rw [pointReach_iff]
  rintro (_ | _)
  · obtain ⟨-, -, -, -, hpark⟩ := i.axes g .x ax hax
    exact ⟨ax, hax, hpark⟩
  · obtain ⟨-, -, -, -, hpark⟩ := i.axes g .y ay hay
    exact ⟨ay, hay, hpark⟩

/-- The taught position of an order lies no farther out than one in reach (Table 5-2). -/
theorem plainPlace_le_reached {o : Order} (i : TeachInv s) (hplain : plainPlace g o s)
    (hp : taughtPosition g o s = some p) : ∃ q, p.le q ∧ pointReach g q s = true := by
  unfold taughtPosition at hp
  unfold plainPlace at hplain
  split at hp
  all_goals simp only [*] at hplain
  case h_1 =>
    subst hplain
    obtain ⟨c, hc, rfl⟩ := Option.map_eq_some_iff.1 hp
    exact ⟨_, Point.le_refl _, i.pointReach (.camera hc)⟩
  case h_2 =>
    split at hp
    · rename_i ax ay hax hay
      cases hp
      exact ⟨_, Point.le_refl _, i.park_reach hax hay⟩
    · cases hp
  case h_3 st n _ _ _ =>
    obtain ⟨rfl, hpocket⟩ := hplain
    obtain ⟨t, ht, rfl⟩ := Option.map_eq_some_iff.1 hp
    exact ⟨_, TrayTeach.pocket_le_far (hpocket t ht), i.pointReach (stationGantry_inSide st ▸ .tray ht)⟩
  case h_4 =>
    subst hplain
    exact ⟨_, Point.le_refl _, i.pointReach (.nest hp)⟩
  case h_5 st n _ _ _ =>
    obtain ⟨rfl, hpocket⟩ := hplain
    obtain ⟨t, ht, rfl⟩ := Option.map_eq_some_iff.1 hp
    exact ⟨_, TrayTeach.pocket_le_far (hpocket t ht), i.pointReach (stationGantry_outStation st ▸ .tray ht)⟩
  case h_6 n _ _ _ =>
    obtain ⟨t, ht, rfl⟩ := Option.map_eq_some_iff.1 hp
    exact ⟨_, Grid.cell_le _ (by omega) (by omega), i.pointReach (.plate g ht)⟩
  case h_7 =>
    subst hplain
    obtain ⟨t, ht, rfl⟩ := Option.map_eq_some_iff.1 hp
    exact ⟨_, Point.le_refl _, i.pointReach (.socket .unload ht)⟩
  case h_8 =>
    subst hplain
    exact ⟨_, Point.le_refl _, i.pointReach (.chute hp)⟩
  case h_9 => cases hp

/-- Settles O26: the position named lies between 0 and one that a teach request checked. -/
theorem plainPlacesConvertWithinLimits : Obligations.PlainPlacesConvertWithinLimits := by
  intro g o p ax ay s i hplain hp hax hay
  obtain ⟨q, hle, hreach⟩ := plainPlace_le_reached i hplain hp
  have hcounts : orderCounts g o s = countsAt g p.x p.y s := by simp [orderCounts, hp]
  rw [hcounts]
  exact countsAt_within hax hay hreach (Int.natCast_nonneg _) (Int.ofNat_le.2 hle.1) (Int.natCast_nonneg _)
    (Int.ofNat_le.2 hle.2)

/-! ### Corrections within the capture window (R86, R87) -/

variable {t : SocketTeach} {nx ny mx my cx cy : Int} {off : Option Offset} {clamped voided : Bool}

theorem outside_iff {w : Nat} : outside w cx cy = true ↔ w < cx.natAbs ∨ w < cy.natAbs := by simp [outside]

theorem outside_eq_false_iff {w : Nat} : outside w cx cy = false ↔ cx.natAbs ≤ w ∧ cy.natAbs ≤ w := by simp [outside]

theorem clampTo_natAbs_le (w : Nat) (c : Int) : (clampTo w c).natAbs ≤ w := by unfold clampTo; split <;> omega

theorem clampTo_of_within {w : Nat} {c : Int} (h : c.natAbs ≤ w) : clampTo w c = c := by
  rw [clampTo, if_neg (by omega), if_neg (by omega)]

theorem clampTo_of_outside {w : Nat} {c : Int} (h : w < c.natAbs) :
    clampTo w c = if c < 0 then -(w : Int) else (w : Int) := by unfold clampTo; split <;> split <;> omega

theorem correctWith_of_within (h : (t.tx + nx - mx).natAbs ≤ t.window ∧ (t.ty + ny - my).natAbs ≤ t.window) :
    correctWith t nx ny mx my voided = .coordinates (t.tx + nx - mx) (t.ty + ny - my) false voided := by
  simp [correctWith, outside_eq_false_iff.2 h]

theorem correctWith_of_strict (h : t.window < (t.tx + nx - mx).natAbs ∨ t.window < (t.ty + ny - my).natAbs)
    (hpolicy : t.policy = .strict) : correctWith t nx ny mx my voided = .divert false := by
  simp [correctWith, outside_iff.2 h, hpolicy]

/-- A LENIENT socket uses every correction, set to the edge of the window on an axis where it lies outside. -/
theorem correctWith_of_lenient (hpolicy : t.policy = .lenient) : correctWith t nx ny mx my voided =
    .coordinates (clampTo t.window (t.tx + nx - mx)) (clampTo t.window (t.ty + ny - my))
      (decide (t.window < (t.tx + nx - mx).natAbs ∨ t.window < (t.ty + ny - my).natAbs)) voided := by
  by_cases hout : t.window < (t.tx + nx - mx).natAbs ∨ t.window < (t.ty + ny - my).natAbs
  · simp [correctWith, outside_iff.2 hout, hpolicy, hout]
  · obtain ⟨hx, hy⟩ : (t.tx + nx - mx).natAbs ≤ t.window ∧ (t.ty + ny - my).natAbs ≤ t.window := by omega
    rw [correctWith_of_within ⟨hx, hy⟩, clampTo_of_within hx, clampTo_of_within hy, decide_eq_false hout]

/-- A correction that is used stays within the window; a STRICT socket uses none that was clamped. -/
theorem correctWith_within {v : Bool} (h : correctWith t nx ny mx my v = .coordinates cx cy clamped voided) :
    cx.natAbs ≤ t.window ∧ cy.natAbs ≤ t.window ∧ voided = v ∧ (t.policy = .strict → clamped = false) := by
  cases hpolicy : t.policy with
  | strict =>
    by_cases hout : t.window < (t.tx + nx - mx).natAbs ∨ t.window < (t.ty + ny - my).natAbs
    · rw [correctWith_of_strict hout hpolicy] at h
      cases h
    · obtain ⟨hx, hy⟩ : (t.tx + nx - mx).natAbs ≤ t.window ∧ (t.ty + ny - my).natAbs ≤ t.window := by omega
      rw [correctWith_of_within ⟨hx, hy⟩] at h
      cases h
      exact ⟨hx, hy, rfl, fun _ => rfl⟩
  | lenient =>
    rw [correctWith_of_lenient hpolicy] at h
    cases h
    exact ⟨clampTo_natAbs_le _ _, clampTo_natAbs_le _ _, rfl, nofun⟩

theorem correct_void (hoff : off = none ∨ off = some .void) : correct t nx ny off =
    if t.policy = .strict then .divert true else correctWith t nx ny 0 0 true := by
  rcases hoff with rfl | rfl <;> cases hpolicy : t.policy <;> simp [correct, hpolicy]

/-- The law of R87. -/
theorem correct_within (h : correct t nx ny off = .coordinates cx cy clamped voided) :
    cx.natAbs ≤ t.window ∧ cy.natAbs ≤ t.window ∧ (t.policy = .strict → clamped = false ∧ voided = false) := by
  have hused : ∀ {mx my : Int} {v : Bool}, correctWith t nx ny mx my v = .coordinates cx cy clamped voided →
      (t.policy = .strict → v = false) →
      cx.natAbs ≤ t.window ∧ cy.natAbs ≤ t.window ∧ (t.policy = .strict → clamped = false ∧ voided = false) := by
    intro mx my v h hv
    obtain ⟨hx, hy, rfl, hclamped⟩ := correctWith_within h
    exact ⟨hx, hy, fun hstrict => ⟨hclamped hstrict, hv hstrict⟩⟩
  have hvoid : off = none ∨ off = some .void →
      cx.natAbs ≤ t.window ∧ cy.natAbs ≤ t.window ∧ (t.policy = .strict → clamped = false ∧ voided = false) := by
    intro hoff
    rw [correct_void hoff] at h
    split at h <;> rename_i hpolicy
    · cases h
    · exact hused h fun hstrict => absurd hstrict hpolicy
  match off with
  | some (.um mx my) => exact hused h fun _ => rfl
  | some .void => exact hvoid (.inr rfl)
  | none => exact hvoid (.inl rfl)

/-! ### Corrected socket placements -/

/-- Settles O27: the correction stays within the window of at most 2000 µm, and SETUP_SOCKET checked 2000 µm to either
side of the nominal. -/
theorem correctedPlacementsConvertWithinLimits : Obligations.CorrectedPlacementsConvertWithinLimits := by
  intro u k n cx cy clamped voided ax ay s i hax hay hcorrection
  unfold correction at hcorrection
  unfold correctedCounts
  cases ht : s.hsc.sockets[k].teach with
  | none => rw [ht] at hcorrection; cases hcorrection
  | some t =>
    rw [ht] at hcorrection
    obtain ⟨hcx, hcy, -⟩ := correct_within hcorrection
    obtain ⟨hx, hy, hwindow, -, -⟩ := i.sockets k t ht
    have hreach : Machine.pointReach .load (t.far .load) s = true := i.pointReach (.socket .load ht)
    have hfarx : ((t.far .load).x : Int) = t.load.x + 2000 := rfl
    have hfary : ((t.far .load).y : Int) = t.load.y + 2000 := rfl
    exact countsAt_within (g := .load) hax hay hreach (by omega) (by omega) (by omega) (by omega)

end Sys2Proof.Machine
end

section
/-! PROOF. A divert (R90 to R92): what the review of the heads and the release of the zone leave as it is, the unit's
realign count, and the placement that replaces the PLACE. -/
namespace Sys2Proof.Machine

variable {r s t : State} {u : UnitNo} {x : UnitRec} {k : SocketIx} {h z : HeadIx} {o : Order}

/-! ### The relation -/

/-- What the heads and the zone arbiter leave as it is when a socket is given back: the soak plate, the counters, each
record but for its unit's state, the load queue, and the sockets that are not LOADED; the load gantry gets no zone. -/
structure LeavesUnits (r s : State) : Prop where
  soak : s.upt.soak = r.upt.soak
  counters : s.upt.counters = r.upt.counters
  records : ∀ u x, findUnit u r = some x → ∃ st, findUnit u s = some { x with state := st }
  orders : queue .load s = queue .load r
  sockets : ∀ k : SocketIx, r.hsc.sockets[k].state ≠ .loaded → s.hsc.sockets[k] = r.hsc.sockets[k]
  zones : ∀ z : HeadIx, s.zar[z].holder = .load → r.zar[z].holder = .load

theorem LeavesUnits.refl (s : State) : LeavesUnits s s :=
  ⟨rfl, rfl, fun _ x h => ⟨x.state, h⟩, rfl, fun _ _ => rfl, fun _ => id⟩

theorem LeavesUnits.trans (a : LeavesUnits r s) (b : LeavesUnits s t) : LeavesUnits r t where
  soak := b.soak.trans a.soak
  counters := b.counters.trans a.counters
  records u x hx := by
    obtain ⟨st, hst⟩ := a.records u x hx
    obtain ⟨st', hst'⟩ := b.records u _ hst
    exact ⟨st', hst'⟩
  orders := b.orders.trans a.orders
  sockets k hk := by
    have hrs := a.sockets k hk
    exact (b.sockets k (by rwa [hrs])).trans hrs
  zones z hz := a.zones z (b.zones z hz)

/-- A change outside the unit table, the load queue, the sockets and the zones. -/
theorem LeavesUnits.frame (a : LeavesUnits r s) (hu : t.upt = s.upt) (hq : queue .load t = queue .load s)
    (hk : t.hsc.sockets = s.hsc.sockets) (hz : t.zar = s.zar) : LeavesUnits r t :=
  a.trans
    { soak := by rw [hu]
      counters := by rw [hu]
      records := fun u x hx => ⟨x.state, (findUnit_congr (by rw [hu]) u).trans hx⟩
      orders := hq
      sockets := fun _ _ => by rw [hk]
      zones := fun _ h => by rwa [hz] at h }

theorem LeavesUnits.onZone (a : LeavesUnits r s) (z : HeadIx) {f : Zone → Zone}
    (hf : (f s.zar[z]).holder = .load → s.zar[z].holder = .load) : LeavesUnits r (modZone z f s) := by
  refine a.trans { LeavesUnits.refl s with zones := fun j hj => ?_ }
  by_cases e : j = z
  · subst e; rw [modZone_same] at hj; exact hf hj
  · rwa [modZone_other s z j f e] at hj

/-! ### The start of a test (R126) -/

/-- A LOADED socket that begins its test. -/
theorem testSocket_leaves (hk : r.hsc.sockets[k].state = .loaded) (a : LeavesUnits r s) :
    LeavesUnits r (testSocket s k) where
  soak := a.soak
  counters := a.counters
  records u x hx := by
    obtain ⟨st, hst⟩ := a.records u x hx
    have hfind : findUnit u (testSocket s k)
        = findUnit u (modUnit s.hsc.sockets[k].unit (fun y => { y with state := .testing }) s) := findUnit_congr rfl u
    rw [hfind]
    by_cases hu : u = s.hsc.sockets[k].unit
    · have hmoved := findUnit_modUnit_same (f := fun y => { y with state := .testing }) hst
      rw [← hu]; exact ⟨.testing, hmoved⟩
    · exact ⟨st, by rw [findUnit_modUnit_other hu, hst]⟩
  orders := a.orders
  sockets j hj := by
    have hne : j ≠ k := fun e => hj (e ▸ hk)
    have hsame : (testSocket s k).hsc.sockets[j] = s.hsc.sockets[j] :=
      modSocket_other (modUnit s.hsc.sockets[k].unit (fun y => { y with state := .testing }) s) k j
        (fun y => { y with state := .testing }) hne
    rw [hsame, a.sockets j hj]
  zones := a.zones

theorem startTest_leaves (h : HeadIx) (a : LeavesUnits r s) : LeavesUnits r (startTest h s) := by
  have hsockets : ∀ (l : List SocketIx) (w t : State), (∀ k ∈ l, w.hsc.sockets[k].state = .loaded) →
      LeavesUnits w t → LeavesUnits w (l.foldl testSocket t) := by
    intro l w
    induction l with
    | nil => exact fun _ _ b => b
    | cons k l ih =>
      intro t hl b
      exact ih _ (fun j hj => hl j (List.mem_cons_of_mem _ hj)) (testSocket_leaves (hl k List.mem_cons_self) b)
  unfold startTest
  refine LeavesUnits.frame (s := List.foldl testSocket _ _) ?_ rfl rfl rfl rfl
  refine (a.frame (t := modHead h _ s) rfl rfl rfl rfl).trans (hsockets _ _ _ (fun k hk => ?_) (.refl _))
  exact of_decide_eq_true (List.mem_filter.1 hk).2

theorem grantHead_leaves (h : HeadIx) (a : LeavesUnits r s) : LeavesUnits r (grantHead h s) :=
  startTest_leaves h (a.onZone h fun e => nomatch e)

theorem requestHead_leaves (h : HeadIx) (a : LeavesUnits r s) : LeavesUnits r (requestHead h s) := by
  unfold requestHead
  repeat' split
  · exact grantHead_leaves h a
  · exact a
  · exact a.onZone h id
  · exact a

/-! ### The review of the heads (R123 to R126) -/

theorem idleToFill_leaves (h : HeadIx) (a : LeavesUnits r s) : LeavesUnits r (idleToFill h s) := by
  unfold idleToFill; split
  · exact a.frame rfl rfl rfl rfl
  · exact a

theorem startWaitBack_leaves (h : HeadIx) (a : LeavesUnits r s) : LeavesUnits r (startWaitBack h s) := by
  have hwithdrawn : LeavesUnits r (withdrawHead h s) := a.onZone h id
  unfold startWaitBack; split
  · unfold enterFill; dsimp only; split <;> exact hwithdrawn.frame rfl rfl rfl rfl
  · exact a

theorem fillToIdle_leaves (h : HeadIx) (a : LeavesUnits r s) : LeavesUnits r (fillToIdle h s) := by
  unfold fillToIdle; split
  · exact a.frame rfl rfl rfl rfl
  · exact a

theorem fillUnloaded_leaves (h : HeadIx) (a : LeavesUnits r s) : LeavesUnits r (fillUnloaded h s) := by
  unfold fillUnloaded; split
  · exact a.frame rfl rfl rfl rfl
  · exact a

theorem startIfReady_leaves (h : HeadIx) (a : LeavesUnits r s) : LeavesUnits r (startIfReady h s) := by
  unfold startIfReady; split
  · exact requestHead_leaves h (a.frame rfl rfl rfl rfl)
  · exact a

theorem reviewHead_leaves (h : HeadIx) (a : LeavesUnits r s) : LeavesUnits r (reviewHead h s) :=
  startIfReady_leaves h (fillUnloaded_leaves h (fillToIdle_leaves h (startWaitBack_leaves h (idleToFill_leaves h a))))

/-- Where the active set is as before, the planner examines no unit and the heads alone follow (R70, R114). -/
theorem headsFollow_leaves {before : State} (hactive : activeSet before = activeSet s) (a : LeavesUnits r s) :
    LeavesUnits r (headsFollow before s) := by
  have hreview : ∀ (hs : List HeadIx) (s : State), LeavesUnits r s → LeavesUnits r
      (hs.foldl (fun s h => if headView h before = headView h s then s else reviewHead h s) s) := by
    intro hs
    induction hs with
    | nil => exact fun _ b => b
    | cons h hs ih =>
      intro s b
      refine ih _ ?_
      dsimp only; split
      · exact b
      · exact reviewHead_leaves h b
  rw [headsFollow, examineActive, if_pos hactive]
  exact hreview allHeads s a

/-! ### The release of the zone (R138) -/

theorem sendPlain_unload_leaves (o : Order) (a : LeavesUnits r s) : LeavesUnits r (sendPlain .unload o s) := by
  refine a.frame ?_ (queue_sendOrder_other (by decide) ..) ?_ (sendOrder_zar ..)
  all_goals
    obtain ⟨_, _, _, hsend⟩ := sendOrder_frame .unload o (orderCounts .unload o s) s
    rw [sendPlain, hsend]

/-- The zone goes to its head or to the unload gantry, or stays free. -/
theorem releaseFirst_leaves (z : HeadIx) (s : State) : LeavesUnits (freed z s) (releaseFirst z s) := by
  have hgrant : LeavesUnits (freed z s) (modZone z (Zone.grant .unload) (freed z s)) :=
    (LeavesUnits.refl _).onZone z fun e => nomatch e
  unfold releaseFirst
  change LeavesUnits (freed z s)
    (if (freed z s).zar[z].head then grantHead z (freed z s) else if _ then _ else freed z s)
  split
  · exact grantHead_leaves z (.refl _)
  · split
    · dsimp only; split
      · exact sendPlain_unload_leaves _ hgrant
      · exact hgrant
    · exact .refl _

theorem releaseLoad_leaves (z : HeadIx) (a : LeavesUnits r s) : LeavesUnits r (releaseLoad z s) := by
  have hfreed : LeavesUnits r (freed z s) := a.onZone z fun e => nomatch e
  unfold releaseLoad; split
  · exact hfreed.trans (releaseFirst_leaves z s)
  · exact a

/-- The load gantry does not hold the zone that it has released. -/
theorem releaseLoad_holder (z : HeadIx) (s : State) : (releaseLoad z s).zar[z].holder ≠ .load := by
  unfold releaseLoad; split <;> rename_i hz
  · intro hload
    have hfreed := (releaseFirst_leaves z s).zones z hload
    rw [freed_holder] at hfreed
    cases hfreed
  · exact hz

/-! ### The socket and the zone given back (R90) -/

/-- An off-pending socket is not active, and an EMPTY one is: giving a reservation back leaves the active set (R114). -/
theorem SocketRec.active_vacate {x : SocketRec} (hx : x.state = .reserved) : x.vacate.active = x.active := by
  cases hpending : x.offPending <;> simp [SocketRec.vacate, SocketRec.active, hx, hpending]

theorem activeSet_releaseSocket (k : SocketIx) (s : State) : activeSet (releaseSocket k s) = activeSet s := by
  have hget : ∀ j : SocketIx, (releaseSocket k s).hsc.sockets[j].active = s.hsc.sockets[j].active := by
    intro j
    unfold releaseSocket; split <;> rename_i hk
    · by_cases hj : j = k
      · subst hj; rw [modSocket_same, SocketRec.active_vacate hk]
      · rw [modSocket_other s k j _ hj]
    · rfl
  refine List.ext_getElem (by simp [activeSet]) fun n hn hn' => ?_
  have hlt : n < 16 := by simpa [activeSet] using hn
  simpa [activeSet] using hget ⟨n, hlt⟩

/-- A divert's release of the socket and of the load gantry's zone, with what follows from it. -/
def giveBack (k : SocketIx) (s : State) : State :=
  s |> releaseSocket k |> headsFollow s |> releaseLoad (headOf k)

theorem giveBack_leaves (k : SocketIx) (s : State) : LeavesUnits (releaseSocket k s) (giveBack k s) :=
  releaseLoad_leaves _ (headsFollow_leaves (activeSet_releaseSocket k s).symm (.refl _))

theorem giveBack_keeps (k : SocketIx) (a : Keeps r s) : Keeps r (giveBack k s) :=
  releaseLoad_keeps _ (headsFollow_keeps _ (releaseSocket_keeps k a))

theorem releaseSocket_frame (k : SocketIx) (s : State) : ∃ v, releaseSocket k s = { s with hsc := v } := by
  unfold releaseSocket; split
  · exact ⟨_, rfl⟩
  · exact ⟨s.hsc, rfl⟩

theorem vacate_not_loaded (x : SocketRec) : x.vacate.state ≠ .loaded := by
  unfold SocketRec.vacate; dsimp only; split <;> simp

theorem giveBack_socket (hk : s.hsc.sockets[k].state = .reserved) :
    (giveBack k s).hsc.sockets[k] = s.hsc.sockets[k].vacate := by
  have hvacated : (releaseSocket k s).hsc.sockets[k] = s.hsc.sockets[k].vacate := by
    rw [releaseSocket, if_pos hk, modSocket_same]
  rw [(giveBack_leaves k s).sockets k (by rw [hvacated]; exact vacate_not_loaded _), hvacated]

/-! ### The realign count (R90, R92) -/

/-- A record after a divert: one realign more, at most 2, and a reject where it was 2 before. -/
def UnitRec.realigned (x : UnitRec) : UnitRec :=
  { x with realigns := capInc 2 x.realigns, route := if x.realigns = 2 then some .realignReject else x.route }

/-- A unit's and the lot's count of realigns. -/
def countedRealign (u : UnitNo) (s : State) : State :=
  s |> modUnit u (fun r => { r with realigns := capInc 2 r.realigns })
    |> modCounters (fun c => { c with realigns := satInc c.realigns })

theorem countRealign_eq (hu : findUnit u s = some x) (k : SocketIx) : countRealign u k s =
    if x.realigns = 2 then
      raise .realignReject (alignArg u k) (modUnit u (fun r => { r with route := some .realignReject })
        (countedRealign u s))
    else countedRealign u s := by
  unfold countRealign
  simp only [hu, Option.any_some, decide_eq_true_eq]
  rfl

/-- The count changes no more than the unit's record, the counter of realigns and the factors. -/
theorem countRealign_frame (hu : findUnit u s = some x) (k : SocketIx) : ∃ v c p, countRealign u k s =
    { s with
      upt := { s.upt with
        units := v, counters := { s.upt.counters with realigns := satInc s.upt.counters.realigns } }
      clu := c
      pins := p } := by
  rw [countRealign_eq hu]; split <;> exact ⟨_, _, _, rfl⟩

theorem findUnit_countRealign (hu : findUnit u s = some x) (k : SocketIx) :
    findUnit u (countRealign u k s) = some x.realigned := by
  have hcounted : findUnit u (countedRealign u s) = some { x with realigns := capInc 2 x.realigns } :=
    findUnit_modUnit_same hu
  rw [countRealign_eq hu]
  split <;> rename_i h2
  · have hreject := findUnit_modUnit_same (f := fun r => { r with route := some .realignReject }) hcounted
    rw [UnitRec.realigned, if_pos h2]
    exact hreject
  · rw [UnitRec.realigned, if_neg h2]; exact hcounted

theorem countRealign_raised (hu : findUnit u s = some x) (h2 : x.realigns = 2) (k : SocketIx) :
    (countRealign u k s).clu.raised.getLsbD 25 = true := by
  rw [countRealign_eq hu, if_pos h2]
  exact raise_raised .realignReject _ _

theorem capInc_two {n : Nat} : capInc 2 n = min 2 (n + 1) := by unfold capInc; split <;> omega

/-! ### The placement that replaces the PLACE (R91) -/

theorem lowestFree_of_first {p : SoakIx} (hp : s.upt.soak[p].state = .free)
    (hfirst : ∀ q : SoakIx, q < p → s.upt.soak[q].state ≠ .free) : lowestFree s = some p := by
  cases hlow : lowestFree s with
  | none => exact absurd hp (lowestFree_eq_none_iff.1 hlow p)
  | some q =>
    obtain ⟨hq, hqfirst⟩ := lowestFree_eq_some hlow
    rcases lt_trichotomy q p with hlt | rfl | hlt
    · exact absurd hq (hfirst q hlt)
    · rfl
    · exact absurd hp (hqfirst p hlt)

/-- The order onto a soak position that replaces a diverted PLACE (R91). -/
def Order.replacedBy (o : Order) (i : Nat) (p : SoakIx) : Order :=
  { o with id := i, place := some (.soak p), reservation := .soak p, purpose := some .realign, status := .queued }

theorem replaceDiverted_of_free {p : SoakIx} (hp : s.upt.soak[p].state = .free)
    (hfirst : ∀ q : SoakIx, q < p → s.upt.soak[q].state ≠ .free) : replaceDiverted o u s =
      setTarget u (some (.soak p)) (modXpl (fun x => { x with nextOrderId := x.nextOrderId + 1 })
        (modQueue .load (List.map fun q => if q.id = o.id then o.replacedBy s.xpl.nextOrderId p else q)
          (modSoak p (fun r => { r with state := .reserved, reservedFor := u }) s))) := by
  have hreserve : reserveSoak .realign u s
      = some (p, modSoak p (fun r => { r with state := .reserved, reservedFor := u }) s) := by
    rw [reserveSoak, if_neg (by simp), lowestFree_of_first hp hfirst]
  rw [replaceDiverted, hreserve]
  rfl

theorem replaceDiverted_of_full (hfull : ∀ p : SoakIx, s.upt.soak[p].state ≠ .free) : replaceDiverted o u s =
    modUnit u (fun r => { r with state := .returnWait, target := none }) (removeOrder .load o.id s) := by
  rw [replaceDiverted, reserveSoak_eq_none_iff.2 (.inl hfull)]

theorem lowestFree_cases (s : State) :
    (∃ p : SoakIx, s.upt.soak[p].state = .free ∧ ∀ q : SoakIx, q < p → s.upt.soak[q].state ≠ .free)
      ∨ ∀ p : SoakIx, s.upt.soak[p].state ≠ .free := by
  cases hlow : lowestFree s with
  | none => exact .inr (lowestFree_eq_none_iff.1 hlow)
  | some p => exact .inl ⟨p, lowestFree_eq_some hlow⟩

theorem replaceDiverted_frame (o : Order) (u : UnitNo) (s : State) : ∃ l p x, replaceDiverted o u s =
    { s with upt := { s.upt with units := l, soak := p }, xpl := x } := by
  rcases lowestFree_cases s with ⟨p, hp, hfirst⟩ | hfull
  · rw [replaceDiverted_of_free hp hfirst]; exact ⟨_, _, _, rfl⟩
  · rw [replaceDiverted_of_full hfull]; exact ⟨_, _, _, rfl⟩

/-! ### A divert as a whole (R90 to R92) -/

/-- The factor of a divert (R89). -/
def divertFactor (voided : Bool) : Factor := if voided then .alignVoid else .alignOut

/-- A divert up to the replacement of its PLACE: the factor, what is given back, and the count. -/
def divertBegun (u : UnitNo) (k : SocketIx) (voided : Bool) (s : State) : State :=
  s |> raise (divertFactor voided) (alignArg u k) |> giveBack k |> countRealign u k

theorem divert_eq (o : Order) (u : UnitNo) (k : SocketIx) (voided : Bool) (s : State) :
    divert o u k voided s = setGantry .load .idle (replaceDiverted o u (divertBegun u k voided s)) := rfl

/-- What a divert has done when its PLACE is replaced. -/
structure DivertBegun (u : UnitNo) (k : SocketIx) (voided : Bool) (x : UnitRec) (s t : State) : Prop where
  raised : t.clu.raised.getLsbD (divertFactor voided).number.val = true
  rejected : x.realigns = 2 → t.clu.raised.getLsbD 25 = true
  socket : s.hsc.sockets[k].state = .reserved → t.hsc.sockets[k] = s.hsc.sockets[k].vacate
  zone : t.zar[headOf k].holder ≠ .load
  counters : t.upt.counters = { s.upt.counters with realigns := satInc s.upt.counters.realigns }
  soak : t.upt.soak = s.upt.soak
  orders : queue .load t = queue .load s
  record : ∃ st, findUnit u t = some { x.realigned with state := st }

theorem divertBegun_spec (hu : findUnit u s = some x) (k : SocketIx) (voided : Bool) :
    DivertBegun u k voided x s (divertBegun u k voided s) := by
  obtain ⟨v, hv⟩ := releaseSocket_frame k (raise (divertFactor voided) (alignArg u k) s)
  have hleaves := giveBack_leaves k (raise (divertFactor voided) (alignArg u k) s)
  have hsocket := giveBack_socket (k := k) (s := raise (divertFactor voided) (alignArg u k) s)
  have hzone : (giveBack k (raise (divertFactor voided) (alignArg u k) s)).zar[headOf k].holder ≠ .load :=
    releaseLoad_holder _ _
  have hraised := (giveBack_keeps k (.refl _)).raised _ (raise_raised (divertFactor voided) (alignArg u k) s)
  rw [hv] at hleaves
  unfold divertBegun
  revert hleaves hsocket hzone hraised
  generalize giveBack k (raise (divertFactor voided) (alignArg u k) s) = w
  intro hleaves hsocket hzone hraised
  obtain ⟨st, hst⟩ := hleaves.records u x ((findUnit_congr rfl u).trans hu)
  obtain ⟨l, c, q, hcount⟩ := countRealign_frame hst k
  exact
    { raised := (countRealign_keeps u k (.refl w)).raised _ hraised
      rejected := fun h2 => countRealign_raised hst h2 k
      socket := fun hk => by rw [hcount]; exact hsocket hk
      zone := by rw [hcount]; exact hzone
      counters := by rw [hcount]; simp only [hleaves.counters]; rfl
      soak := by rw [hcount]; exact hleaves.soak
      orders := by rw [hcount]; exact hleaves.orders
      record := ⟨st, findUnit_countRealign hst k⟩ }

/-- The PLACE replaced by one onto a FREE position. -/
theorem divert_of_free {p : SoakIx} {voided : Bool} (hu : findUnit u s = some x) (hp : s.upt.soak[p].state = .free)
    (hfirst : ∀ q : SoakIx, q < p → s.upt.soak[q].state ≠ .free) :
    ∃ st i, findUnit u (divert o u k voided s)
        = some { x.realigned with state := st, target := some (.soak p) }
      ∧ (divert o u k voided s).upt.soak
        = s.upt.soak.set p.val { s.upt.soak[p] with state := .reserved, reservedFor := u }
      ∧ queue .load (divert o u k voided s)
        = (queue .load s).map (fun q => if q.id = o.id then o.replacedBy i p else q) := by
  have hbegun := divertBegun_spec hu k voided
  rw [divert_eq]
  generalize divertBegun u k voided s = w at hbegun
  obtain ⟨st, hrecord⟩ := hbegun.record
  have hsoak := hbegun.soak
  have horders := hbegun.orders
  have htarget := findUnit_modUnit_same (f := fun r => { r with target := some (.soak p) }) hrecord
  rw [replaceDiverted_of_free (by rwa [hsoak]) (by rwa [hsoak])]
  refine ⟨st, w.xpl.nextOrderId, htarget, ?_, ?_⟩
  · rw [← hsoak]; rfl
  · rw [← horders]; rfl

/-- The PLACE removed, where no position is FREE. -/
theorem divert_of_full {voided : Bool} (hu : findUnit u s = some x)
    (hfull : ∀ p : SoakIx, s.upt.soak[p].state ≠ .free) :
    findUnit u (divert o u k voided s) = some { x.realigned with state := .returnWait, target := none }
      ∧ (divert o u k voided s).upt.soak = s.upt.soak
      ∧ queue .load (divert o u k voided s) = (queue .load s).filter (fun q => q.id ≠ o.id) := by
  have hbegun := divertBegun_spec hu k voided
  rw [divert_eq]
  generalize divertBegun u k voided s = w at hbegun
  obtain ⟨st, hrecord⟩ := hbegun.record
  have hsoak := hbegun.soak
  have horders := hbegun.orders
  have hwaits := findUnit_modUnit_same (f := fun r => { r with state := .returnWait, target := none }) hrecord
  rw [replaceDiverted_of_full (by rwa [hsoak])]
  refine ⟨hwaits, hsoak, ?_⟩
  rw [← horders]; rfl

/-- What a divert does besides the replacement of its PLACE. -/
theorem divert_spec {voided : Bool} (hu : findUnit u s = some x) :
    (gsq .load (divert o u k voided s)).state = .idle
      ∧ (divert o u k voided s).clu.raised.getLsbD (divertFactor voided).number.val = true
      ∧ (s.hsc.sockets[k].state = .reserved → (divert o u k voided s).hsc.sockets[k] = s.hsc.sockets[k].vacate)
      ∧ (divert o u k voided s).zar[headOf k].holder ≠ .load
      ∧ (divert o u k voided s).upt.counters = { s.upt.counters with realigns := satInc s.upt.counters.realigns }
      ∧ (x.realigns = 2 → (divert o u k voided s).clu.raised.getLsbD 25 = true) := by
  have hbegun := divertBegun_spec hu k voided
  rw [divert_eq]
  generalize divertBegun u k voided s = w at hbegun
  obtain ⟨l, p, y, hframe⟩ := replaceDiverted_frame o u w
  rw [hframe]
  exact ⟨rfl, hbegun.raised, hbegun.socket, hbegun.zone, hbegun.counters, hbegun.rejected⟩

theorem divertFactor_number (voided : Bool) : (divertFactor voided).number.val = if voided then 23 else 24 := by
  cases voided <;> rfl

theorem coordinateLoad_of_divert {voided : Bool} (ho : o.placeSocket = some k)
    (hdivert : correction o.unitNo k o.nozzle s = .divert voided) :
    coordinateLoad o s = (false, divert o o.unitNo k voided s) := by simp [coordinateLoad, ho, hdivert]

/-- Settles O25: the divert by `divertBegun_spec` and the two ends of `replaceDiverted`, and the corrections by their
three outcomes. -/
theorem correctionsKeepTheCaptureWindow : Obligations.CorrectionsKeepTheCaptureWindow := by
  refine ⟨fun o k voided s => coordinateLoad_of_divert, ?divert, ?correct⟩
  case divert =>
    rintro o u k voided x s _ hu rfl
    obtain ⟨hidle, hraised, hsocket, hzone, hcounters, hrejected⟩ :=
      divert_spec (o := o) (k := k) (voided := voided) hu
    refine ⟨hidle, divertFactor_number voided ▸ hraised, hsocket, fun _ => hzone, hcounters, hrejected, ?_⟩
    rcases lowestFree_cases s with ⟨p, hp, hfirst⟩ | hfull
    · obtain ⟨st, i, hrecord, hsoak, horders⟩ := divert_of_free (o := o) (k := k) (voided := voided) hu hp hfirst
      refine ⟨_, hrecord, capInc_two, rfl, rfl, rfl, rfl, fun q hq hqfirst => ?_, fun hnone => absurd hp (hnone p)⟩
      have hqp : q = p :=
        Option.some.inj ((lowestFree_of_first hq hqfirst).symm.trans (lowestFree_of_first hp hfirst))
      subst hqp
      exact ⟨hsoak, rfl, i, horders⟩
    · obtain ⟨hrecord, hsoak, horders⟩ := divert_of_full (o := o) (k := k) (voided := voided) hu hfull
      exact ⟨_, hrecord, capInc_two, rfl, rfl, rfl, rfl, fun q hq => absurd hq (hfull q),
        fun _ => ⟨hsoak, rfl, rfl, horders⟩⟩
  case correct =>
    intro t nx ny
    refine ⟨fun off cx cy clamped voided => correct_within, fun mx my hx hy => correctWith_of_within ⟨hx, hy⟩,
      fun mx my hout => ⟨correctWith_of_strict hout, fun hlenient => ?_⟩,
      fun off hoff => ⟨fun hstrict => ?_, fun hlenient => ?_⟩⟩
    · refine ⟨_, _, ?_, clampTo_of_outside, clampTo_of_within, clampTo_of_outside, clampTo_of_within⟩
      rw [correct, correctWith_of_lenient hlenient, decide_eq_true hout]
    · rw [correct_void hoff, if_pos hstrict]
    · refine ⟨_, _, ?_, clampTo_of_outside, clampTo_of_within, clampTo_of_outside, clampTo_of_within⟩
      rw [correct_void hoff, if_neg (by simp [hlenient]), correctWith_of_lenient hlenient, Int.sub_zero, Int.sub_zero]

end Sys2Proof.Machine
end

section
/-! PROOF. A stray DONE (R111); the entry to HOLD (R161), the requests and lines that make it (R162, R163), and a hold
point that stops an order (R96, R169). -/
namespace Sys2Proof.Machine

variable {s : State} {g : Gantry} {o : Order}

/-! ### A stray DONE (R111) -/

theorem headOrder_of_inFlight (h : inFlight g s = some o) : headOrder g s = some o ∧ o.status ≠ .queued := by
  unfold inFlight at h
  split at h
  · rename_i p hp
    split at h
    · cases h
    · cases h; exact ⟨hp, ‹_›⟩
  · cases h

/-- A DONE that is not that of an ISSUED order raises STRAY_DONE and does no more (R111). -/
theorem takeDone_of_stray {f : Frame} (hk : f.kind = 0xA1)
    (hstray : ∀ o, headOrder g s = some o → o.status = .issued → f.tag ≠ (gsq g s).tag) :
    takeDone g s f = raise .strayDone (n8 (gantryCode g) ++ [f.tag]) s := by
  rw [takeDone, if_neg (not_not_intro hk)]
  split
  · rename_i o ho
    exact if_neg fun h => hstray o (headOrder_of_inFlight ho).1 h.1 h.2
  · rfl

/-- Settles O57: the bytes are read back as the frame, which `takeDone_of_stray` takes. -/
theorem strayDoneIsIgnored : Obligations.StrayDoneIsIgnored := by
  intro g f s hr hrx hk hf hstray
  rw [exec_done_frame hr hrx hf, takeDone_of_stray hk]
  · rfl
  · intro o ho hi
    rw [driveHunted, gsq_modGsq]
    exact hstray o (by rw [← ho, headOrder, headOrder, driveHunted, queue_modGsq]) hi

/-! ### The entry to HOLD (R161) -/

/-- A sequencer when the run state leaves RUN: ZONE_WAIT becomes HELD (R97). -/
def Gsq.stopWaiting (q : Gsq) : Gsq := if q.state = .zoneWait then { q with state := .held } else q

/-- A head when the run state leaves RUN: its timers pause with what remains (R133). -/
def HeadRec.pauseAt (now : Time) (h : HeadRec) : HeadRec :=
  { h with fill := h.fill.pause now, test := h.test.pause now }

theorem stopWaiting_load (s : State) : stopWaiting .load s = { s with gsqL := s.gsqL.stopWaiting } := by
  have hgantry : gsq .load s = s.gsqL := rfl
  rw [stopWaiting, hgantry, Gsq.stopWaiting]
  split <;> rfl

theorem stopWaiting_unload (s : State) : stopWaiting .unload s = { s with gsqU := s.gsqU.stopWaiting } := by
  have hgantry : gsq .unload s = s.gsqU := rfl
  rw [stopWaiting, hgantry, Gsq.stopWaiting]
  split <;> rfl

/-- What the neighbours do when the run state leaves RUN (R97, R126, R133, R142). -/
theorem leaveRun_eq (s : State) : leaveRun s =
    { s with
      gsqL := s.gsqL.stopWaiting, gsqU := s.gsqU.stopWaiting, zar := s.zar.map Zone.quiet
      hsc := { s.hsc with heads := s.hsc.heads.map (HeadRec.pauseAt s.now) } } := by
  rw [leaveRun, stopWaiting_load, stopWaiting_unload]; rfl

/-- The whole effect of an entry to HOLD (R161). -/
theorem enterHold_eq (c : HoldCauses) (arg : List Byte) (s : State) : enterHold c arg s =
    { raise .holdEntered (n8 c.code ++ arg) s with
      rcu := { s.rcu with run := .hold, causes := c, settle := none }
      gsqL := s.gsqL.stopWaiting, gsqU := s.gsqU.stopWaiting, zar := s.zar.map Zone.quiet
      hsc := { s.hsc with heads := s.hsc.heads.map (HeadRec.pauseAt s.now) } } := by
  rw [enterHold, leaveRun_eq]; rfl

theorem gsq_enterHold (c : HoldCauses) (arg : List Byte) (g : Gantry) (s : State) :
    gsq g (enterHold c arg s) = (gsq g s).stopWaiting := by rw [enterHold_eq]; cases g <;> rfl

theorem Gsq.stopWaiting_state (q : Gsq) :
    q.stopWaiting.state = if q.state = .zoneWait then .held else q.state := by unfold Gsq.stopWaiting; split <;> rfl

theorem Gsq.stopWaiting_held (q : Gsq) : { q.stopWaiting with state := .held } = { q with state := .held } := by
  unfold Gsq.stopWaiting; split <;> rfl

/-- The argument of a factor is the latest one raised with it (R177). -/
theorem raise_args (f : Factor) (arg : List Byte) (s : State) : (raise f arg s).clu.args[f.number] = arg := by
  simp [Clu.raise]

theorem enterHold_raised (c : HoldCauses) (arg : List Byte) (s : State) :
    (enterHold c arg s).clu.raised.getLsbD 19 = true ∧ (enterHold c arg s).clu.args[19] = n8 c.code ++ arg := by
  rw [enterHold_eq]
  exact ⟨raise_raised .holdEntered _ s, raise_args .holdEntered _ s⟩

theorem enterHold_zar (c : HoldCauses) (arg : List Byte) (s : State) (z : HeadIx) : (enterHold c arg s).zar[z] =
    { holder := s.zar[z].holder, head := false, unload := false, load := false } := by
  simp [enterHold_eq, Zone.quiet]

theorem enterHold_heads (c : HoldCauses) (arg : List Byte) (s : State) (h : HeadIx) :
    (enterHold c arg s).hsc.heads[h] = s.hsc.heads[h].pauseAt s.now := by simp [enterHold_eq]

/-! ### HOLD, HOLD_NOW and DOOR (R162, R163) -/

theorem holdWith_eq (c : HoldCause) (s : State) : holdWith c s =
    match s.rcu.run with
    | .estop => s
    | .hold => { s with rcu := { s.rcu with causes := c.addTo s.rcu.causes } }
    | _ => enterHold (c.addTo .none) [] s := by
  unfold holdWith
  cases s.rcu.run <;> rfl

theorem serveHold_eq (c : HoldCause) (s : State) : serveHold c s =
    match s.rcu.run with
    | .estop => (s, [4])
    | .hold => ({ s with rcu := { s.rcu with causes := c.addTo s.rcu.causes } }, [0])
    | _ => (enterHold (c.addTo .none) [] s, [0]) := by
  rw [serveHold, holdWith_eq]
  cases s.rcu.run <;> rfl

theorem exec_hold_of_takesNow (h : takesNow s) (tag : Byte) :
    exec (.hold tag) s = .next (replied 0x18 tag (serveHold .host s).2 (serveHold .host s).1) :=
  exec_of_takesNow (q := .hold) rfl h rfl

theorem exec_holdNow_of_takesNow (h : takesNow s) (tag : Byte) :
    exec (.holdNow tag) s = .next (replied 0x1A tag (serveHold .holdPoint s).2 (serveHold .holdPoint s).1) :=
  exec_of_takesNow (q := .holdNow) rfl h rfl

theorem exec_doorActive (h : s.pins.resetLow = false) : exec .doorActive s = .next (startTx (doorOpens s)) :=
  congrArg Host.Outcome.next (if_neg (by simp [h]))

theorem exec_doorInactive (h : s.pins.resetLow = false) : exec .doorInactive s = .next (startTx (doorCloses s)) :=
  congrArg Host.Outcome.next (if_neg (by simp [h]))

theorem doorCloses_eq (s : State) : doorCloses s =
    (let d : State := { s with pins := { s.pins with door := false } }
    match s.rcu.run with
    | .hold => { d with rcu := { s.rcu with causes := { s.rcu.causes with door := false } } }
    | _ => d) := by
  dsimp only
  split <;> rename_i h
  · exact if_pos h
  · exact if_neg h

/-! ### Hold points (R96, R169) -/

theorem Order.unitNo_eq (o : Order) : o.unitNo = (match o.unit with
    | .unit u => u
    | _ => 0) := by
  unfold Order.unitNo Order.unitNo?; cases o.unit <;> rfl

/-- A hold point matches a PICK or a PLACE by its place or its unit (R169). -/
theorem HoldPoint.matchesOrder_iff (e : HoldPoint) (o : Order) : e.matchesOrder o = true ↔
    e.enabled = true ∧ (o.kind = .pick ∨ o.kind = .place)
      ∧ ((∃ p, o.place = some p ∧ e.what = .place p.code) ∨ e.what = .unit o.unitNo) := by
  unfold HoldPoint.matchesOrder Order.offeredPlace Order.offeredUnit
  cases e.what with
  | none => simp
  | place c => cases o.kind <;> simp [eq_comm (a := c)]
  | unit u => cases o.kind <;> simp [eq_comm (a := u)]

theorem setGrant_holdPoints (g : Gantry) (v : Option Nat) (s : State) :
    (setGrant g v s).rcu.holdPoints = s.rcu.holdPoints := by cases g <;> rfl

theorem matchingEntry_congr {t : State} (h : t.rcu.holdPoints = s.rcu.holdPoints) :
    matchingEntry o t = matchingEntry o s := by rw [matchingEntry, matchingEntry, h]

theorem matchingEntry_eq_none (h : ∀ i : Fin 4, s.rcu.holdPoints[i].matchesOrder o ≠ true) :
    matchingEntry o s = none := List.find?_eq_none.2 fun i _ => h i

theorem matchingEntry_of_first {i : Fin 4} (hi : s.rcu.holdPoints[i].matchesOrder o = true)
    (hfirst : ∀ j : Fin 4, j < i → s.rcu.holdPoints[j].matchesOrder o ≠ true) : matchingEntry o s = some i := by
  have hsome : (matchingEntry o s).isSome = true := List.find?_isSome.2 ⟨i, List.mem_finRange i, hi⟩
  obtain ⟨j, hj⟩ := Option.isSome_iff_exists.1 hsome
  have hmatch : s.rcu.holdPoints[j].matchesOrder o = true := by simpa using List.find?_some hj
  have hle : j ≤ i := find?_le_of_ascending (List.sortedLT_finRange 4).pairwise hj (List.mem_finRange i) hi
  rw [hj, le_antisymm hle (not_lt.1 fun hlt => hfirst j hlt hmatch)]

/-- What check 2 leaves of an order that an entry matches (R96, R169). -/
def heldAt (i : Fin 4) (g : Gantry) (o : Order) (s : State) : State :=
  setGrant g none s |> setHeld g (some o.id)
    |> enterHold { HoldCauses.none with holdPoint := true } (matchArg i g o) |> setGantry g .held

theorem checkHoldPoint_of_granted (h : passGrant g s = some o.id) :
    checkHoldPoint g o s = (true, setGrant g none s) := if_pos h

theorem checkHoldPoint_of_unmatched (h : passGrant g s ≠ some o.id) (hm : matchingEntry o s = none) :
    checkHoldPoint g o s = (true, setGrant g none s) := by
  simp only [checkHoldPoint, if_neg h, matchingEntry_congr (setGrant_holdPoints g none s), hm]

theorem checkHoldPoint_of_matched {i : Fin 4} (h : passGrant g s ≠ some o.id) (hm : matchingEntry o s = some i) :
    checkHoldPoint g o s = (false, heldAt i g o s) := by
  simp only [checkHoldPoint, if_neg h, matchingEntry_congr (setGrant_holdPoints g none s), hm, heldAt]

/-- An attempt whose check 2 stops the order ends there (R95, R96). -/
theorem attempt_of_stopped {t : State} (hc : canAttempt g s = true) (ho : headOrder g s = some o)
    (hr : s.rcu.run = .run) (hstop : checkHoldPoint g o s = (false, t)) : attempt g s = t := by
  have hchecks : checksBefore g o s = (false, t) := by simp only [checksBefore, hr, hstop]; rfl
  cases g
  · simp only [attempt, attemptFuel, attemptLoad, hc, ho, hchecks, if_true]
  · simp only [attempt, attemptUnload, hc, ho, hchecks, if_true]

theorem matchArg_eq {p : Place} (i : Fin 4) (g : Gantry) (hk : o.kind = .pick ∨ o.kind = .place)
    (hp : o.place = some p) : matchArg i g o =
      [BitVec.ofNat 8 i.val, BitVec.ofNat 8 (gantryCode g), if o.kind = .pick then 1 else 3]
        ++ be16 p.code ++ be32 o.unitNo := by
  rcases hk with hk | hk <;>
    simp [matchArg, n8, hk, OrderKind.code, placeField, Order.offeredPlace, Order.offeredUnit, hp]

/-- Where check 2 stops an order, its gantry is HELD, RCU is in HOLD and knows the order, and the rest waits (R161,
R169). -/
theorem heldAt_rcu (i : Fin 4) (g : Gantry) (o : Order) (s : State) : (heldAt i g o s).rcu =
    { (setGrant g none s).rcu with
      run := .hold, causes := { HoldCauses.none with holdPoint := true }, settle := none
      heldLoad := if g = .load then some o.id else s.rcu.heldLoad
      heldUnload := if g = .unload then some o.id else s.rcu.heldUnload } := by
  rw [heldAt, enterHold_eq]; cases g <;> rfl

theorem gsq_heldAt (i : Fin 4) (g : Gantry) (o : Order) (s : State) :
    gsq g (heldAt i g o s) = { gsq g s with state := .held } := by
  rw [heldAt, setGantry, gsq_modGsq, gsq_enterHold, Gsq.stopWaiting_held]; cases g <;> rfl

theorem heldAt_clu (i : Fin 4) (g : Gantry) (o : Order) (s : State) :
    (heldAt i g o s).clu.raised.getLsbD 19 = true ∧ (heldAt i g o s).clu.args[19] = 4 :: matchArg i g o := by
  rw [heldAt, setGantry, modGsq_clu]; exact enterHold_raised ..

theorem heldAt_zar (i : Fin 4) (g : Gantry) (o : Order) (s : State) (z : HeadIx) : (heldAt i g o s).zar[z] =
    { holder := s.zar[z].holder, head := false, unload := false, load := false } := by
  rw [heldAt, setGantry, modGsq_zar, enterHold_zar]; cases g <;> rfl

theorem heldAt_frame (i : Fin 4) (g : Gantry) (o : Order) (s : State) : (heldAt i g o s).xpl = s.xpl
    ∧ (heldAt i g o s).upt = s.upt ∧ (heldAt i g o s).hsc.sockets = s.hsc.sockets := by
  rw [heldAt, enterHold_eq]; cases g <;> exact ⟨rfl, rfl, rfl⟩

/-- Settles O47: the requests and the line by run state, the entry by `enterHold_eq`, and check 2 by its three cases. -/
theorem holdStopsWithoutCancelling : Obligations.HoldStopsWithoutCancelling := by
  refine ⟨fun tag s h => ⟨?hold, ?holdNow⟩, fun s hr hd => ?opens, fun s hr => ?closes, ?entry, ?check⟩
  case hold =>
    rw [exec_hold_of_takesNow h, serveHold_eq]
    cases s.rcu.run <;> rfl
  case holdNow =>
    rw [exec_holdNow_of_takesNow h, serveHold_eq]
    cases s.rcu.run <;> rfl
  case opens =>
    have hopens : doorOpens s = holdWith .door { s with pins := { s.pins with door := true } } := if_neg (by simp [hd])
    exact (exec_doorActive hr).trans
      (congrArg (fun t => Host.Outcome.next (startTx t)) (hopens.trans (holdWith_eq _ _)))
  case closes =>
    exact (exec_doorInactive hr).trans (congrArg (fun t => Host.Outcome.next (startTx t)) (doorCloses_eq s))
  case entry =>
    rintro c arg s t rfl
    have hframe := enterHold_eq c arg s
    refine ⟨by rw [hframe], (enterHold_raised c arg s).1, (enterHold_raised c arg s).2, fun g => ?_,
      enterHold_zar c arg s, fun h => ?_, ?_⟩
    · rw [gsq_enterHold, Gsq.stopWaiting_state]
    · rw [enterHold_heads]; exact ⟨rfl, rfl, rfl⟩
    · rw [hframe]; exact ⟨rfl, rfl, rfl, rfl, rfl, rfl, rfl, rfl⟩
  case check =>
    intro g o s granted hit hgranted hhit
    have hgranted : setGrant g none s = granted := by rw [hgranted]; cases g <;> rfl
    have hhit : ∀ i, s.rcu.holdPoints[i].matchesOrder o = true ↔ hit i := fun i => by
      have hmatches := HoldPoint.matchesOrder_iff s.rcu.holdPoints[i] o
      rw [Order.unitNo_eq] at hmatches
      exact hmatches.trans (hhit i).symm
    subst hgranted
    refine ⟨checkHoldPoint_of_granted, fun hne hno => ?_, fun i p hne hi hfirst hp => ?_⟩
    · exact checkHoldPoint_of_unmatched hne (matchingEntry_eq_none fun i => (hhit i).not.2 (hno i))
    · have hmatch := (hhit i).2 hi
      have hkind := ((HoldPoint.matchesOrder_iff _ o).1 hmatch).2.1
      have hstop := checkHoldPoint_of_matched hne
        (matchingEntry_of_first hmatch fun j hj => (hhit j).not.2 (hfirst j hj))
      obtain ⟨hraised, harg⟩ := heldAt_clu i g o s
      obtain ⟨hxpl, hupt, hsockets⟩ := heldAt_frame i g o s
      rw [matchArg_eq i g hkind hp, Order.unitNo_eq] at harg
      refine ⟨_, hstop, heldAt_rcu i g o s, gsq_heldAt i g o s, hraised, harg, fun z => ?_, hxpl, hupt, hsockets,
        fun hc ho hr => attempt_of_stopped hc ho hr hstop⟩
      rw [heldAt_zar]
      exact ⟨rfl, rfl, rfl, rfl⟩

end Sys2Proof.Machine
end

section
/-! PROOF. The emergency stop (R165): each sequencer by the table of R109, and the test of each head in TEST voided
(R132), with no request left waiting (R141). -/
namespace Sys2Proof.Machine

variable {s t w : State} {g : Gantry} {h : HeadIx} {l : List HeadIx}

/-! ### The sequencers (R109) -/

/-- What R109 makes of a sequencer and its queue at the entry to ESTOP. -/
structure Stops (g : Gantry) (s t : State) : Prop where
  waiting : (gsq g s).state = .zoneWait → gsq g t = { gsq g s with state := .held } ∧ queue g t = queue g s
  flying : ∀ o, (gsq g s).state = .inFlight → inFlight g s = some o →
    gsq g t = { gsq g s with timer := none, state := .held }
    ∧ queue g t = (queue g s).map (fun q => if q.id = o.id then { q with status := .uncertain } else q)
  others : (gsq g s).state ≠ .zoneWait → (gsq g s).state ≠ .inFlight → gsq g t = gsq g s ∧ queue g t = queue g s

theorem inFlight_congr (h : queue g t = queue g s) : inFlight g t = inFlight g s := by
  rw [inFlight, inFlight, headOrder, headOrder, h]

/-- R109 speaks of a sequencer and its queue alone. -/
theorem Stops.congr {s' t' : State} (a : Stops g s t) (hs : gsq g s' = gsq g s) (hq : queue g s' = queue g s)
    (ht : gsq g t' = gsq g t) (hp : queue g t' = queue g t) : Stops g s' t' where
  waiting := by rw [hs, hq, ht, hp]; exact a.waiting
  flying := by rw [hs, inFlight_congr hq, hq, ht, hp]; exact a.flying
  others := by rw [hs, hq, ht, hp]; exact a.others

theorem stopGantry_stops (g : Gantry) (s : State) : Stops g s (stopGantry g s) := by
  unfold stopGantry
  split
  · rename_i hs
    refine ⟨fun _ => ?_, fun o hf _ => absurd (hs.symm.trans hf) (by decide), fun hne => absurd hs hne⟩
    exact ⟨gsq_modGsq .., queue_modGsq ..⟩
  · rename_i o hs ho
    refine ⟨fun hw => absurd (hs.symm.trans hw) (by decide), fun p _ hp => ?_, fun _ hne => absurd hs hne⟩
    obtain rfl : o = p := Option.some.inj (ho.symm.trans hp)
    refine ⟨?_, ?_⟩
    · rw [gsq_modGsq, setStatus, gsq_modQueue]
    · rw [queue_modGsq, setStatus, queue_modQueue]
  · rename_i hwait hfly
    exact ⟨fun hw => (hwait hw).elim, fun o hf ho => (hfly o hf ho).elim, fun _ _ => ⟨rfl, rfl⟩⟩

theorem stopGantry_other {k : Gantry} (hk : k ≠ g) (s : State) :
    gsq k (stopGantry g s) = gsq k s ∧ queue k (stopGantry g s) = queue k s := by
  unfold stopGantry
  split
  · exact ⟨gsq_modGsq_other _ _ _ _ hk, queue_modGsq ..⟩
  · refine ⟨?_, ?_⟩
    · rw [gsq_modGsq_other _ _ _ _ hk, setStatus, gsq_modQueue]
    · rw [queue_modGsq, setStatus, queue_modQueue_other _ _ hk]
  · exact ⟨rfl, rfl⟩

theorem stopGantry_frame (g : Gantry) (s : State) : ∃ a b x, stopGantry g s = { s with gsqL := a, gsqU := b, xpl := x }
    ∧ x.estimates = s.xpl.estimates := by
  unfold stopGantry
  split
  · cases g <;> exact ⟨_, _, _, rfl, rfl⟩
  · cases g <;> exact ⟨_, _, _, rfl, rfl⟩
  · exact ⟨_, _, _, rfl, rfl⟩

theorem stopBoth_stops (g : Gantry) (s : State) : Stops g s (stopGantry .unload (stopGantry .load s)) := by
  cases g
  · obtain ⟨hgsq, hqueue⟩ := stopGantry_other (g := .unload) (k := .load) (by decide) (stopGantry .load s)
    exact (stopGantry_stops .load s).congr rfl rfl hgsq hqueue
  · obtain ⟨hgsq, hqueue⟩ := stopGantry_other (g := .load) (k := .unload) (by decide) s
    exact (stopGantry_stops .unload _).congr hgsq.symm hqueue.symm rfl rfl

/-! ### Before the first test is voided (log entry 36) -/

/-- RCU enters ESTOP and raises the factor with the run state left (R165). -/
def estopEntered (s : State) : State :=
  s |> modRcu (fun r => { r with settle := none, causes := .none })
    |> raise .estop (n8 s.rcu.run.code)
    |> modRcu (fun r => { r with run := .estop })

/-- The entry to ESTOP up to the withdrawal of the requests and the pause of the timers. -/
def estopBegun (s : State) : State :=
  estopEntered s |> stopGantry .load |> stopGantry .unload |> withdrawAll |> pauseTimers

theorem enterEstop_eq (s : State) : enterEstop s = allHeads.foldl voidHead (estopBegun s) := rfl

theorem estopBegun_frame (s : State) : ∃ a b x, estopBegun s =
    { raise .estop [BitVec.ofNat 8 s.rcu.run.code] s with
      rcu := { s.rcu with run := .estop, causes := .none, settle := none }
      gsqL := a, gsqU := b, xpl := x, zar := s.zar.map Zone.quiet
      hsc := { s.hsc with heads := s.hsc.heads.map (HeadRec.pauseAt s.now) } }
    ∧ x.estimates = s.xpl.estimates := by
  obtain ⟨_, _, _, hload, hx⟩ := stopGantry_frame .load (estopEntered s)
  obtain ⟨c, d, y, hunload, hy⟩ := stopGantry_frame .unload (stopGantry .load (estopEntered s))
  refine ⟨c, d, y, ?_, ?_⟩
  · rw [estopBegun, hunload, hload]; rfl
  · rw [hy, hload]; exact hx

theorem estopBegun_heads (s : State) (h : HeadIx) :
    (estopBegun s).hsc.heads[h] = s.hsc.heads[h].pauseAt s.now := by
  obtain ⟨_, _, _, hframe, -⟩ := estopBegun_frame s
  simp [hframe]

theorem estopBegun_zar (s : State) (z : HeadIx) : (estopBegun s).zar[z] = s.zar[z].quiet := by
  obtain ⟨_, _, _, hframe, -⟩ := estopBegun_frame s
  simp [hframe]

theorem estopBegun_stops (g : Gantry) (s : State) : Stops g s (estopBegun s) := by
  have hstops := stopBoth_stops g (estopEntered s)
  cases g <;> exact hstops.congr rfl rfl rfl rfl

/-! ### The sockets of a voided test (R132) -/

theorem untestSocket_sockets (s : State) (k j : SocketIx) : (untestSocket s k).hsc.sockets[j] =
    if j = k then { s.hsc.sockets[j] with state := .loaded } else s.hsc.sockets[j] := by
  unfold untestSocket
  split <;> rename_i hj
  · subst hj; exact modSocket_same ..
  · exact modSocket_other _ _ _ _ hj

/-- Sockets go back to LOADED with their units, and nothing else changes. -/
theorem foldl_untestSocket : ∀ (ks : List SocketIx) (s : State), ∃ us v,
    ks.foldl untestSocket s = { s with upt := { s.upt with units := us }, hsc := { s.hsc with sockets := v } }
    ∧ (∀ k : SocketIx, v[k] = if k ∈ ks then { s.hsc.sockets[k] with state := .loaded } else s.hsc.sockets[k])
    ∧ us = s.upt.units.map (fun r =>
      if ∃ k ∈ ks, s.hsc.sockets[k].unit = r.no then { r with state := .loaded } else r)
  | [], s => ⟨_, _, rfl, fun k => by simp, by simp⟩
  | k :: ks, s => by
    obtain ⟨us, v, hframe, hsockets, hunits⟩ := foldl_untestSocket ks (untestSocket s k)
    have hunit : ∀ j : SocketIx, (untestSocket s k).hsc.sockets[j].unit = s.hsc.sockets[j].unit := fun j => by
      rw [untestSocket_sockets]; split <;> rfl
    refine ⟨us, v, hframe, fun j => ?_, ?_⟩
    · rw [hsockets, untestSocket_sockets]
      by_cases hj : j = k <;> by_cases hm : j ∈ ks <;> simp [hj, hm]
    · have hfirst : (untestSocket s k).upt.units = s.upt.units.map (fun r =>
          if r.no = s.hsc.sockets[k].unit then { r with state := .loaded } else r) := rfl
      rw [hunits, hfirst, List.map_map]
      refine List.map_congr_left fun r _ => ?_
      simp only [Function.comp, hunit]
      by_cases hk : r.no = s.hsc.sockets[k].unit
      · have hmem : ∃ j ∈ k :: ks, s.hsc.sockets[j].unit = r.no := ⟨k, List.mem_cons_self, hk.symm⟩
        rw [if_pos hk, if_pos hmem]
        split <;> rfl
      · have hmem : (∃ j ∈ k :: ks, s.hsc.sockets[j].unit = r.no) ↔ ∃ j ∈ ks, s.hsc.sockets[j].unit = r.no := by
          simp only [List.exists_mem_cons_iff, eq_comm (b := r.no), hk, false_or]
        rw [if_neg hk]
        exact if_congr hmem.symm rfl rfl

/-! ### One voided test (R132, R141) -/

theorem lowerLines_frame (h : HeadIx) (s : State) : ∃ p : Pins, lowerLines h s = { s with pins := p }
    ∧ p.estop = s.pins.estop ∧ (∀ j : HeadIx, p.sot[j] = if j = h then false else s.pins.sot[j])
    ∧ ∀ k : SocketIx, p.ld[k] = if headOf k = h then false else s.pins.ld[k] := by
  have hlower : ∀ (ks : List SocketIx) (s : State), ∃ v : Vector Bool 16,
      ks.foldl (fun s k => setLd k false s) s = { s with pins := { s.pins with ld := v } }
      ∧ ∀ k : SocketIx, v[k] = if k ∈ ks then false else s.pins.ld[k] := by
    intro ks
    induction ks with
    | nil => exact fun s => ⟨_, rfl, fun k => by simp⟩
    | cons j ks ih =>
      intro s
      obtain ⟨v, hv, hld⟩ := ih (setLd j false s)
      refine ⟨v, by rw [List.foldl_cons, hv]; rfl, fun k => ?_⟩
      rw [hld]
      by_cases hk : k = j
      · subst hk; simp
      · have hne : j.val ≠ k.val := fun e => hk (Fin.ext e.symm)
        simp [hk, hne]
  obtain ⟨v, hv, hld⟩ := hlower (socketsOf h) (setSot h false s)
  refine ⟨_, hv, rfl, fun j => ?_, fun k => ?_⟩
  · by_cases hj : j = h
    · subst hj; simp
    · have hne : h.val ≠ j.val := fun e => hj (Fin.ext e.symm)
      simp [hj, hne]
  · rw [hld]; simp only [mem_socketsOf]; rfl

/-- A zone for which nothing asks becomes free when its holder leaves it, and stays as it is for any other (R138). -/
theorem releaseZone_of_quiet (x : Holder) (z : HeadIx) (hq : s.zar[z].quiet = s.zar[z]) : releaseZone x z s =
    modZone z (fun r => { r with holder := if r.holder = x then .none else r.holder }) s := by
  have hhead : s.zar[z].head = false := by rw [← hq]; rfl
  have hunload : s.zar[z].unload = false := by rw [← hq]; rfl
  have hload : s.zar[z].load = false := by rw [← hq]; rfl
  unfold releaseZone
  split <;> rename_i hx
  · simp only [modZone, if_neg hx]
    rw [show s.zar.set z.val s.zar[z] = s.zar from Vector.set_getElem_self z.isLt]
  · have hfree : modZone z (fun r => { r with holder := .none }) s
        = modZone z (fun r => { r with holder := if r.holder = x then .none else r.holder }) s := by
      simp only [modZone, if_pos (not_not.1 hx)]
    have hasks : (modZone z (fun r => { r with holder := .none }) s).zar[z].load = false := by
      rw [modZone_same]; exact hload
    rw [if_neg (by simp only [hhead, hunload]; decide)]
    exact (if_neg (by simp only [hasks]; decide)).trans hfree

theorem modHead_modHead (h : HeadIx) (e f : HeadRec → HeadRec) (s : State) :
    modHead h e (modHead h f s) = modHead h (fun r => e (f r)) s := by
  simp [modHead]

/-- A head that enters FILL keeps its cycle, its summary and its test timer, and no timer begins to count outside RUN
(R124, R133). -/
theorem enterFill_frame (h : HeadIx) (s : State) : ∃ f : HeadRec → HeadRec, enterFill h s = modHead h f s
    ∧ ∀ r, (f r).state = .fill ∧ (f r).test = r.test ∧ (f r).cycle = r.cycle ∧ (f r).summary = r.summary
      ∧ (s.rcu.run ≠ .run → r.fill.still → (f r).fill.still) := by
  unfold enterFill
  dsimp only
  split
  · refine ⟨_, modHead_modHead h (fun r => { r with
      fill := if s.ltc.params.fillTimeout = 0 then .stopped else startTimer s.ltc.params.fillTimeout s
      fillExpired := false }) (fun r => { r with state := .fill }) s, fun r => ⟨rfl, rfl, rfl, rfl, fun hr _ => ?_⟩⟩
    dsimp only
    split
    · trivial
    · exact startTimer_still _ hr
  · exact ⟨_, rfl, fun r => ⟨rfl, rfl, rfl, rfl, fun _ hf => hf⟩⟩

/-- A head among some that is in TEST. -/
abbrev InTest (l : List HeadIx) (s : State) (h : HeadIx) : Prop := h ∈ l ∧ s.hsc.heads[h].state = .test

/-- What voiding the tests of some heads makes of the part (R132). -/
structure Voids (l : List HeadIx) (s t : State) : Prop where
  frame : ∃ p u v z c, t = { s with pins := p, upt := u, hsc := v, zar := z, ltc := c }
  estop : t.pins.estop = s.pins.estop
  sot : ∀ h : HeadIx, t.pins.sot[h] = if InTest l s h then false else s.pins.sot[h]
  ld : ∀ k : SocketIx, t.pins.ld[k] = if InTest l s (headOf k) then false else s.pins.ld[k]
  zones : ∀ z : HeadIx, t.zar[z] =
    if InTest l s z ∧ s.zar[z].holder = .head then { s.zar[z] with holder := .none } else s.zar[z]
  sockets : ∀ k : SocketIx, t.hsc.sockets[k] =
    if InTest l s (headOf k) ∧ s.hsc.sockets[k].state = .testing then { s.hsc.sockets[k] with state := .loaded }
    else s.hsc.sockets[k]
  units : t.upt = { s.upt with units := s.upt.units.map (fun r =>
    if ∃ k : SocketIx, InTest l s (headOf k) ∧ s.hsc.sockets[k].state = .testing ∧ s.hsc.sockets[k].unit = r.no then
      { r with state := .loaded }
    else r) }
  others : ∀ h : HeadIx, ¬InTest l s h → t.hsc.heads[h] = s.hsc.heads[h]
  heads : ∀ h : HeadIx, InTest l s h → t.hsc.heads[h].state = .fill ∧ t.hsc.heads[h].test = .stopped
    ∧ t.hsc.heads[h].cycle = s.hsc.heads[h].cycle ∧ t.hsc.heads[h].summary = s.hsc.heads[h].summary
    ∧ (s.hsc.heads[h].fill.still → t.hsc.heads[h].fill.still)
  counted : t.ltc = { s.ltc with captures := { s.ltc.captures with
    voided := (l.filter (fun h => s.hsc.heads[h].state = .test)).foldl (fun c _ => satInc c) s.ltc.captures.voided } }

theorem Voids.of_none (hl : ∀ h, ¬InTest l s h) : Voids l s s where
  frame := ⟨_, _, _, _, _, rfl⟩
  estop := rfl
  sot h := by rw [if_neg (hl h)]
  ld k := by rw [if_neg (hl _)]
  zones z := by rw [if_neg fun h => hl z h.1]
  sockets k := by rw [if_neg fun h => hl _ h.1]
  units := by
    have hnone : ∀ r : UnitRec, ¬∃ k : SocketIx, InTest l s (headOf k) ∧ s.hsc.sockets[k].state = .testing
        ∧ s.hsc.sockets[k].unit = r.no := fun r ⟨k, hk, _⟩ => hl _ hk
    simp only [hnone, if_false, List.map_id']
  others h _ := rfl
  heads h hh := absurd hh (hl h)
  counted := by
    have hnone : l.filter (fun h => s.hsc.heads[h].state = .test) = [] :=
      List.filter_eq_nil_iff.2 fun h hm ht => hl h ⟨hm, of_decide_eq_true ht⟩
    rw [hnone]; rfl

/-- No zone is asked for, and the run state is not RUN: where ESTOP voids its tests. -/
structure AtRest (s : State) : Prop where
  run : s.rcu.run ≠ .run
  quiet : ∀ z : HeadIx, s.zar[z].quiet = s.zar[z]

theorem mem_testingSockets {k : SocketIx} :
    k ∈ testingSockets h s ↔ headOf k = h ∧ s.hsc.sockets[k].state = .testing := by
  simp [testingSockets, mem_socketsOf]

theorem inTest_single (ht : s.hsc.heads[h].state = .test) (j : HeadIx) : InTest [h] s j ↔ j = h := by
  refine ⟨fun hj => List.mem_singleton.1 hj.1, ?_⟩
  rintro rfl
  exact ⟨List.mem_singleton.2 rfl, ht⟩

/-- A voided test, change by change (R132). -/
theorem voidHead_eq (ht : s.hsc.heads[h].state = .test) (a : AtRest s) :
    ∃ (p : Pins) (us : List UnitRec) (v : Vector SocketRec 16) (x : HeadRec), voidHead s h =
      { s with
        pins := p
        upt := { s.upt with units := us }
        hsc := { sockets := v, heads := s.hsc.heads.set h.val x }
        zar := s.zar.set h.val { s.zar[h] with holder := if s.zar[h].holder = .head then .none else s.zar[h].holder }
        ltc := { s.ltc with captures := { s.ltc.captures with voided := satInc s.ltc.captures.voided } } }
    ∧ (p.estop = s.pins.estop ∧ (∀ j : HeadIx, p.sot[j] = if j = h then false else s.pins.sot[j])
      ∧ ∀ k : SocketIx, p.ld[k] = if headOf k = h then false else s.pins.ld[k])
    ∧ (∀ k : SocketIx, v[k] = if k ∈ testingSockets h s then { s.hsc.sockets[k] with state := .loaded }
      else s.hsc.sockets[k])
    ∧ us = s.upt.units.map (fun r =>
      if ∃ k ∈ testingSockets h s, s.hsc.sockets[k].unit = r.no then { r with state := .loaded } else r)
    ∧ x.state = .fill ∧ x.test = .stopped ∧ x.cycle = s.hsc.heads[h].cycle ∧ x.summary = s.hsc.heads[h].summary
    ∧ (s.hsc.heads[h].fill.still → x.fill.still) := by
  obtain ⟨p, hlines, hp⟩ := lowerLines_frame h s
  obtain ⟨us, v, hframe, hsockets, hunits⟩ := foldl_untestSocket (testingSockets h s) (stopTest h { s with pins := p })
  obtain ⟨w, hw⟩ : ∃ w, (testingSockets h s).foldl untestSocket (stopTest h { s with pins := p }) = w := ⟨_, rfl⟩
  rw [hw] at hframe
  have hquiet : w.zar[h].quiet = w.zar[h] := by rw [hframe]; exact a.quiet h
  obtain ⟨f, hfill, hf⟩ := enterFill_frame h
    (modZone h (fun r => { r with holder := if r.holder = .head then .none else r.holder }) w)
  obtain ⟨hstate, htest, hcycle, hsummary, hstill⟩ := hf { s.hsc.heads[h] with test := .stopped }
  have hrun : w.rcu.run ≠ .run := by rw [hframe]; exact a.run
  refine ⟨p, us, v, f { s.hsc.heads[h] with test := .stopped }, ?_, hp, hsockets, hunits, hstate, htest, hcycle,
    hsummary, hstill hrun⟩
  rw [voidHead, if_pos ht, hlines, hw, releaseZone_of_quiet .head h hquiet, hfill, hframe]
  simp only [modHead, stopTest, countVoided, modLtc, modZone, Fin.getElem_fin, Vector.set_set,
    Vector.getElem_set_self]
  rfl

/-- One head's test is voided (R132). -/
theorem voidHead_of_test (ht : s.hsc.heads[h].state = .test) (a : AtRest s) : Voids [h] s (voidHead s h) := by
  obtain ⟨p, us, v, x, he, ⟨hestop, hsot, hld⟩, hsockets, hunits, hx⟩ := voidHead_eq ht a
  have hsingle := inTest_single ht
  rw [he]
  refine ⟨⟨_, _, _, _, _, rfl⟩, hestop, fun j => ?_, fun k => ?_, fun z => ?_, fun k => ?_, ?_, fun j hj => ?_,
    fun j hj => ?_, ?_⟩
  · simp only [hsingle]; exact hsot j
  · simp only [hsingle]; exact hld k
  · simp only [hsingle]
    by_cases hz : z = h
    · subst hz
      by_cases hh : s.zar[z].holder = .head <;> simp only [Fin.getElem_fin] at hh <;> simp [hh]
    · have hne : h.val ≠ z.val := fun e => hz (Fin.ext e.symm)
      simp [hz, hne]
  · simp only [hsingle, ← mem_testingSockets]; exact hsockets k
  · simp only [hsingle, hunits, mem_testingSockets, and_assoc]
  · have hne : h.val ≠ j.val := fun e => hj ((hsingle j).2 (Fin.ext e.symm))
    simp [hne]
  · obtain rfl := (hsingle j).1 hj
    simpa using hx
  · have hcounted : [h].filter (fun j => s.hsc.heads[j].state = .test) = [h] :=
      List.filter_eq_self.2 fun j hj => decide_eq_true (List.mem_singleton.1 hj ▸ ht)
    rw [hcounted]; rfl

theorem voidHead_voids (h : HeadIx) (a : AtRest s) : Voids [h] s (voidHead s h) := by
  by_cases ht : s.hsc.heads[h].state = .test
  · exact voidHead_of_test ht a
  · rw [voidHead, if_neg ht]
    exact .of_none fun j hj => ht (List.mem_singleton.1 hj.1 ▸ hj.2)

/-! ### The tests of several heads -/

theorem AtRest.voids (a : AtRest s) (v : Voids l s t) : AtRest t where
  run := by obtain ⟨p, u, v, z, c, rfl⟩ := v.frame; exact a.run
  quiet z := by
    rw [v.zones]
    split
    · rw [← a.quiet z]; rfl
    · exact a.quiet z

/-- The tests of some heads are voided, and then those of others. -/
theorem Voids.cons (hh : h ∉ l) (a : Voids [h] s t) (b : Voids l t w) : Voids (h :: l) s w := by
  have hcons : ∀ j, InTest (h :: l) s j ↔ InTest [h] s j ∨ InTest l s j := fun j => by
    simp [InTest, or_and_right]
  have hfirst : ∀ j, ¬InTest l s j → (InTest [h] s j ↔ InTest (h :: l) s j) := fun j hj => by
    rw [hcons, or_iff_left hj]
  have happart : ∀ j ∈ l, ¬InTest [h] s j := fun j hj hn => hh (List.mem_singleton.1 hn.1 ▸ hj)
  have hlater : ∀ j, InTest l t j ↔ InTest l s j := fun j => and_congr_right fun hm => by
    rw [a.others j (happart j hm)]
  have hall : ∀ j, InTest l s j → (InTest l t j ↔ InTest (h :: l) s j) := fun j hj =>
    iff_of_true ((hlater j).2 hj) ((hcons j).2 (.inr hj))
  have hsocket : ∀ k : SocketIx, InTest l s (headOf k) → t.hsc.sockets[k] = s.hsc.sockets[k] := fun k hk => by
    rw [a.sockets, if_neg fun hn => happart _ hk.1 hn.1]
  refine ⟨?frame, b.estop.trans a.estop, fun j => ?sot, fun k => ?ld, fun z => ?zones, fun k => ?sockets, ?units,
    fun j hj => ?others, fun j hj => ?heads, ?counted⟩
  case frame =>
    obtain ⟨p, u, v, z, c, ht⟩ := a.frame
    obtain ⟨p', u', v', z', c', hw⟩ := b.frame
    exact ⟨p', u', v', z', c', by rw [hw, ht]⟩
  case sot =>
    rw [b.sot, a.sot]
    by_cases hj : InTest l s j
    · rw [if_pos ((hlater j).2 hj), if_pos ((hcons j).2 (.inr hj))]
    · rw [if_neg ((hlater j).not.2 hj)]
      exact if_congr (hfirst j hj) rfl rfl
  case ld =>
    rw [b.ld, a.ld]
    by_cases hk : InTest l s (headOf k)
    · rw [if_pos ((hlater _).2 hk), if_pos ((hcons _).2 (.inr hk))]
    · rw [if_neg ((hlater _).not.2 hk)]
      exact if_congr (hfirst _ hk) rfl rfl
  case zones =>
    rw [b.zones]
    by_cases hz : InTest l s z
    · have hzone : t.zar[z] = s.zar[z] := by rw [a.zones, if_neg fun hn => happart z hz.1 hn.1]
      rw [hzone]
      exact if_congr (and_congr_left' (hall z hz)) rfl rfl
    · rw [if_neg fun hn => hz ((hlater z).1 hn.1), a.zones]
      exact if_congr (and_congr_left' (hfirst z hz)) rfl rfl
  case sockets =>
    rw [b.sockets]
    by_cases hk : InTest l s (headOf k)
    · rw [hsocket k hk]
      exact if_congr (and_congr_left' (hall _ hk)) rfl rfl
    · rw [if_neg fun hn => hk ((hlater _).1 hn.1), a.sockets]
      exact if_congr (and_congr_left' (hfirst _ hk)) rfl rfl
  case units =>
    have hthen : ∀ n : UnitNo, (∃ k : SocketIx, InTest l t (headOf k) ∧ t.hsc.sockets[k].state = .testing
        ∧ t.hsc.sockets[k].unit = n) ↔ ∃ k : SocketIx, InTest l s (headOf k) ∧ s.hsc.sockets[k].state = .testing
        ∧ s.hsc.sockets[k].unit = n := fun n => exists_congr fun k => by
      rw [hlater]
      exact and_congr_right fun hk => by rw [hsocket k hk]
    rw [b.units, a.units]
    refine congrArg (fun us => { s.upt with units := us }) ?_
    rw [List.map_map]
    refine List.map_congr_left fun r _ => ?_
    simp only [Function.comp, hthen, hcons, or_and_right, exists_or]
    by_cases hr : ∃ k : SocketIx, InTest [h] s (headOf k) ∧ s.hsc.sockets[k].state = .testing
        ∧ s.hsc.sockets[k].unit = r.no
    · rw [if_pos hr, if_pos (Or.inl hr)]
      split <;> rfl
    · rw [if_neg hr]
      exact if_congr (or_iff_right hr).symm rfl rfl
  case others =>
    obtain ⟨hnot, hnotl⟩ := not_or.1 ((hcons j).not.1 hj)
    rw [b.others j ((hlater j).not.2 hnotl), a.others j hnot]
  case heads =>
    rcases (hcons j).1 hj with hj | hj
    · rw [b.others j fun hn => happart j hn.1 hj]
      exact a.heads j hj
    · have ht := b.heads j ((hlater j).2 hj)
      rw [a.others j (happart j hj.1)] at ht
      exact ht
  case counted =>
    have hfilter : l.filter (fun j => t.hsc.heads[j].state = .test)
        = l.filter (fun j => s.hsc.heads[j].state = .test) :=
      List.filter_congr fun j hj => by rw [a.others j (happart j hj)]
    have hsplit : (h :: l).filter (fun j => s.hsc.heads[j].state = .test)
        = [h].filter (fun j => s.hsc.heads[j].state = .test) ++ l.filter (fun j => s.hsc.heads[j].state = .test) :=
      List.filter_append [h] l
    rw [b.counted, a.counted, hfilter, hsplit, List.foldl_append]

theorem foldl_voidHead : ∀ (l : List HeadIx) (s : State), l.Nodup → AtRest s → Voids l s (l.foldl voidHead s)
  | [], _, _, _ => .of_none fun _ hh => absurd hh.1 List.not_mem_nil
  | h :: l, _, hl, a =>
    have hfirst := voidHead_voids h a
    .cons (List.nodup_cons.1 hl).1 hfirst (foldl_voidHead l _ (List.nodup_cons.1 hl).2 (a.voids hfirst))

/-! ### The entry to ESTOP (R165) -/

theorem mem_allHeads (h : HeadIx) : h ∈ allHeads := by revert h; decide

theorem estopBegun_atRest (s : State) : AtRest (estopBegun s) where
  run := by obtain ⟨_, _, _, hframe, -⟩ := estopBegun_frame s; rw [hframe]; exact fun h => nomatch h
  quiet z := by rw [estopBegun_zar]; rfl

theorem enterEstop_voids (s : State) : Voids allHeads (estopBegun s) (enterEstop s) := by
  rw [enterEstop_eq]
  exact foldl_voidHead allHeads _ (by decide) (estopBegun_atRest s)

/-- The tests that the entry to ESTOP voids are those of the heads in TEST. -/
theorem inTest_estopBegun (s : State) (h : HeadIx) :
    InTest allHeads (estopBegun s) h ↔ s.hsc.heads[h].state = .test := by
  rw [InTest, estopBegun_heads]; exact and_iff_right (mem_allHeads h)

/-- What the entry to ESTOP leaves to the blocks that void nothing. -/
theorem enterEstop_frame (s : State) :
    (enterEstop s).rcu = { s.rcu with run := .estop, causes := .none, settle := none }
    ∧ (enterEstop s).clu = (raise .estop [BitVec.ofNat 8 s.rcu.run.code] s).clu
    ∧ (enterEstop s).pins.estop = s.pins.estop ∧ (enterEstop s).xpl.estimates = s.xpl.estimates
    ∧ ∀ g, Stops g s (enterEstop s) := by
  have hvoids := enterEstop_voids s
  obtain ⟨p, u, v, z, c, ht⟩ := hvoids.frame
  obtain ⟨_, _, _, hframe, hx⟩ := estopBegun_frame s
  have hestop := hvoids.estop
  have hstops : ∀ g, Stops g s (enterEstop s) := fun g => by
    rw [ht]; cases g <;> exact (estopBegun_stops _ s).congr rfl rfl rfl rfl
  rw [hframe] at hestop ht
  exact ⟨by rw [ht], by rw [ht], hestop, by rw [ht]; exact hx, hstops⟩

/-- A head after the entry to ESTOP, told by what it was. -/
theorem enterEstop_heads (s : State) (h : HeadIx) : ∃ x, (enterEstop s).hsc.heads[h] = x
    ∧ x.state ≠ .test ∧ x.fill.still ∧ x.test.still
    ∧ x.cycle = s.hsc.heads[h].cycle ∧ x.summary = s.hsc.heads[h].summary
    ∧ (s.hsc.heads[h].state ≠ .test → x.state = s.hsc.heads[h].state)
    ∧ (s.hsc.heads[h].state = .test → x.state = .fill ∧ x.test = .stopped) := by
  have hvoids := enterEstop_voids s
  refine ⟨_, rfl, ?_⟩
  by_cases ht : s.hsc.heads[h].state = .test
  · have hhead := hvoids.heads h ((inTest_estopBegun s h).2 ht)
    rw [estopBegun_heads] at hhead
    generalize (enterEstop s).hsc.heads[h] = x at hhead ⊢
    obtain ⟨hstate, htest, hcycle, hsummary, hstill⟩ := hhead
    exact ⟨by rw [hstate]; decide, hstill (HeadTimer.pause_still _ _), by rw [htest]; trivial, hcycle,
      hsummary, fun hn => absurd ht hn, fun _ => ⟨hstate, htest⟩⟩
  · have hhead := hvoids.others h ((inTest_estopBegun s h).not.2 ht)
    rw [estopBegun_heads] at hhead
    rw [hhead]
    exact ⟨ht, HeadTimer.pause_still _ _, HeadTimer.pause_still _ _, rfl, rfl, fun _ => rfl, fun hn => absurd hn ht⟩

theorem enterEstop_zar (s : State) (z : HeadIx) : (enterEstop s).zar[z] =
    { holder := if s.hsc.heads[z].state = .test ∧ s.zar[z].holder = .head then .none else s.zar[z].holder
      head := false, unload := false, load := false } := by
  rw [(enterEstop_voids s).zones, estopBegun_zar]
  simp only [inTest_estopBegun]
  exact (apply_ite (fun x => ({ holder := x, head := false, unload := false, load := false } : Zone)) _ _ _).symm

theorem enterEstop_places (s : State) : (∀ k : SocketIx, (enterEstop s).hsc.sockets[k] =
      if s.hsc.heads[headOf k].state = .test ∧ s.hsc.sockets[k].state = .testing then
        { s.hsc.sockets[k] with state := .loaded }
      else s.hsc.sockets[k])
    ∧ (enterEstop s).upt = { s.upt with units := s.upt.units.map (fun r =>
      if ∃ k : SocketIx, s.hsc.heads[headOf k].state = .test ∧ s.hsc.sockets[k].state = .testing
          ∧ s.hsc.sockets[k].unit = r.no then { r with state := .loaded } else r) }
    ∧ (enterEstop s).ltc = { s.ltc with captures := { s.ltc.captures with
      voided := (allHeads.filter (fun h => s.hsc.heads[h].state = .test)).foldl (fun c _ => satInc c)
        s.ltc.captures.voided } } := by
  have hvoids := enterEstop_voids s
  have hsockets := hvoids.sockets
  have hunits := hvoids.units
  have hcounted := hvoids.counted
  have hheads : ∀ h : HeadIx, (estopBegun s).hsc.heads[h].state = s.hsc.heads[h].state := fun h => by
    rw [estopBegun_heads]; rfl
  simp only [inTest_estopBegun] at hsockets hunits
  simp only [hheads] at hcounted
  obtain ⟨_, _, _, hframe, -⟩ := estopBegun_frame s
  rw [hframe] at hsockets hunits hcounted
  exact ⟨hsockets, hunits, hcounted⟩

theorem enterEstop_lines (h : HeadIx) (ht : s.hsc.heads[h].state = .test) : (enterEstop s).pins.sot[h] = false
    ∧ ∀ k : SocketIx, headOf k = h → (enterEstop s).pins.ld[k] = false := by
  have hin := (inTest_estopBegun s h).2 ht
  refine ⟨by rw [(enterEstop_voids s).sot, if_pos hin], fun k hk => ?_⟩
  rw [(enterEstop_voids s).ld, if_pos (hk ▸ hin)]

/-! ### The line (R165) -/

theorem exec_estopActive (h : s.pins.resetLow = false) : exec .estopActive s = .next (startTx (estopOn s)) :=
  congrArg Host.Outcome.next (if_neg (by simp [h]))

theorem exec_estopInactive (h : s.pins.resetLow = false) : exec .estopInactive s = .next (startTx (estopOff s)) :=
  congrArg Host.Outcome.next (if_neg (by simp [h]))

/-- The line is active (R165). -/
def estopSeen (s : State) : State := { s with pins := { s.pins with estop := true } }

theorem estopOn_again (h : s.pins.estop = false) (hr : s.rcu.run = .estop) :
    estopOn s = raise .estop [3] (estopSeen s) := by
  rw [estopOn, if_neg (by simp [h])]
  exact if_pos hr

theorem estopOn_entry (h : s.pins.estop = false) (hr : s.rcu.run ≠ .estop) :
    estopOn s = enterEstop (estopSeen s) := by
  rw [estopOn, if_neg (by simp [h])]
  exact if_neg hr

/-- Settles O50: where the run state is ESTOP already the factor alone is raised, and else the entry voids the tests of
`Voids`. -/
theorem estopVoidsEveryTest : Obligations.EstopVoidsEveryTest := by
  refine ⟨fun s hr he => ⟨_, exec_estopActive hr, ?_⟩, fun s hr => exec_estopInactive hr⟩
  by_cases hrun : s.rcu.run = .estop
  · rw [estopOn_again he hrun]
    refine ⟨rfl, hrun, raise_raised .estop _ _, ?_, rfl, rfl, fun _ => ⟨rfl, rfl, rfl, rfl, rfl⟩,
      fun hne => absurd hrun hne⟩
    rw [hrun]
    exact raise_args .estop _ _
  · rw [estopOn_entry he hrun]
    have hheads := enterEstop_heads (estopSeen s)
    have hlines := fun h => enterEstop_lines (s := estopSeen s) (h := h)
    have hzones := enterEstop_zar (estopSeen s)
    obtain ⟨hrcu, hclu, hestop, hestimates, hstops⟩ := enterEstop_frame (estopSeen s)
    obtain ⟨hsockets, hunits, hcounted⟩ := enterEstop_places (estopSeen s)
    have hraised := raise_raised .estop [BitVec.ofNat 8 (estopSeen s).rcu.run.code] (estopSeen s)
    have harg := raise_args .estop [BitVec.ofNat 8 (estopSeen s).rcu.run.code] (estopSeen s)
    rw [← hclu] at hraised harg
    generalize enterEstop _ = t at *
    refine ⟨hestop, congrArg Rcu.run hrcu, hraised, harg, (congrArg Rcu.grantLoad hrcu :),
      (congrArg Rcu.grantUnload hrcu :), fun he => absurd he hrun, fun _ => ⟨congrArg Rcu.causes hrcu,
        congrArg Rcu.settle hrcu, fun h => ?_, fun g => ?_, hzones, hsockets, hunits, fun h => ?_, hcounted,
        hestimates⟩⟩
    · obtain ⟨x, hx, hstate, hfill, htest, -⟩ := hheads h
      rw [hx]
      exact ⟨hstate, hfill, htest⟩
    · have hstop : Stops g s t := by cases g <;> exact (hstops _).congr rfl rfl rfl rfl
      exact ⟨hstop.waiting, hstop.flying, hstop.others⟩
    · obtain ⟨x, hx, -, -, -, hcycle, hsummary, hother, htest⟩ := hheads h
      rw [hx]
      refine ⟨hcycle, hsummary, hother, fun ht => ?_⟩
      obtain ⟨hfill, hstopped⟩ := htest ht
      obtain ⟨hsot, hld⟩ := hlines h ht
      exact ⟨hfill, hstopped, hsot, hld⟩

end Sys2Proof.Machine
end

section
/-! PROOF. What planning, issuing and the review of the heads leave of run control and of the argument of RESUMED: where
no hold point is enabled they do not leave RUN (R57, R95, R164, R169). -/
namespace Sys2Proof.Machine

variable {r s t : State} {g : Gantry}

/-! ### The relation -/

/-- What a part that has returned to RUN keeps until a hold point stops an order: the hold points, the settle timer
stopped, the argument of RESUMED and, where no hold point is enabled, the run state and its causes. -/
structure RunsOn (r s : State) : Prop where
  points : s.rcu.holdPoints = r.rcu.holdPoints
  settle : r.rcu.settle = none → s.rcu.settle = none
  told : s.clu.args[20] = r.clu.args[20]
  stays : (∀ i : Fin 4, r.rcu.holdPoints[i].enabled = false) → s.rcu.run = r.rcu.run ∧ s.rcu.causes = r.rcu.causes

theorem RunsOn.refl (s : State) : RunsOn s s := ⟨rfl, id, rfl, fun _ => ⟨rfl, rfl⟩⟩

/-- A change that leaves run control and the cell link as they are. -/
theorem RunsOn.frame (h : RunsOn r s) (hr : t.rcu = s.rcu) (hc : t.clu = s.clu) : RunsOn r t where
  points := by rw [hr]; exact h.points
  settle := by rw [hr]; exact h.settle
  told := by rw [hc]; exact h.told
  stays := by rw [hr]; exact h.stays

theorem RunsOn.foldl {α : Type} {f : State → α → State} (hf : ∀ s a, RunsOn r s → RunsOn r (f s a)) :
    ∀ (l : List α) (s : State), RunsOn r s → RunsOn r (l.foldl f s)
  | [], _, h => h
  | a :: l, s, h => RunsOn.foldl hf l (f s a) (hf s a h)

theorem raise_args_other {f : Factor} {i : Fin 26} (hf : f.number ≠ i) (arg : List Byte) (s : State) :
    (raise f arg s).clu.args[i] = s.clu.args[i] := by
  have hne : f.number.val ≠ i.val := fun e => hf (Fin.ext e)
  simp [Clu.raise, hne]

theorem raise_runsOn (f : Factor) (arg : List Byte) (h : RunsOn r s) (hf : f.number ≠ 20 := by decide) :
    RunsOn r (raise f arg s) := ⟨h.points, h.settle, (raise_args_other hf arg s).trans h.told, h.stays⟩

theorem modGsq_runsOn (g : Gantry) (f : Gsq → Gsq) (h : RunsOn r s) : RunsOn r (modGsq g f s) :=
  h.frame (modGsq_rcu ..) (modGsq_clu ..)

theorem setGantry_runsOn (g : Gantry) (x : GantryState) (h : RunsOn r s) : RunsOn r (setGantry g x s) :=
  modGsq_runsOn _ _ h

theorem modQueue_runsOn (g : Gantry) (f : List Order → List Order) (h : RunsOn r s) : RunsOn r (modQueue g f s) :=
  h.frame (modQueue_rcu ..) (modQueue_clu ..)

theorem modIn_runsOn (st : Side) (f : InStation → InStation) (h : RunsOn r s) : RunsOn r (modIn st f s) :=
  h.frame (modIn_rcu ..) (modIn_clu ..)

/-! ### Feed stations, output stations and the log -/

theorem checkEmpty_runsOn (h : RunsOn r s) : RunsOn r (checkEmpty s) := by
  unfold checkEmpty; split
  · exact raise_runsOn _ _ (h.frame rfl rfl)
  · exact h

theorem inputDone_runsOn (h : RunsOn r s) : RunsOn r (inputDone s) := by
  unfold inputDone; split
  · exact checkEmpty_runsOn (raise_runsOn _ _ (h.frame rfl rfl))
  · exact h

theorem handOver_runsOn (st : Side) (h : RunsOn r s) : RunsOn r (handOver st s) := by
  unfold handOver
  repeat' split
  · exact inputDone_runsOn h
  · exact h
  · exact (modIn_runsOn _ _ h).frame rfl rfl
  · exact raise_runsOn _ _ (h.frame rfl rfl)

theorem planPocket_runsOn (st : Side) (h : RunsOn r s) : RunsOn r (planPocket st s) := by
  unfold planPocket
  dsimp only
  split
  · exact handOver_runsOn _ (modIn_runsOn _ _ (modIn_runsOn _ _ h))
  · exact modIn_runsOn _ _ h

theorem planInputPick_runsOn {st : Side} {slot : InSlot} (e : planInputPick s = some (st, slot, t))
    (h : RunsOn r s) : RunsOn r t := by
  simp only [planInputPick] at e
  split at e
  · cases e
  · split at e
    · split at e
      · obtain ⟨_, _, rfl⟩ := by simpa using e
        exact planPocket_runsOn _ h
      · split at e
        · obtain ⟨_, _, rfl⟩ := by simpa using e
          exact modIn_runsOn _ _ h
        · cases e
      · cases e
    · cases e

theorem outHandOver_runsOn (st : OutStation) (h : RunsOn r s) : RunsOn r (outHandOver st s) := by
  unfold outHandOver; dsimp only; split
  · exact h.frame rfl rfl
  · exact RunsOn.foldl (fun _ _ hs => raise_runsOn _ _ hs) _ _ (h.frame rfl rfl)

theorem takePocket_runsOn {p : PairIx} {x : OutStation × Pocket × State} (e : takePocket p s = some x)
    (h : RunsOn r s) : RunsOn r x.2.2 := by
  unfold takePocket at e
  split at e
  · cases e
  · dsimp only at e
    split at e <;> cases e
    · exact outHandOver_runsOn _ (h.frame rfl rfl)
    · exact h.frame rfl rfl

theorem reserveLog_runsOn {u : UnitNo} (e : reserveLog u s = some t) (h : RunsOn r s) : RunsOn r t := by
  unfold reserveLog at e
  split at e
  · cases e; exact h.frame rfl rfl
  · cases e

/-! ### Units, sockets and soak positions -/

theorem reroute_runsOn (u : UnitNo) (h : RunsOn r s) : RunsOn r (reroute u s) := by
  unfold reroute
  repeat' split
  · exact h.frame rfl rfl
  all_goals exact h

theorem examineRetest_runsOn (u : UnitNo) (h : RunsOn r s) : RunsOn r (examineRetest u s) := by
  have hexamined : RunsOn r (modUnit u (UnitRec.examined s) s) := h.frame rfl rfl
  unfold examineRetest
  repeat' split
  · exact reroute_runsOn u hexamined
  · exact hexamined
  · exact h

theorem releaseSocket_runsOn (k : SocketIx) (h : RunsOn r s) : RunsOn r (releaseSocket k s) := by
  unfold releaseSocket; split
  · exact h.frame rfl rfl
  · exact h

theorem reserveSoak_runsOn {p : Purpose} {u : UnitNo} {x : SoakIx × State} (e : reserveSoak p u s = some x)
    (h : RunsOn r s) : RunsOn r x.2 := by
  unfold reserveSoak at e
  repeat' split at e
  all_goals cases e
  exact h.frame rfl rfl

/-! ### The review of the heads -/

theorem startTest_runsOn (k : HeadIx) (h : RunsOn r s) : RunsOn r (startTest k s) := by
  have htest : ∀ (l : List SocketIx) (s : State), RunsOn r s → RunsOn r (l.foldl testSocket s) :=
    RunsOn.foldl fun _ _ hs => hs.frame rfl rfl
  unfold startTest
  refine RunsOn.frame (s := List.foldl testSocket _ _) ?_ rfl rfl
  exact htest _ _ (h.frame rfl rfl)

theorem grantHead_runsOn (k : HeadIx) (h : RunsOn r s) : RunsOn r (grantHead k s) :=
  startTest_runsOn k (h.frame rfl rfl)

theorem requestHead_runsOn (k : HeadIx) (h : RunsOn r s) : RunsOn r (requestHead k s) := by
  unfold requestHead
  repeat' split
  · exact grantHead_runsOn k h
  · exact h
  · exact h.frame rfl rfl
  · exact h

theorem enterFill_runsOn (k : HeadIx) (h : RunsOn r s) : RunsOn r (enterFill k s) := by
  unfold enterFill; dsimp only; split <;> exact h.frame rfl rfl

theorem idleToFill_runsOn (k : HeadIx) (h : RunsOn r s) : RunsOn r (idleToFill k s) := by
  unfold idleToFill; split
  · exact h.frame rfl rfl
  · exact h

theorem startWaitBack_runsOn (k : HeadIx) (h : RunsOn r s) : RunsOn r (startWaitBack k s) := by
  unfold startWaitBack; split
  · exact enterFill_runsOn k (h.frame rfl rfl)
  · exact h

theorem fillToIdle_runsOn (k : HeadIx) (h : RunsOn r s) : RunsOn r (fillToIdle k s) := by
  unfold fillToIdle; split
  · exact h.frame rfl rfl
  · exact h

theorem fillUnloaded_runsOn (k : HeadIx) (h : RunsOn r s) : RunsOn r (fillUnloaded k s) := by
  unfold fillUnloaded; split
  · exact h.frame rfl rfl
  · exact h

theorem startIfReady_runsOn (k : HeadIx) (h : RunsOn r s) : RunsOn r (startIfReady k s) := by
  unfold startIfReady; split
  · exact requestHead_runsOn k (h.frame rfl rfl)
  · exact h

theorem reviewHead_runsOn (k : HeadIx) (h : RunsOn r s) : RunsOn r (reviewHead k s) :=
  startIfReady_runsOn k (fillUnloaded_runsOn k (fillToIdle_runsOn k (startWaitBack_runsOn k (idleToFill_runsOn k h))))

theorem headsFollow_runsOn (before : State) (h : RunsOn r s) : RunsOn r (headsFollow before s) := by
  have hactive : RunsOn r (examineActive before s) := by
    unfold examineActive; split
    · exact h
    · exact RunsOn.foldl (fun _ _ => examineRetest_runsOn _) _ _ h
  refine RunsOn.foldl (fun s k hs => ?_) _ _ hactive
  split
  · exact hs
  · exact reviewHead_runsOn k hs

theorem headsReturn_runsOn (h : RunsOn r s) : RunsOn r (headsReturn s) :=
  RunsOn.foldl (fun _ _ => reviewHead_runsOn _) _ _ (RunsOn.foldl (fun _ _ => requestHead_runsOn _) _ _ h)

/-! ### The legs of a trip -/

theorem socketLeg_runsOn (n : NozzleIx) (u : UnitNo) (p : Option Place) (k : SocketIx) (h : RunsOn r s) :
    RunsOn r (socketLeg n u p k s).2 := h.frame rfl rfl

theorem soakLeg_runsOn {n : NozzleIx} {u : UnitNo} {p : Option Place} {q : Purpose} {x : Leg × State}
    (e : soakLeg n u p q s = some x) (h : RunsOn r s) : RunsOn r x.2 := by
  unfold soakLeg at e
  split at e
  · rename_i e'
    cases e
    exact (reserveSoak_runsOn e' h).frame rfl rfl
  · cases e

theorem stagedLeg_runsOn (n : NozzleIx) (x : UnitRec) (h : RunsOn r s) : RunsOn r (stagedLeg n x s).2 := by
  unfold stagedLeg
  repeat' split
  · rename_i e; exact soakLeg_runsOn e h
  · exact h
  · exact socketLeg_runsOn n x.no none _ h
  · exact examineRetest_runsOn _ h

theorem nozzleLeg_runsOn (n : NozzleIx) (h : RunsOn r s) : RunsOn r (nozzleLeg n s).2 := by
  unfold nozzleLeg
  split
  · exact h
  · split_ifs
    · exact stagedLeg_runsOn _ _ h
    · split
      · rename_i e; exact soakLeg_runsOn e h
      · exact h
    · split
      · rename_i e; exact soakLeg_runsOn e h
      · exact h
    · exact h

theorem nozzleLegs_runsOn {leg : NozzleIx → State → Option Leg × State}
    (hf : ∀ n s, RunsOn r s → RunsOn r (leg n s).2) :
    ∀ (ns : List NozzleIx) (s : State), RunsOn r s → RunsOn r (nozzleLegs leg ns s).2
  | [], _, h => h
  | n :: ns, s, h => by
    have hfirst := hf n s h
    unfold nozzleLegs
    split <;> rename_i e <;> rw [e] at hfirst <;> exact nozzleLegs_runsOn hf ns _ hfirst

theorem socketLegs_runsOn : ∀ (us : List UnitNo) (ns : List NozzleIx) (room : Nat) (s : State), RunsOn r s →
    RunsOn r (socketLegs us ns room s).2
  | [], _, _, _, h => h
  | _ :: _, [], _, _, h => h
  | _ :: _, _ :: _, 0, _, h => h
  | u :: us, n :: ns, room + 1, s, h => by
    unfold socketLegs
    split
    · rename_i x k _
      exact socketLegs_runsOn us ns room _ ((socketLeg_runsOn n u (soakSource x) k h).frame rfl rfl)
    · exact socketLegs_runsOn us (n :: ns) (room + 1) s h

theorem inputDestination_runsOn {x : Place × Reservation × Option Purpose × State}
    (e : inputDestination s = some x) (h : RunsOn r s) : RunsOn r x.2.2.2 := by
  unfold inputDestination at e
  split at e
  · obtain ⟨x, e', rfl⟩ := Option.map_eq_some_iff.1 e
    exact reserveSoak_runsOn e' h
  · obtain ⟨k, -, rfl⟩ := Option.map_eq_some_iff.1 e
    exact h.frame rfl rfl

theorem inputLegs_runsOn : ∀ (ns : List NozzleIx) (limit : Nat) (s : State), RunsOn r s →
    RunsOn r (inputLegs ns limit s).2
  | [], _, _, h => h
  | _ :: _, 0, _, h => h
  | n :: ns, limit + 1, s, h => by
    unfold inputLegs
    split_ifs
    · exact h
    · split
      · exact h
      · rename_i e
        split
        · exact h
        · rename_i e'
          exact inputLegs_runsOn ns limit _ (planInputPick_runsOn e' ((inputDestination_runsOn e h).frame rfl rfl))

theorem stagingLegs_runsOn (k : HeadIx) : ∀ (us : List UnitNo) (ns : List NozzleIx) (s : State), RunsOn r s →
    RunsOn r (stagingLegs k us ns s).2
  | [], _, _, h => h
  | _ :: _, [], _, h => h
  | u :: us, n :: ns, s, h => by
    have hexamined := examineRetest_runsOn u h
    unfold stagingLegs
    dsimp only
    repeat' split
    · exact stagingLegs_runsOn k us ns _ (hexamined.frame rfl rfl)
    · exact stagingLegs_runsOn k us (n :: ns) _ hexamined
    · exact stagingLegs_runsOn k us (n :: ns) _ hexamined

theorem pocketLeg_runsOn {n : NozzleIx} {u : UnitNo} {p : Option Place} {k : PairIx} {x : Leg × State}
    (e : pocketLeg n u p k s = some x) (h : RunsOn r s) : RunsOn r x.2 := by
  unfold pocketLeg at e
  split at e
  · cases e
  · rename_i e'
    obtain ⟨y, htake, rfl⟩ := Option.map_eq_some_iff.1 e
    exact takePocket_runsOn htake (reserveLog_runsOn e' h)

theorem chuteLeg_runsOn {n : NozzleIx} {u : UnitNo} {p : Option Place} {x : Leg × State}
    (e : chuteLeg n u p s = some x) (h : RunsOn r s) : RunsOn r x.2 := by
  obtain ⟨t, hlog, rfl⟩ := Option.map_eq_some_iff.1 e
  exact reserveLog_runsOn hlog h

theorem unloadLeg_runsOn {n : NozzleIx} {u : UnitRec} {p : Option Place} {x : Leg × State}
    (e : unloadLeg n u p s = some x) (h : RunsOn r s) : RunsOn r x.2 := by
  unfold unloadLeg at e
  repeat' split at e
  · exact pocketLeg_runsOn e h
  · exact chuteLeg_runsOn e h
  · cases e
  · exact chuteLeg_runsOn e h
  all_goals exact soakLeg_runsOn e h

theorem unloadNozzleLeg_runsOn (n : NozzleIx) (h : RunsOn r s) : RunsOn r (unloadNozzleLeg n s).2 := by
  unfold unloadNozzleLeg
  repeat' split
  · exact h
  · rename_i e; exact unloadLeg_runsOn e h
  · exact h

theorem pickupLegs_runsOn : ∀ (us : List UnitNo) (ns : List NozzleIx) (s : State), RunsOn r s →
    RunsOn r (pickupLegs us ns s).2
  | [], _, _, h => h
  | _ :: _, [], _, h => h
  | u :: us, n :: ns, s, h => by
    unfold pickupLegs
    split
    · rename_i e
      obtain ⟨x, -, e'⟩ := Option.bind_eq_some_iff.1 e
      exact pickupLegs_runsOn us ns _ (unloadLeg_runsOn e' h)
    · exact pickupLegs_runsOn us (n :: ns) s h

/-! ### Trips and evaluations -/

theorem placeOrders_runsOn (g : Gantry) (os : List Order) (h : RunsOn r s) : RunsOn r (placeOrders g os s) :=
  (modQueue_runsOn g (fun _ => numbered s.xpl.nextOrderId os) h).frame rfl rfl

theorem placeLoadTrip_runsOn (k : TripKind) (b : Bool) (ls : List Leg) (h : RunsOn r s) :
    RunsOn r (placeLoadTrip k b ls s) := (placeOrders_runsOn .load (tripOrders b ls) h).frame rfl rfl

theorem planPark_runsOn (g : Gantry) (h : RunsOn r s) : RunsOn r (planPark g s) := by
  unfold planPark; split
  · exact placeOrders_runsOn _ _ h
  · exact h

theorem inputTrip_runsOn (e : inputTrip s = some t) (h : RunsOn r s) : RunsOn r t := by
  unfold inputTrip at e
  dsimp only at e
  split at e
  · have hlegs := inputLegs_runsOn (freeNozzles .load s) (if s.ltc.params.soakTime = 0 then 3 else 4) s h
    split at e
    · cases e
    · rename_i e'
      cases e
      simp only [decide_eq_true_eq] at e'
      rw [e'] at hlegs
      exact placeLoadTrip_runsOn _ _ _ hlegs
  · cases e

theorem stagingTrip_runsOn (h : RunsOn r s) : RunsOn r (stagingTrip s).2 := by
  unfold stagingTrip
  split_ifs
  · split
    · exact h
    · rename_i k _ _
      split_ifs
      · have hlegs := stagingLegs_runsOn k s.xpl.readyList (freeNozzles .load s) s h
        split <;> rename_i e <;> rw [e] at hlegs
        · exact hlegs
        · exact placeLoadTrip_runsOn _ _ _ hlegs
      · exact h.frame rfl rfl
  · exact h

theorem planLoad_runsOn (h : RunsOn r s) : RunsOn r (planLoad s) := by
  have hnozzles := nozzleLegs_runsOn (fun n s => nozzleLeg_runsOn (s := s) n) allNozzles s h
  unfold planLoad
  split <;> rename_i e <;> rw [e] at hnozzles
  · exact placeLoadTrip_runsOn _ _ _ hnozzles
  · rename_i t
    have hsockets : RunsOn r (if lotTesting t then socketLegs t.xpl.readyList (freeNozzles .load t) 3 t
        else ([], t)).2 := by
      split
      · exact socketLegs_runsOn _ _ _ _ hnozzles
      · exact hnozzles
    split <;> rename_i e' <;> rw [e'] at hsockets
    · exact placeLoadTrip_runsOn _ _ _ hsockets
    · split
      · rename_i e''; exact inputTrip_runsOn e'' hsockets
      · have hstaging := stagingTrip_runsOn hsockets
        split <;> rename_i e'' <;> rw [e''] at hstaging
        · exact hstaging
        · exact planPark_runsOn _ hstaging

theorem planUnload_runsOn (h : RunsOn r s) : RunsOn r (planUnload s) := by
  have hnozzles := nozzleLegs_runsOn (fun n s => unloadNozzleLeg_runsOn (s := s) n) allNozzles s h
  unfold planUnload
  split <;> rename_i e <;> rw [e] at hnozzles
  · exact placeOrders_runsOn _ _ hnozzles
  · rename_i t
    have hpickups := pickupLegs_runsOn (doneUnits t ++ plateUnits t) (freeNozzles .unload t) t hnozzles
    split <;> rename_i e' <;> rw [e'] at hpickups
    · exact placeOrders_runsOn _ _ hpickups
    · exact planPark_runsOn _ hpickups

theorem evaluate_runsOn (g : Gantry) (h : RunsOn r s) : RunsOn r (evaluate g s) := by
  unfold evaluate
  split
  · cases g
    · exact planLoad_runsOn h
    · exact planUnload_runsOn h
  · exact h

theorem inEitherOrder_runsOn {e f : State → State} (he : ∀ s, RunsOn r s → RunsOn r (e s))
    (hf : ∀ s, RunsOn r s → RunsOn r (f s)) (h : RunsOn r s) : RunsOn r (inEitherOrder e f s) := by
  have hdrawn : RunsOn r { s with free := s.free + 1 } := h.frame rfl rfl
  rcases inEitherOrder_cases e f s with heq | heq <;> rw [heq]
  · exact he _ (hf _ hdrawn)
  · exact hf _ (he _ hdrawn)

theorem evaluateBoth_runsOn (h : RunsOn r s) : RunsOn r (evaluateBoth s) := by
  unfold evaluateBoth
  split
  · exact inEitherOrder_runsOn (fun _ => evaluate_runsOn _) (fun _ => evaluate_runsOn _) h
  · exact evaluate_runsOn _ (evaluate_runsOn _ h)

/-! ### Issue attempts: a hold point alone leaves RUN (R95, R169) -/

theorem sendOrder_runsOn (g : Gantry) (o : Order) (c : Int × Int) (h : RunsOn r s) : RunsOn r (sendOrder g o c s) := by
  unfold sendOrder setStatus
  dsimp only
  split
  · exact modQueue_runsOn _ _ (modGsq_runsOn _ _ h)
  · exact RunsOn.frame (modQueue_runsOn _ _ (modGsq_runsOn _ _ h)) (setParked_rcu ..) (setParked_clu ..)

theorem releaseFirst_runsOn (z : HeadIx) (h : RunsOn r s) : RunsOn r (releaseFirst z s) := by
  unfold releaseFirst
  dsimp only
  repeat' split
  · exact grantHead_runsOn _ (h.frame rfl rfl)
  · exact sendOrder_runsOn _ _ _ (h.frame rfl rfl)
  all_goals exact h.frame rfl rfl

theorem setGrant_runsOn (g : Gantry) (v : Option Nat) (h : RunsOn r s) : RunsOn r (setGrant g v s) := by
  cases g <;> exact ⟨h.points, h.settle, h.told, h.stays⟩

theorem enterHold_clu (c : HoldCauses) (arg : List Byte) (s : State) :
    (enterHold c arg s).clu = (raise .holdEntered (n8 c.code ++ arg) s).clu := by rw [enterHold_eq]

theorem setGrant_setHeld_clu (g : Gantry) (v w : Option Nat) (s : State) :
    (setHeld g w (setGrant g v s)).clu = s.clu := by cases g <;> rfl

theorem heldAt_told (i : Fin 4) (g : Gantry) (o : Order) (s : State) :
    (heldAt i g o s).clu.args[20] = s.clu.args[20] := by
  rw [heldAt, setGantry, modGsq_clu, enterHold_clu]
  exact (raise_args_other (f := .holdEntered) (i := 20) (by decide) _ _).trans
    (congrArg (fun c : Clu => c.args[20]) (setGrant_setHeld_clu ..))

theorem checkHoldPoint_runsOn (g : Gantry) (o : Order) (h : RunsOn r s) : RunsOn r (checkHoldPoint g o s).2 := by
  by_cases hgrant : passGrant g s = some o.id
  · rw [checkHoldPoint_of_granted hgrant]
    exact setGrant_runsOn g none h
  cases hm : matchingEntry o s with
  | none =>
    rw [checkHoldPoint_of_unmatched hgrant hm]
    exact setGrant_runsOn g none h
  | some i =>
    rw [checkHoldPoint_of_matched hgrant hm]
    have hrcu := heldAt_rcu i g o s
    refine ⟨?_, fun _ => by rw [hrcu], (heldAt_told ..).trans h.told, fun hoff => ?_⟩
    · rw [hrcu]; exact (setGrant_holdPoints ..).trans h.points
    · have hnone : matchingEntry o s = none := matchingEntry_eq_none fun j hj => by
        have hon := ((HoldPoint.matchesOrder_iff _ o).1 hj).1
        rw [h.points, hoff j] at hon
        cases hon
      rw [hnone] at hm
      cases hm

theorem checksBefore_runsOn (g : Gantry) (o : Order) (h : RunsOn r s) : RunsOn r (checksBefore g o s).2 := by
  have hcheck := checkHoldPoint_runsOn g o h
  have hzone : ∀ (z : HeadIx) (s : State), RunsOn r s → RunsOn r (requestZone g z s).2 := fun z s hs => by
    unfold requestZone; split <;> exact hs.frame rfl rfl
  unfold checksBefore
  split
  · exact setGantry_runsOn _ _ h
  · split <;> rename_i e <;> rw [e] at hcheck
    · exact hcheck
    · split
      · exact hcheck
      · rename_i z _
        have hasked := hzone z _ hcheck
        split <;> rename_i e' <;> rw [e'] at hasked
        · exact hasked
        · exact setGantry_runsOn _ _ hasked

theorem countRealign_runsOn (u : UnitNo) (k : SocketIx) (h : RunsOn r s) : RunsOn r (countRealign u k s) := by
  unfold countRealign
  dsimp only
  split
  · exact raise_runsOn _ _ (h.frame rfl rfl)
  · exact h.frame rfl rfl

theorem replaceDiverted_runsOn (o : Order) (u : UnitNo) (h : RunsOn r s) : RunsOn r (replaceDiverted o u s) := by
  unfold replaceDiverted
  split
  · rename_i e
    exact RunsOn.frame (reserveSoak_runsOn e h) rfl rfl
  · exact RunsOn.frame h rfl rfl

theorem divert_runsOn (o : Order) (u : UnitNo) (k : SocketIx) (v : Bool) (h : RunsOn r s) :
    RunsOn r (divert o u k v s) := by
  have hraised : RunsOn r (raise (if v then .alignVoid else .alignOut) (alignArg u k) s) :=
    raise_runsOn _ _ h (by cases v <;> decide)
  have hzone : ∀ s, RunsOn r s → RunsOn r (releaseLoad (headOf k) s) := fun s hs => by
    unfold releaseLoad; split
    · exact releaseFirst_runsOn _ hs
    · exact hs
  exact setGantry_runsOn _ _ (replaceDiverted_runsOn _ _ (countRealign_runsOn _ _ (hzone _
    (headsFollow_runsOn _ (releaseSocket_runsOn _ hraised)))))

theorem applyFlags_runsOn (u : UnitNo) (k : SocketIx) (a b : Bool) (h : RunsOn r s) :
    RunsOn r (applyFlags u k a b s) := by
  unfold applyFlags
  dsimp only
  repeat' split
  · exact raise_runsOn _ _ (raise_runsOn _ _ (h.frame rfl rfl))
  · exact raise_runsOn _ _ (h.frame rfl rfl)
  · exact raise_runsOn _ _ (h.frame rfl rfl)
  · exact h.frame rfl rfl

theorem coordinateLoad_runsOn (o : Order) (h : RunsOn r s) : RunsOn r (coordinateLoad o s).2 := by
  unfold coordinateLoad
  repeat' split
  · exact sendOrder_runsOn _ _ _ h
  · exact sendOrder_runsOn _ _ _ (applyFlags_runsOn _ _ _ _ h)
  · exact divert_runsOn _ _ _ _ h

theorem attemptLoad_runsOn : ∀ (n : Nat) (s : State), RunsOn r s → RunsOn r (attemptLoad n s)
  | 0, _, h => h
  | n + 1, s, h => by
    unfold attemptLoad
    split_ifs
    · split
      · exact h
      · rename_i o _
        have hchecks := checksBefore_runsOn .load o h
        split <;> rename_i e <;> rw [e] at hchecks
        · exact hchecks
        · have hcoords := coordinateLoad_runsOn o hchecks
          split <;> rename_i e' <;> rw [e'] at hcoords
          · exact hcoords
          · exact attemptLoad_runsOn n _ hcoords
    · exact h

theorem attemptUnload_runsOn (h : RunsOn r s) : RunsOn r (attemptUnload s) := by
  unfold attemptUnload
  split_ifs
  · split
    · exact h
    · rename_i o _
      have hchecks := checksBefore_runsOn .unload o h
      split <;> rename_i e <;> rw [e] at hchecks
      · exact hchecks
      · exact sendOrder_runsOn _ _ _ hchecks
  · exact h

theorem attemptBoth_runsOn (h : RunsOn r s) : RunsOn r (attemptBoth s) := by
  have hattempt : ∀ (g : Gantry) (s : State), RunsOn r s → RunsOn r (attempt g s) := fun g s hs => by
    cases g
    · exact attemptLoad_runsOn _ _ hs
    · exact attemptUnload_runsOn hs
  unfold attemptBoth
  split
  · exact inEitherOrder_runsOn (hattempt .load) (hattempt .unload) h
  · exact hattempt .unload _ (hattempt .load _ h)

theorem rounds_runsOn : ∀ (n : Nat) (s : State), RunsOn r s → RunsOn r (rounds n s)
  | 0, _, h => h
  | n + 1, s, h => by
    have hissued : RunsOn r (issueRound s (evaluateBoth s)) :=
      headsFollow_runsOn _ (attemptBoth_runsOn (evaluateBoth_runsOn h))
    unfold rounds
    dsimp only
    split
    · exact hissued
    · exact rounds_runsOn n _ hissued

theorem settle_runsOn (h : RunsOn r s) : RunsOn r (settle s) := rounds_runsOn _ _ h

end Sys2Proof.Machine
end

section
/-! PROOF. The expiries (R108, R164, R124, R72, R130, R12, R67, R173), the ready sequence number of a unit that becomes
READY (R59), and the return to RUN (R164, R133). -/
namespace Sys2Proof.Machine

variable {s t w : State} {u : UnitNo} {r : UnitRec}

/-! ### The ready sequence number (R59) -/

/-- The ready count and the rank of every unit stay (R59). -/
structure KeepsRanks (s t : State) : Prop where
  count : t.xpl.readySeq = s.xpl.readySeq
  record : ∀ u r, findUnit u s = some r → ∃ r', findUnit u t = some r' ∧ r'.readySeq = r.readySeq

theorem KeepsRanks.refl (s : State) : KeepsRanks s s := ⟨rfl, fun _ r h => ⟨r, h, rfl⟩⟩

theorem KeepsRanks.trans (a : KeepsRanks s t) (b : KeepsRanks t w) : KeepsRanks s w where
  count := b.count.trans a.count
  record u r h := by
    obtain ⟨r', hr', hrank⟩ := a.record u r h
    obtain ⟨q, hq, hsame⟩ := b.record u r' hr'
    exact ⟨q, hq, hsame.trans hrank⟩

theorem KeepsRanks.onReadyList (s : State) (l : List UnitNo) :
    KeepsRanks s { s with xpl := { s.xpl with readyList := l } } := ⟨rfl, fun _ r h => ⟨r, h, rfl⟩⟩

theorem KeepsRanks.modUnit (s : State) (u : UnitNo) {f : UnitRec → UnitRec}
    (hf : ∀ x, (f x).no = x.no ∧ (f x).readySeq = x.readySeq := by exact fun _ => ⟨rfl, rfl⟩) :
    KeepsRanks s (modUnit u f s) where
  count := rfl
  record v r h := by
    by_cases hv : v = u
    · subst hv; exact ⟨f r, findUnit_modUnit_same h (fun x => (hf x).1), (hf r).2⟩
    · exact ⟨r, (findUnit_modUnit_other hv (fun x => (hf x).1)).trans h, rfl⟩

theorem reroute_keepsRanks (u : UnitNo) (s : State) : KeepsRanks s (reroute u s) := by
  unfold reroute
  repeat' split
  · exact (KeepsRanks.modUnit s u).trans (.onReadyList _ _)
  all_goals exact .refl s

theorem examineRetest_keepsRanks (u : UnitNo) (s : State) : KeepsRanks s (examineRetest u s) := by
  have hexamined : KeepsRanks s (modUnit u (UnitRec.examined s) s) := .modUnit s u
  unfold examineRetest
  dsimp only
  repeat' split
  · exact hexamined.trans (reroute_keepsRanks _ _)
  · exact hexamined
  · exact .refl s

theorem addReady_keepsRanks (u : UnitNo) (s : State) : KeepsRanks s (addReady u s) := by
  unfold addReady
  repeat' split
  · exact .onReadyList _ _
  all_goals exact .refl s

/-- A unit with its next rank, before it is examined and listed. -/
def ranked (u : UnitNo) (s : State) : State :=
  s |> modUnit u (fun r => { r with state := .ready, readySeq := s.xpl.readySeq })
    |> modXpl (fun x => { x with readySeq := x.readySeq + 1 })

theorem becomeReady_keepsRanks (u : UnitNo) (s : State) : KeepsRanks (ranked u s) (becomeReady u s) :=
  (examineRetest_keepsRanks u _).trans (addReady_keepsRanks u _)

/-- A unit that becomes READY has the ready count as its rank, and the count goes on (R59). -/
theorem becomeReady_rank (h : findUnit u s = some r) : ∃ r', findUnit u (becomeReady u s) = some r'
    ∧ r'.state = .ready ∧ r'.readySeq = s.xpl.readySeq ∧ (becomeReady u s).xpl.readySeq = s.xpl.readySeq + 1 := by
  obtain ⟨r', hr', hstate, -⟩ := findUnit_becomeReady h
  obtain ⟨q, hq, hrank⟩ := (becomeReady_keepsRanks u s).record u _ (findUnit_modUnit_same h)
  obtain rfl : r' = q := Option.some.inj (hr'.symm.trans hq)
  exact ⟨r', hr', hstate, hrank, (becomeReady_keepsRanks u s).count⟩

/-! ### The return to RUN (R164, R133) -/

/-- The part in RUN with its timers resumed, before the heads, the gantries and the planner follow (log entry 7). -/
def runResumed (s : State) : State :=
  s |> modRcu (fun r => { r with run := .run, settle := none }) |> raise .resumed (n8 0) |> resumeTimers

theorem returnToRun_eq (s : State) : returnToRun s =
    settle (inEitherOrder headsReturn (inEitherOrder attemptBoth evaluateBoth) (runResumed s)) := rfl

theorem runResumed_clu (s : State) : (runResumed s).clu = (raise .resumed [0] s).clu := rfl

theorem runResumed_told (s : State) :
    (runResumed s).clu.raised.getLsbD 20 = true ∧ (runResumed s).clu.args[20] = [0] := by
  rw [runResumed_clu]
  exact ⟨raise_raised .resumed _ _, raise_args .resumed _ _⟩

theorem runResumed_heads (s : State) (h : HeadIx) : (runResumed s).hsc.heads[h] = { s.hsc.heads[h] with
    fill := s.hsc.heads[h].fill.resume s.now, test := s.hsc.heads[h].test.resume s.now } := by
  simp [runResumed, resumeTimers]

/-- The bits of the factors raised at the return to RUN stay raised. -/
theorem returnToRun_raised (s : State) : (returnToRun s).clu.raised.getLsbD 20 = true :=
  (settle_keeps (inEitherOrder_keeps (fun _ => headsReturn_keeps) (fun _ => inEitherOrder_keeps
    (fun _ => attemptBoth_keeps) (fun _ => evaluateBoth_keeps)) (.refl (runResumed s)))).raised 20 (runResumed_told s).1

theorem returnToRun_runsOn (s : State) : RunsOn (runResumed s) (returnToRun s) :=
  settle_runsOn (inEitherOrder_runsOn (fun _ => headsReturn_runsOn) (fun _ => inEitherOrder_runsOn
    (fun _ => attemptBoth_runsOn) (fun _ => evaluateBoth_runsOn)) (.refl (runResumed s)))

/-! ### The expiry commands (log entry 3) -/

theorem next_live {f : State → State} (h : s.pins.resetLow = false) :
    (Host.Outcome.next (live f s) : Host.Outcome State Fault Refusal) = .next (startTx (f s)) :=
  congrArg Host.Outcome.next (if_neg (by simp [h]))

theorem LinkRx.gap_of_passed {now : Time} {x : LinkRx} (h : x.gapPassed now = true) : x.gap now = .hunting := if_pos h

theorem exec_byteGapTimeout (l : Link) (h : s.pins.resetLow = false) :
    exec (.byteGapTimeout l) s = .next (startTx (if gapDue l s then gapTimeout l s else s)) := next_live h

theorem gapTimeout_cell (h : gapDue .cell s = true) :
    gapTimeout .cell s = { s with clu := { s.clu with rx := .hunting } } :=
  congrArg (fun x => ({ s with clu := { s.clu with rx := x } } : State)) (LinkRx.gap_of_passed h)

theorem gapTimeout_drive {g : Gantry} (h : gapDue (.drive g) s = true) :
    gapTimeout (.drive g) s = modGsq g (fun q => { q with rx := .hunting }) s := by
  have hgap : (gsq g s).rx.gap s.now = .hunting := LinkRx.gap_of_passed h
  cases g
  · exact congrArg (fun x => ({ s with gsqL := { s.gsqL with rx := x } } : State)) hgap
  · exact congrArg (fun x => ({ s with gsqU := { s.gsqU with rx := x } } : State)) hgap

/-- Settles O58: each command by `next_live`, and the return to RUN by what stays of its first half. -/
theorem expiriesActWhenTheyHaveCome : Obligations.ExpiriesActWhenTheyHaveCome := by
  intro s hr
  refine ⟨fun g => next_live hr, next_live hr, fun h => next_live hr, fun h => next_live hr, fun u => next_live hr,
    next_live hr, fun l hl => ?notPassed, fun hl => ?cell, fun g hl => ?drive, fun u r h => becomeReady_rank h,
    ⟨runResumed s, returnToRun_eq s, rfl, (runResumed_told s).1, (runResumed_told s).2, fun h => ?heads, rfl, rfl, rfl,
      rfl, rfl, rfl, rfl, rfl, rfl, rfl, rfl⟩, returnToRun_raised s, ?told, ?settled, fun hoff => ?stays⟩
  case notPassed =>
    rw [exec_byteGapTimeout l hr, if_neg (by simp [hl])]
  case cell => rw [exec_byteGapTimeout _ hr, if_pos hl, gapTimeout_cell hl]
  case drive => rw [exec_byteGapTimeout _ hr, if_pos hl, gapTimeout_drive hl]
  case heads => exact runResumed_heads s h
  case told => exact (returnToRun_runsOn s).told.trans (runResumed_told s).2
  case settled => exact (returnToRun_runsOn s).settle rfl
  case stays => exact (returnToRun_runsOn s).stays hoff

end Sys2Proof.Machine
end

section
/-! PROOF. The requests that store values and do nothing else: what is taught, the settings of the lot, hold points and
flag protection, and the notice masks (R23, R25, R77, R145, R146, R168, R170, R179, R182). -/
namespace Sys2Proof.Machine

variable {s t : State}

/-- What a request that only stores values leaves: the tester lines, the heads, the states of the sockets, the zones, and
run control but for the hold points and flag protection. -/
structure StoresOnly (s t : State) : Prop where
  lines : (t.pins.sot, t.pins.ld, t.pins.resetLow) = (s.pins.sot, s.pins.ld, s.pins.resetLow) := by rfl
  heads : t.hsc.heads = s.hsc.heads := by rfl
  sockets : ∀ k : SocketIx, t.hsc.sockets[k].state = s.hsc.sockets[k].state := by exact fun _ => rfl
  zones : t.zar = s.zar := by rfl
  rcu : t.rcu = { s.rcu with holdPoints := t.rcu.holdPoints, clearInHold := t.rcu.clearInHold } := by rfl

theorem StoresOnly.refl (s : State) : StoresOnly s s := {}

theorem teach_storesOnly {ranges prerequisites : Bool} {reach : List (Half × Bool)} {store : State → State}
    (hs : StoresOnly s (store s)) : StoresOnly s (teach ranges prerequisites reach store s).1 :=
  teach_induct (.refl s) hs

theorem serveSetupAxis_storesOnly (axis : Byte) (k : Half) (lmax park : Word) :
    StoresOnly s (serveSetupAxis axis k lmax park s).1 := by
  unfold serveSetupAxis; split <;> exact teach_storesOnly {}

theorem serveSetupSocket_storesOnly (socket : Byte) (lx ly ux uy : Word) (tx ty w : Half) (policy : Byte) :
    StoresOnly s (serveSetupSocket socket lx ly ux uy tx ty w policy s).1 := by
  unfold serveSetupSocket; split
  · rename_i k _ _ _
    refine teach_storesOnly { sockets := fun j => ?_ }
    by_cases hj : j = k
    · subst hj; rw [modSocket_same]
    · rw [modSocket_other _ _ _ _ hj]
  · exact teach_storesOnly {}

theorem serveSetupStation_storesOnly (station : Byte) (part : StationPart) :
    StoresOnly s (serveSetupStation station part s).1 := by
  unfold serveSetupStation serveSetupTray serveSetupNest
  split <;> split <;> exact teach_storesOnly {}

theorem serveLotOpen_storesOnly (lot : Half) : StoresOnly s (serveLotOpen lot s).1 := by
  unfold serveLotOpen; split <;> exact {}

theorem serveSetLot_storesOnly (es : List ParamArg) : StoresOnly s (serveSetLot es s).1 := by
  unfold serveSetLot; split_ifs <;> exact {}

theorem serveSetBin_storesOnly (es : List BinArg) : StoresOnly s (serveSetBin es s).1 := by
  unfold serveSetBin; split_ifs <;> exact {}

theorem serveSetCategory_storesOnly (es : List CategoryArg) : StoresOnly s (serveSetCategory es s).1 := by
  unfold serveSetCategory; split_ifs <;> exact {}

theorem serveSetHoldpoint_storesOnly (x kind : Byte) (value : Word) (enabled : Byte) :
    StoresOnly s (serveSetHoldpoint x kind value enabled s).1 := by
  unfold serveSetHoldpoint
  repeat' split
  all_goals exact {}

theorem serveSetProtect_storesOnly (v : Byte) : StoresOnly s (serveSetProtect v s).1 := by
  unfold serveSetProtect; split <;> exact {}

theorem serveNoticeEnable_storesOnly (m : Word) : StoresOnly s (serveNoticeEnable m s).1 := by
  unfold serveNoticeEnable; split <;> exact {}

theorem serveNoticeClear_storesOnly (m : Word) : StoresOnly s (serveNoticeClear m s).1 := by
  unfold serveNoticeClear; split_ifs <;> exact {}

/-- All of them but LOT_START and SET_MODE, after which heads and gantries move. -/
theorem serve_storesOnly (q : Request) (hq : storesValues q = true) (hstart : q ≠ .lotStart)
    (hmode : ∀ m timeout delay, q ≠ .setMode m timeout delay) : StoresOnly s (serve q s).1 := by
  cases q with
  | setupAxis => exact serveSetupAxis_storesOnly _ _ _ _
  | setupCamera => exact teach_storesOnly {}
  | setupSocket => exact serveSetupSocket_storesOnly _ _ _ _ _ _ _ _ _
  | setupSoak => exact teach_storesOnly {}
  | setupStation => exact serveSetupStation_storesOnly _ _
  | setupChute => exact teach_storesOnly {}
  | lotOpen => exact serveLotOpen_storesOnly _
  | setLot => exact serveSetLot_storesOnly _
  | setBin => exact serveSetBin_storesOnly _
  | setCategory => exact serveSetCategory_storesOnly _
  | lotStart => exact absurd rfl hstart
  | setMode => exact absurd rfl (hmode _ _ _)
  | setHoldpoint => exact serveSetHoldpoint_storesOnly _ _ _ _
  | setProtect => exact serveSetProtect_storesOnly _
  | noticeEnable => exact serveNoticeEnable_storesOnly _
  | noticeClear => exact serveNoticeClear_storesOnly _
  | reset => exact {}
  | _ => cases hq

end Sys2Proof.Machine
end

section
/-! PROOF. The run state: hold causes in HOLD alone, the settle timer in RESUMING alone, settings in their ranges, and no
fill or test timer that counts outside RUN (R133, R160, R164, R171). -/
namespace Sys2Proof.Machine

variable {s t : State}

/-! ### Requests that store values -/

/-- A change that leaves run control and the heads as they are. -/
theorem RunInv.frame (i : RunInv s) (hr : t.rcu = s.rcu) (hh : t.hsc.heads = s.hsc.heads) : RunInv t :=
  i.congr hr fun _ h hs => by rw [hh]; exact hs

/-- The hold points, flag protection and the run mode are no part of the invariant. -/
theorem RunInv.onRcu (i : RunInv s) {v : Rcu} (hrun : v.run = s.rcu.run) (hcauses : v.causes = s.rcu.causes)
    (hsettle : v.settle = s.rcu.settle) (hdelay : v.settleDelay ≤ 5000)
    (htimeout : 50 ≤ v.driveTimeout ∧ v.driveTimeout ≤ 30000) : RunInv { s with rcu := v } where
  causes := by rw [hrun, hcauses]; exact i.causes
  settle := by rw [hrun, hsettle]; exact i.settle
  delay := hdelay
  timeout := htimeout
  timers := by rw [hrun]; exact i.timers

theorem RunInv.stores (i : RunInv s) (h : StoresOnly s t) : RunInv t :=
  (i.onRcu (v := { s.rcu with holdPoints := t.rcu.holdPoints, clearInHold := t.rcu.clearInHold }) rfl rfl rfl i.delay
    i.timeout).frame h.rcu h.heads

theorem serveLotStart_RunInv (i : RunInv s) : RunInv (serveLotStart s).1 := by
  have hstart : RunInv (startLot s) := i.frame rfl rfl
  unfold serveLotStart
  repeat' split
  · exact i
  · exact i
  · exact (settle_keeps (headsFollow_keeps _ (.refl _))).run hstart

theorem setRunMode_RunInv (m : RunMode) (i : RunInv s) : RunInv (setRunMode m s) := by
  have hmode : ∀ m, RunInv (modRcu (fun r => { r with mode := m }) s) := fun m =>
    i.onRcu rfl rfl rfl i.delay i.timeout
  unfold setRunMode; split
  · exact (clearCredits_keeps (.refl _)).run (hmode .single)
  · exact (Keeps.foldl (fun _ _ => requestHead_keeps _) _ _ (.refl _)).run (hmode .continuous)
  · exact i

/-- SET_MODE stores a timeout and a delay in their ranges alone (R171). -/
theorem serveSetMode_RunInv (mode : Byte) (timeout delay : Half) (i : RunInv s) :
    RunInv (serveSetMode mode timeout delay s).1 := by
  unfold serveSetMode
  split
  · split
    · rename_i hrange
      obtain ⟨hlow, hhigh, hdelay⟩ := hrange
      have hset : RunInv (modRcu (fun r => { r with driveTimeout := timeout.toNat, settleDelay := delay.toNat }) s) :=
        i.onRcu rfl rfl rfl hdelay ⟨hlow, hhigh⟩
      exact (settle_keeps (headsFollow_keeps _ (.refl _))).run (setRunMode_RunInv _ hset)
    · exact i
  · exact i

theorem serve_stores_RunInv (q : Request) (hq : storesValues q = true) (i : RunInv s) : RunInv (serve q s).1 := by
  by_cases hstart : q = .lotStart
  · subst hstart; exact serveLotStart_RunInv i
  · by_cases hmode : ∃ m timeout delay, q = .setMode m timeout delay
    · obtain ⟨m, timeout, delay, rfl⟩ := hmode
      exact serveSetMode_RunInv m timeout delay i
    · push Not at hmode
      exact i.stores (serve_storesOnly q hq hstart hmode)

/-! ### Every step -/

theorem RunInv.stepKept : StepKept RunInv where
  blocks k i := k.run i
  queue _ i := i.frame rfl rfl
  time _ i := i.frame rfl rfl
  lines _ i := i.frame rfl rfl
  link _ i := i.frame rfl rfl
  stores q hq i := serve_stores_RunInv q hq i
  reset _ := reset_RunInv.frame rfl rfl

/-- Settles O53: the operations of the blocks keep the run state's law (`Keeps.run`), SET_MODE alone stores a setting, in
its range, and a reset gives HOLD with no timer that counts. -/
theorem stepKeepsTheRunState : Obligations.StepKeepsTheRunState := fun _ _ i e => RunInv.stepKept.step i e

end Sys2Proof.Machine
end

section
/-! PROOF. What the operations outside the heads leave to the test heads: the lines of the tester, which sockets are
TESTING, the states of the heads, the holders of the zones with the heads' requests, the estimates and the capture
counters (R61, R32, R122, R126, R128, R136). -/
namespace Sys2Proof.Machine

variable {s t : State}

/-! ### The bench -/

/-- What the law of R126 and R128 reads of the part, with the two tables that a capture writes besides (R32, R61). -/
structure Bench where
  lines : Vector Bool 4 × Vector Bool 16 × Bool
  testing : SocketIx → Prop
  heads : HeadIx → HeadState
  zones : HeadIx → Holder × Bool
  counts : Vector Nat 4 × CaptureCounters

/-- The bench of a state. -/
def bench (s : State) : Bench where
  lines := (s.pins.sot, s.pins.ld, s.pins.resetLow)
  testing k := s.hsc.sockets[k].state = .testing
  heads h := s.hsc.heads[h].state
  zones z := (s.zar[z].holder, s.zar[z].head)
  counts := (s.xpl.estimates, s.ltc.captures)

theorem foldl_bench {α : Type} {f : State → α → State} (hf : ∀ s a, bench (f s a) = bench s) :
    ∀ (l : List α) (s : State), bench (l.foldl f s) = bench s
  | [], _ => rfl
  | a :: l, s => (foldl_bench hf l (f s a)).trans (hf s a)

/-! ### Changes of one block -/

@[simp] theorem raise_bench (f : Factor) (arg : List Byte) (s : State) : bench (raise f arg s) = bench s := rfl

@[simp] theorem modUnit_bench (u : UnitNo) (f : UnitRec → UnitRec) (s : State) : bench (modUnit u f s) = bench s := rfl

@[simp] theorem dropUnit_bench (u : UnitNo) (s : State) : bench (dropUnit u s) = bench s := rfl

@[simp] theorem modCounters_bench (f : UnitCounters → UnitCounters) (s : State) :
    bench (modCounters f s) = bench s := rfl

@[simp] theorem modUpt_bench (f : Upt → Upt) (s : State) : bench (modUpt f s) = bench s := rfl

@[simp] theorem modSoak_bench (p : SoakIx) (f : SoakPos → SoakPos) (s : State) : bench (modSoak p f s) = bench s := rfl

@[simp] theorem modFsc_bench (f : Fsc → Fsc) (s : State) : bench (modFsc f s) = bench s := rfl

@[simp] theorem modSrt_bench (f : Srt → Srt) (s : State) : bench (modSrt f s) = bench s := rfl

@[simp] theorem modOut_bench (st : OutStation) (f : OutRec → OutRec) (s : State) : bench (modOut st f s) = bench s := rfl

@[simp] theorem modPair_bench (p : PairIx) (f : PairRec → PairRec) (s : State) : bench (modPair p f s) = bench s := rfl

@[simp] theorem modRcu_bench (f : Rcu → Rcu) (s : State) : bench (modRcu f s) = bench s := rfl

@[simp] theorem modIn_bench (st : Side) (f : InStation → InStation) (s : State) : bench (modIn st f s) = bench s := by
  cases st <;> rfl

@[simp] theorem modGsq_bench (g : Gantry) (f : Gsq → Gsq) (s : State) : bench (modGsq g f s) = bench s := by
  cases g <;> rfl

@[simp] theorem setGantry_bench (g : Gantry) (st : GantryState) (s : State) : bench (setGantry g st s) = bench s :=
  modGsq_bench ..

@[simp] theorem modQueue_bench (g : Gantry) (f : List Order → List Order) (s : State) :
    bench (modQueue g f s) = bench s := by cases g <;> rfl

@[simp] theorem removeOrder_bench (g : Gantry) (id : Nat) (s : State) : bench (removeOrder g id s) = bench s :=
  modQueue_bench ..

@[simp] theorem setStatus_bench (g : Gantry) (id : Nat) (st : OrderStatus) (s : State) :
    bench (setStatus g id st s) = bench s := modQueue_bench ..

@[simp] theorem setParked_bench (g : Gantry) (b : Bool) (s : State) : bench (setParked g b s) = bench s := by
  cases g <;> rfl

theorem modXpl_bench (f : Xpl → Xpl) (s : State) (hf : (f s.xpl).estimates = s.xpl.estimates := by rfl) :
    bench (modXpl f s) = bench s := by
  simp [bench, hf]

theorem modLtc_bench (f : Ltc → Ltc) (s : State) (hf : (f s.ltc).captures = s.ltc.captures := by rfl) :
    bench (modLtc f s) = bench s := by
  simp [bench, hf]

/-- A change of a socket that neither begins nor ends its test. -/
theorem modSocket_bench (k : SocketIx) (f : SocketRec → SocketRec) (s : State)
    (hf : (f s.hsc.sockets[k]).state = .testing ↔ s.hsc.sockets[k].state = .testing) :
    bench (modSocket k f s) = bench s := by
  have hsocket : ∀ j : SocketIx, ((modSocket k f s).hsc.sockets[j].state = .testing)
      = (s.hsc.sockets[j].state = .testing) := fun j => propext (by
    by_cases hj : j = k
    · subst hj; rw [modSocket_same]; exact hf
    · rw [modSocket_other _ _ _ _ hj])
  simp only [bench, hsocket]
  rfl

/-- A change of a head that leaves its state. -/
theorem modHead_bench (h : HeadIx) (f : HeadRec → HeadRec) (s : State)
    (hf : (f s.hsc.heads[h]).state = s.hsc.heads[h].state := by rfl) : bench (modHead h f s) = bench s := by
  have hhead : ∀ j : HeadIx, (modHead h f s).hsc.heads[j].state = s.hsc.heads[j].state := fun j => by
    by_cases hj : j = h
    · subst hj; rw [modHead_same]; exact hf
    · rw [modHead_other _ _ _ _ hj]
  simp only [bench, hhead]
  rfl

theorem modHeads_bench (f : HeadRec → HeadRec) (s : State) (hf : ∀ x, (f x).state = x.state := by exact fun _ => rfl) :
    bench (modHeads f s) = bench s := by
  simp [bench, hf]

/-- A change of the gantries' requests. -/
theorem modZone_bench (z : HeadIx) (f : Zone → Zone) (s : State) (hh : (f s.zar[z]).holder = s.zar[z].holder := by rfl)
    (hr : (f s.zar[z]).head = s.zar[z].head := by rfl) : bench (modZone z f s) = bench s := by
  have hzone : ∀ j : HeadIx, ((modZone z f s).zar[j].holder, (modZone z f s).zar[j].head)
      = (s.zar[j].holder, s.zar[j].head) := fun j => by
    by_cases hj : j = z
    · subst hj; rw [modZone_same, hh, hr]
    · rw [modZone_other _ _ _ _ hj]
  simp only [bench, hzone]
  rfl

@[simp] theorem withdrawGantry_bench (g : Gantry) (s : State) : bench (withdrawGantry g s) = bench s := by
  cases g <;> simp [bench, withdrawGantry]

/-! ### Lots and feed stations -/

@[simp] theorem checkEmpty_bench (s : State) : bench (checkEmpty s) = bench s := by
  unfold checkEmpty; split
  · rw [becomeDrained, raise_bench]; exact modLtc_bench _ s
  · rfl

@[simp] theorem inputDone_bench (s : State) : bench (inputDone s) = bench s := by
  unfold inputDone; split
  · rw [checkEmpty_bench, raise_bench]; exact modLtc_bench _ s
  · rfl

@[simp] theorem activateIn_bench (st : Side) (s : State) : bench (activateIn st s) = bench s := by simp [activateIn]

@[simp] theorem handOver_bench (st : Side) (s : State) : bench (handOver st s) = bench s := by
  unfold handOver
  repeat' split
  all_goals simp

@[simp] theorem spendStation_bench (st : Side) (s : State) : bench (spendStation st s) = bench s := by
  simp [spendStation]

@[simp] theorem disarmStation_bench (st : Side) (s : State) : bench (disarmStation st s) = bench s := modIn_bench ..

@[simp] theorem trayCountEnds_bench (st : Side) (s : State) : bench (trayCountEnds st s) = bench s := by
  unfold trayCountEnds; dsimp only; split <;> simp

@[simp] theorem stepTrayCounter_bench (st : Side) (s : State) : bench (stepTrayCounter st s) = bench s := by
  unfold stepTrayCounter; dsimp only
  repeat' split
  all_goals simp

@[simp] theorem spendIfDone_bench (st : Side) (s : State) : bench (spendIfDone st s) = bench s := by
  unfold spendIfDone; dsimp only
  repeat' split
  all_goals simp

@[simp] theorem finishStation_bench (st : Side) (s : State) : bench (finishStation st s) = bench s := by
  simp [finishStation]

@[simp] theorem planPocket_bench (st : Side) (s : State) : bench (planPocket st s) = bench s := by
  unfold planPocket; dsimp only; split <;> simp

theorem planInputPick_bench {x : Side × InSlot × State} (e : planInputPick s = some x) : bench x.2.2 = bench s := by
  simp only [planInputPick] at e
  repeat' split at e
  all_goals cases e
  · exact planPocket_bench ..
  · exact modIn_bench ..

@[simp] theorem endInputPick_bench (st : Side) (e : PickEnd) (s : State) : bench (endInputPick st e s) = bench s := by
  unfold endInputPick runDry; dsimp only; rw [spendIfDone_bench]
  repeat' split
  all_goals simp

@[simp] theorem purgeStation_bench (st : Side) (s : State) : bench (purgeStation st s) = bench s := by
  unfold purgeStation; split <;> simp

@[simp] theorem purgeFeed_bench (s : State) : bench (purgeFeed s) = bench s := by simp [purgeFeed]

/-! ### Sorting and output -/

@[simp] theorem unready_bench (u : UnitNo) (s : State) : bench (unready u s) = bench s := rfl

@[simp] theorem reroute_bench (u : UnitNo) (s : State) : bench (reroute u s) = bench s := by
  unfold reroute
  repeat' split
  all_goals simp

@[simp] theorem purgeRoutes_bench (s : State) : bench (purgeRoutes s) = bench s := by
  refine foldl_bench (fun s u => ?_) _ s
  unfold purgeUnitRoute
  repeat' split
  all_goals simp

@[simp] theorem blockPair_bench (p : PairIx) (s : State) : bench (blockPair p s) = bench s := by
  rw [blockPair, foldl_bench (fun _ _ => raise_bench ..), modPair_bench]

@[simp] theorem outHandOver_bench (st : OutStation) (s : State) : bench (outHandOver st s) = bench s := by
  unfold outHandOver; dsimp only; split <;> simp

theorem takePocket_bench {p : PairIx} {x : OutStation × Pocket × State} (e : takePocket p s = some x) :
    bench x.2.2 = bench s := by
  unfold takePocket at e
  split at e
  · cases e
  · dsimp only at e
    split at e <;> cases e <;> simp

@[simp] theorem endOutPlace_bench (st : OutStation) (b : Bool) (s : State) : bench (endOutPlace st b s) = bench s := by
  rw [endOutPlace_eq]; split <;> simp

theorem reserveLog_bench {u : UnitNo} (e : reserveLog u s = some t) : bench t = bench s := by
  unfold reserveLog at e
  split at e <;> cases e
  rfl

@[simp] theorem releaseLog_bench (u : UnitNo) (s : State) : bench (releaseLog u s) = bench s := rfl

@[simp] theorem appendLog_bench (r : UnitRec) (dest : Place) (s : State) : bench (appendLog r dest s) = bench s := by
  unfold appendLog; split
  · exact raiseLogFactors_induct (motive := fun w => bench w = bench s) rfl (fun _ _ _ h => h)
  · rfl

/-! ### Sockets and spots -/

@[simp] theorem setAt_bench (sp : Spot) (u : UnitNo) (s : State) : bench (setAt sp u s) = bench s := by
  cases sp with
  | socket k => exact modSocket_bench k _ s Iff.rfl
  | _ => rfl

@[simp] theorem leaveSpot_bench (u : UnitNo) (s : State) : bench (leaveSpot u s) = bench s :=
  leaveSpot_induct (motive := fun w => bench w = bench s) rfl (fun _ => setAt_bench ..)

@[simp] theorem moveUnit_bench (u : UnitNo) (sp : Spot) (s : State) : bench (moveUnit u sp s) = bench s := by
  simp [moveUnit]

/-- A transfer leaves a TESTING socket as it is, and makes none (R128). -/
theorem moveSocket_bench (k : SocketIx) (f : SocketRec → SocketRec) (s : State)
    (hf : ∀ x, (f x).state ≠ .testing := by simp) : bench (moveSocket k f s) = bench s := by
  rw [moveSocket_eq]
  refine modSocket_bench k _ s ?_
  split
  · exact Iff.rfl
  · rename_i ht; exact iff_of_false (hf _) ht

theorem vacate_not_testing (x : SocketRec) : x.vacate.state ≠ .testing := by
  unfold SocketRec.vacate; dsimp only; split <;> simp

@[simp] theorem evict_bench (k : SocketIx) (s : State) : bench (evict k s) = bench s := by
  rw [evict]; exact (moveSocket_bench ..).trans (modUnit_bench ..)

@[simp] theorem releaseSocket_bench (k : SocketIx) (s : State) : bench (releaseSocket k s) = bench s := by
  unfold releaseSocket; split
  · rename_i hk
    exact modSocket_bench k _ s (iff_of_false (vacate_not_testing _) (by rw [hk]; decide))
  · rfl

theorem reserveSocket_bench {ex : BitVec 16} {k : SocketIx} (h : chooseSocket ex s = some k) :
    bench (reserveSocket k s) = bench s := by
  obtain ⟨hempty, -⟩ := eligible_iff.1 (chooseSocket_best h).1
  exact modSocket_bench k _ s (iff_of_false (by simp) (by rw [hempty]; decide))

@[simp] theorem startFill_bench (h : HeadIx) (s : State) : bench (startFill h s) = bench s := modHead_bench h _ s

@[simp] theorem stopFill_bench (h : HeadIx) (s : State) : bench (stopFill h s) = bench s := modHead_bench h _ s

@[simp] theorem loadedInHead_bench (h : HeadIx) (s : State) : bench (loadedInHead h s) = bench s := by
  unfold loadedInHead; split <;> simp

/-! ### Soak positions, retests and the ready list -/

theorem reserveSoak_bench {purpose : Purpose} {u : UnitNo} {x : SoakIx × State} (e : reserveSoak purpose u s = some x) :
    bench x.2 = bench s := by
  obtain ⟨-, hx, -⟩ := reserveSoak_eq_some (p := x.1) (t := x.2) e
  rw [hx, modSoak_bench]

@[simp] theorem releaseSoak_bench (p : SoakIx) (s : State) : bench (releaseSoak p s) = bench s := by
  unfold releaseSoak; split <;> rfl

@[simp] theorem examineRetest_bench (u : UnitNo) (s : State) : bench (examineRetest u s) = bench s := by
  unfold examineRetest; dsimp only
  repeat' split
  all_goals simp

@[simp] theorem examineActive_bench (before s : State) : bench (examineActive before s) = bench s := by
  unfold examineActive; split
  · rfl
  · exact foldl_bench (fun s u => examineRetest_bench u s) _ _

@[simp] theorem addReady_bench (u : UnitNo) (s : State) : bench (addReady u s) = bench s := by
  unfold addReady
  repeat' split
  all_goals rfl

@[simp] theorem becomeReady_bench (u : UnitNo) (s : State) : bench (becomeReady u s) = bench s := by
  rw [becomeReady, addReady_bench, examineRetest_bench]; rfl

@[simp] theorem arriveSoak_bench (u : UnitNo) (p : SoakIx) (purpose : Purpose) (s : State) :
    bench (arriveSoak u p purpose s) = bench s := by
  cases hu : findUnit u s with
  | none => simp [arriveSoak, hu]
  | some x => rw [arriveSoak_of_found hu]; split <;> simp [setDown]

/-! ### Creation and retirement -/

@[simp] theorem createUnit_bench (st : Side) (slot : InSlot) (n : NozzleIx) (s : State) :
    bench (createUnit st slot n s) = bench s := by
  obtain ⟨soak, hsoak⟩ := nameReservation_spec n s.upt.nextUnit s
  simp only [createUnit, hsoak, modQueue_bench]
  rfl

@[simp] theorem retire_bench (u : UnitNo) (dest : Place) (s : State) : bench (retire u dest s) = bench s := by
  have hcount : ∀ (x : UnitRec) (s : State), bench (countRetired x dest s) = bench s := fun x s => by
    unfold countRetired countBinned; split <;> rfl
  unfold retire
  split
  · rw [dropUnit_bench, hcount, leaveSpot_bench, appendLog_bench]
  · rfl

/-! ### Cancellation and loss (R71, R14) -/

@[simp] theorem dropOrder_bench (g : Gantry) (o : Order) (s : State) : bench (dropOrder g o s) = bench s := by
  unfold dropOrder releaseOrder; split <;> simp

@[simp] theorem setStageHead_bench (n : NozzleIx) (h : Option HeadIx) (s : State) :
    bench (setStageHead n h s) = bench s := rfl

@[simp] theorem modHeld_bench (u : UnitNo) (f : UnitRec → UnitRec) (s : State) : bench (modHeld u f s) = bench s := rfl

@[simp] theorem unmask_bench (n : NozzleIx) (s : State) : bench (unmask n s) = bench s := rfl

@[simp] theorem pickCancelled_bench (g : Gantry) (o : Order) (s : State) : bench (pickCancelled g o s) = bench s := by
  unfold pickCancelled endCreation; split <;> simp

@[simp] theorem dropOrders_bench (g : Gantry) (os : List Order) (s : State) :
    bench (os.foldl (fun s p => dropOrder g p s) s) = bench s := foldl_bench (fun s o => dropOrder_bench g o s) os s

@[simp] theorem cancelPick_bench (g : Gantry) (o : Order) (s : State) : bench (cancelPick g o s) = bench s := by
  unfold cancelPick; dsimp only; split <;> simp

@[simp] theorem placeEffect_bench (g : Gantry) (o : Order) (s : State) : bench (placeEffect g o s) = bench s := by
  unfold placeEffect placeCancelled
  repeat' split
  all_goals simp

@[simp] theorem cancelInspect_bench (o : Order) (s : State) : bench (cancelInspect o s) = bench s := by
  refine (foldl_bench (fun s n => ?_) _ _).trans (dropOrder_bench .load o s)
  unfold inspectCancelledFor; dsimp only; split <;> simp

@[simp] theorem cancelOrder_bench (g : Gantry) (o : Order) (s : State) : bench (cancelOrder g o s) = bench s := by
  unfold cancelOrder
  repeat' split
  all_goals simp

@[simp] theorem afterCancel_bench (g : Gantry) (before s : State) : bench (afterCancel g before s) = bench s := by
  unfold afterCancel
  repeat' split
  all_goals simp

@[simp] theorem cancelWhere_bench (g : Gantry) (p : Order → Bool) (s : State) : bench (cancelWhere g p s) = bench s := by
  refine (afterCancel_bench ..).trans (foldl_bench (fun s id => ?_) _ s)
  unfold cancelOne
  repeat' split
  all_goals simp

@[simp] theorem loseUnit_bench (u : UnitNo) (s : State) : bench (loseUnit u s) = bench s := by
  unfold loseUnit releaseTarget
  repeat' split
  all_goals simp

@[simp] theorem loseMissing_bench (g : Gantry) (mask : Byte) (ns : List NozzleIx) (s : State) :
    bench (loseMissing g mask ns s) = bench s := by
  refine foldl_bench (fun s n => ?_) ns s
  split
  · rfl
  · exact loseUnit_bench ..

/-! ### Orders that are done (R103 to R105) -/

@[simp] theorem pickDone_bench (g : Gantry) (o : Order) (s : State) : bench (pickDone g o s) = bench s := by
  unfold pickDone freeSoak; split
  · simp
  · simp
  · rw [moveSocket_bench _ _ _ vacate_not_testing]; simp
  · rfl

@[simp] theorem jamSocket_bench (k : SocketIx) (s : State) : bench (jamSocket k s) = bench s := moveSocket_bench k _ s

@[simp] theorem raiseJam_bench (k : SocketIx) (cause : Nat) (s : State) : bench (raiseJam k cause s) = bench s := rfl

@[simp] theorem cancelNozzle_bench (n : NozzleIx) (s : State) : bench (cancelNozzle n s) = bench s := by
  simp [cancelNozzle]

@[simp] theorem pickEmpty_bench (g : Gantry) (o : Order) (s : State) : bench (pickEmpty g o s) = bench s := by
  unfold pickEmpty endCreation
  repeat' split
  all_goals simp

@[simp] theorem loadSocket_bench (u : UnitNo) (k : SocketIx) (s : State) : bench (loadSocket u k s) = bench s := by
  have hset : bench (setInSocket u k s) = bench s := by
    exact (moveSocket_bench ..).trans ((modUnit_bench ..).trans (moveUnit_bench ..))
  rw [loadSocket_eq]; split <;> simp [hset]

@[simp] theorem placeDone_bench (o : Order) (s : State) : bench (placeDone o s) = bench s := by
  unfold placeDone countChute; dsimp only; split <;> simp

@[simp] theorem placeDropped_bench (o : Order) (s : State) : bench (placeDropped o s) = bench s := by
  unfold placeDropped; dsimp only; split <;> simp

@[simp] theorem inspectDone_bench (o : Order) (p : List Byte) (s : State) : bench (inspectDone o p s) = bench s := by
  refine (modXpl_bench _ _).trans (foldl_bench (fun s n => ?_) _ s)
  unfold inspectNozzle stageAt; dsimp only
  repeat' split
  all_goals simp

@[simp] theorem applyFate_bench (g : Gantry) (o : Order) (p : List Byte) (f : Fate) (s : State) :
    bench (applyFate g o p f s) = bench s := by
  unfold applyFate; split <;> simp

@[simp] theorem requeue_bench (g : Gantry) (o : Order) (f : Fate) (s : State) : bench (requeue g o f s) = bench s := by
  unfold requeue; split <;> simp

@[simp] theorem enterFault_bench (g : Gantry) (c : FaultCause) (s : State) : bench (enterFault g c s) = bench s := by
  unfold enterFault; dsimp only
  rw [checkEmpty_bench, setGantry_bench, cancelWhere_bench, raise_bench, modGsq_bench]
  split <;> simp

end Sys2Proof.Machine
end

section
/-! PROOF. Planning leaves the test heads as they are: it takes EMPTY sockets alone (R57, R60, R63 to R69). -/
namespace Sys2Proof.Machine

variable {s t : State}

/-! ### The legs of a trip -/

@[simp] theorem setTarget_bench (u : UnitNo) (x : Option Target) (s : State) : bench (setTarget u x s) = bench s := rfl

theorem socketLeg_bench {ex : BitVec 16} {k : SocketIx} (n : NozzleIx) (u : UnitNo) (p : Option Place)
    (h : chooseSocket ex s = some k) : bench (socketLeg n u p k s).2 = bench s := by
  rw [socketLeg, setTarget_bench, reserveSocket_bench h]

theorem soakLeg_bench {n : NozzleIx} {u : UnitNo} {p : Option Place} {q : Purpose} {x : Leg × State}
    (e : soakLeg n u p q s = some x) : bench x.2 = bench s := by
  unfold soakLeg at e
  split at e <;> cases e
  rename_i e
  rw [setTarget_bench]
  exact reserveSoak_bench e

@[simp] theorem stagedLeg_bench (n : NozzleIx) (x : UnitRec) (s : State) : bench (stagedLeg n x s).2 = bench s := by
  unfold stagedLeg
  repeat' split
  · rename_i e; exact soakLeg_bench e
  · rfl
  · rename_i e; exact socketLeg_bench n x.no none e
  · exact examineRetest_bench ..

theorem nozzleLeg_bench (n : NozzleIx) (s : State) : bench (nozzleLeg n s).2 = bench s := by
  unfold nozzleLeg
  split
  · rfl
  · split_ifs
    · exact stagedLeg_bench ..
    · split
      · rename_i e; exact soakLeg_bench e
      · rfl
    · split
      · rename_i e; exact soakLeg_bench e
      · rfl
    · rfl

theorem nozzleLegs_bench {leg : NozzleIx → State → Option Leg × State} (hf : ∀ n s, bench (leg n s).2 = bench s) :
    ∀ (ns : List NozzleIx) (s : State), bench (nozzleLegs leg ns s).2 = bench s
  | [], _ => rfl
  | n :: ns, s => by
    have hfirst := hf n s
    unfold nozzleLegs
    split <;> rename_i e <;> rw [e] at hfirst <;> exact (nozzleLegs_bench hf ns _).trans hfirst

theorem socketLegs_bench : ∀ (us : List UnitNo) (ns : List NozzleIx) (room : Nat) (s : State),
    bench (socketLegs us ns room s).2 = bench s
  | [], _, _, _ => rfl
  | _ :: _, [], _, _ => rfl
  | _ :: _, _ :: _, 0, _ => rfl
  | u :: us, n :: ns, room + 1, s => by
    unfold socketLegs
    split
    · rename_i x k e
      obtain ⟨y, -, hy⟩ := Option.bind_eq_some_iff.1 e
      obtain ⟨j, hj, hjk⟩ := Option.map_eq_some_iff.1 hy
      cases hjk
      exact (socketLegs_bench us ns room _).trans (socketLeg_bench n u (soakSource x) hj)
    · exact socketLegs_bench us (n :: ns) (room + 1) s

theorem inputDestination_bench {x : Place × Reservation × Option Purpose × State} (e : inputDestination s = some x) :
    bench x.2.2.2 = bench s := by
  unfold inputDestination at e
  split at e
  · obtain ⟨x, e', rfl⟩ := Option.map_eq_some_iff.1 e
    exact reserveSoak_bench e'
  · obtain ⟨k, e', rfl⟩ := Option.map_eq_some_iff.1 e
    exact reserveSocket_bench e'

theorem inputLegs_bench : ∀ (ns : List NozzleIx) (limit : Nat) (s : State), bench (inputLegs ns limit s).2 = bench s
  | [], _, _ => rfl
  | _ :: _, 0, _ => rfl
  | n :: ns, limit + 1, s => by
    unfold inputLegs
    split_ifs
    · rfl
    · split
      · rfl
      · rename_i e
        split
        · rfl
        · rename_i e'
          exact ((inputLegs_bench ns limit _).trans (planInputPick_bench e')).trans
            ((modUpt_bench ..).trans (inputDestination_bench e))

theorem stagingLegs_bench (h : HeadIx) : ∀ (us : List UnitNo) (ns : List NozzleIx) (s : State),
    bench (stagingLegs h us ns s).2 = bench s
  | [], _, _ => rfl
  | _ :: _, [], _ => rfl
  | u :: us, n :: ns, s => by
    have hexamined := examineRetest_bench u s
    unfold stagingLegs
    dsimp only
    repeat' split
    · exact (stagingLegs_bench h us ns _).trans hexamined
    · exact (stagingLegs_bench h us (n :: ns) _).trans hexamined
    · exact (stagingLegs_bench h us (n :: ns) _).trans hexamined

theorem pocketLeg_bench {n : NozzleIx} {u : UnitNo} {p : Option Place} {k : PairIx} {x : Leg × State}
    (e : pocketLeg n u p k s = some x) : bench x.2 = bench s := by
  unfold pocketLeg at e
  split at e
  · cases e
  · rename_i e'
    obtain ⟨y, htake, rfl⟩ := Option.map_eq_some_iff.1 e
    exact (takePocket_bench htake).trans (reserveLog_bench e')

theorem chuteLeg_bench {n : NozzleIx} {u : UnitNo} {p : Option Place} {x : Leg × State}
    (e : chuteLeg n u p s = some x) : bench x.2 = bench s := by
  obtain ⟨t, hlog, rfl⟩ := Option.map_eq_some_iff.1 e
  exact reserveLog_bench hlog

theorem unloadLeg_bench {n : NozzleIx} {u : UnitRec} {p : Option Place} {x : Leg × State}
    (e : unloadLeg n u p s = some x) : bench x.2 = bench s := by
  unfold unloadLeg at e
  repeat' split at e
  · exact pocketLeg_bench e
  · exact chuteLeg_bench e
  · cases e
  · exact chuteLeg_bench e
  all_goals exact soakLeg_bench e

theorem unloadNozzleLeg_bench (n : NozzleIx) (s : State) : bench (unloadNozzleLeg n s).2 = bench s := by
  unfold unloadNozzleLeg
  repeat' split
  · rfl
  · rename_i e; exact unloadLeg_bench e
  · rfl

theorem pickupLegs_bench : ∀ (us : List UnitNo) (ns : List NozzleIx) (s : State),
    bench (pickupLegs us ns s).2 = bench s
  | [], _, _ => rfl
  | _ :: _, [], _ => rfl
  | u :: us, n :: ns, s => by
    unfold pickupLegs
    split
    · rename_i e
      obtain ⟨x, -, e'⟩ := Option.bind_eq_some_iff.1 e
      exact (pickupLegs_bench us ns _).trans (unloadLeg_bench e')
    · exact pickupLegs_bench us (n :: ns) s

/-! ### Trips and evaluations -/

@[simp] theorem placeOrders_bench (g : Gantry) (os : List Order) (s : State) :
    bench (placeOrders g os s) = bench s := (modXpl_bench _ _).trans (modQueue_bench g _ s)

@[simp] theorem placeLoadTrip_bench (kind : TripKind) (b : Bool) (ls : List Leg) (s : State) :
    bench (placeLoadTrip kind b ls s) = bench s := (modXpl_bench _ _).trans (placeOrders_bench .load _ s)

@[simp] theorem planPark_bench (g : Gantry) (s : State) : bench (planPark g s) = bench s := by
  unfold planPark; split <;> simp

theorem inputTrip_bench (e : inputTrip s = some t) : bench t = bench s := by
  unfold inputTrip at e
  dsimp only at e
  split at e
  · have hlegs := inputLegs_bench (freeNozzles .load s) (if s.ltc.params.soakTime = 0 then 3 else 4) s
    split at e
    · cases e
    · rename_i e'
      cases e
      simp only [decide_eq_true_eq] at e'
      rw [e'] at hlegs
      rw [placeLoadTrip_bench, hlegs]
  · cases e

@[simp] theorem stagingTrip_bench (s : State) : bench (stagingTrip s).2 = bench s := by
  unfold stagingTrip
  split_ifs
  · split
    · rfl
    · rename_i h _ _
      split_ifs
      · have hlegs := stagingLegs_bench h s.xpl.readyList (freeNozzles .load s) s
        split <;> rename_i e <;> rw [e] at hlegs
        · exact hlegs
        · exact (placeLoadTrip_bench ..).trans hlegs
      · rfl
  · rfl

theorem planLoad_bench (s : State) : bench (planLoad s) = bench s := by
  have hnozzles := nozzleLegs_bench nozzleLeg_bench allNozzles s
  unfold planLoad
  split <;> rename_i e <;> rw [e] at hnozzles
  · exact (placeLoadTrip_bench ..).trans hnozzles
  · rename_i t
    have hsockets : bench (if lotTesting t then socketLegs t.xpl.readyList (freeNozzles .load t) 3 t
        else ([], t)).2 = bench t := by
      split
      · exact socketLegs_bench ..
      · rfl
    rw [← hnozzles]
    split <;> rename_i e' <;> rw [e'] at hsockets
    · exact (placeLoadTrip_bench ..).trans hsockets
    · rw [← hsockets]
      split
      · rename_i e''; exact inputTrip_bench e''
      · rename_i w _ _
        have hstaging := stagingTrip_bench w
        split <;> rename_i e'' <;> rw [e''] at hstaging
        · exact hstaging
        · exact (planPark_bench ..).trans hstaging

theorem planUnload_bench (s : State) : bench (planUnload s) = bench s := by
  have hnozzles := nozzleLegs_bench unloadNozzleLeg_bench allNozzles s
  unfold planUnload
  split <;> rename_i e <;> rw [e] at hnozzles
  · exact (placeOrders_bench ..).trans hnozzles
  · rename_i t
    have hpickups := pickupLegs_bench (doneUnits t ++ plateUnits t) (freeNozzles .unload t) t
    rw [← hnozzles]
    split <;> rename_i e' <;> rw [e'] at hpickups
    · exact (placeOrders_bench ..).trans hpickups
    · exact (planPark_bench ..).trans hpickups

@[simp] theorem evaluate_bench (g : Gantry) (s : State) : bench (evaluate g s) = bench s := by
  unfold evaluate
  split
  · cases g
    · exact planLoad_bench s
    · exact planUnload_bench s
  · rfl

@[simp] theorem evaluateBoth_bench (s : State) : bench (evaluateBoth s) = bench s := by
  have hdrawn : bench { s with free := s.free + 1 } = bench s := rfl
  unfold evaluateBoth
  split
  · rcases inEitherOrder_cases (evaluate .load) (evaluate .unload) s with h | h <;> simp [h, hdrawn]
  · simp

end Sys2Proof.Machine
end

section
/-! PROOF. The law of R126 and R128 through the heads, the zones and the gantries' attempts: SOT is high in TEST alone, a
head in TEST holds its zone, and only a head in START_WAIT has a standing request. -/
namespace Sys2Proof.Machine

variable {x : Option HeadIx} {r s t : State} {h z : HeadIx} {k : SocketIx} {g : Gantry}

/-! ### The law while a head ends its test -/

/-- The law of R126 and R128 where RESET_N is high, but that head x, if any, is at the end of its test: its lines are low
already, and its zone may be given away before it leaves TEST (R129, R132). -/
structure TestLaw (x : Option HeadIx) (s : State) : Prop where
  high : s.pins.resetLow = false
  sot : ∀ h : HeadIx, x ≠ some h → s.pins.sot[h] = decide (s.hsc.heads[h].state = .test)
  ld : ∀ k : SocketIx, s.pins.ld[k] = true →
    s.hsc.sockets[k].state = .testing ∧ s.hsc.heads[headOf k].state = .test
  request : ∀ h : HeadIx, s.zar[h].head = true → s.hsc.heads[h].state = .startWait
  zone : ∀ h : HeadIx, x ≠ some h → s.hsc.heads[h].state = .test → s.zar[h].holder = .head
  ending : ∀ h : HeadIx, x = some h →
    s.hsc.heads[h].state = .test ∧ s.pins.sot[h] = false ∧ ∀ k : SocketIx, headOf k = h → s.pins.ld[k] = false

theorem sotInv_iff (hr : s.pins.resetLow = false) : SotInv s ↔ TestLaw none s where
  mp i :=
    { high := hr, sot := fun h _ => by rw [i.sot h, hr]; rfl, ld := i.ld, request := i.request
      zone := fun h _ => i.zone h, ending := nofun }
  mpr i :=
    { sot := fun h => by rw [i.sot h nofun, hr]; rfl, ld := i.ld, request := i.request
      zone := fun h => i.zone h nofun }

/-- The law reads the lines, which sockets are TESTING, the states of the heads, and the zones. -/
theorem TestLaw.congr (i : TestLaw x s) (hl : (bench t).lines = (bench s).lines)
    (hk : ∀ k : SocketIx, s.hsc.sockets[k].state = .testing → t.hsc.sockets[k].state = .testing)
    (hh : (bench t).heads = (bench s).heads) (hz : (bench t).zones = (bench s).zones) : TestLaw x t := by
  have hsot : t.pins.sot = s.pins.sot := congrArg Prod.fst hl
  have hld : t.pins.ld = s.pins.ld := congrArg (fun l => l.2.1) hl
  have hlow : t.pins.resetLow = s.pins.resetLow := congrArg (fun l => l.2.2) hl
  have hhead : ∀ h : HeadIx, t.hsc.heads[h].state = s.hsc.heads[h].state := congrFun hh
  have hholder : ∀ z : HeadIx, t.zar[z].holder = s.zar[z].holder := fun z => congrArg Prod.fst (congrFun hz z)
  have hask : ∀ z : HeadIx, t.zar[z].head = s.zar[z].head := fun z => congrArg Prod.snd (congrFun hz z)
  exact
    { high := by rw [hlow]; exact i.high
      sot := by simpa only [hsot, hhead] using i.sot
      ld := fun k hk' => by
        rw [hld] at hk'
        obtain ⟨ht, hs⟩ := i.ld k hk'
        exact ⟨hk k ht, by rw [hhead]; exact hs⟩
      request := by simpa only [hask, hhead] using i.request
      zone := by simpa only [hholder, hhead] using i.zone
      ending := by simpa only [hsot, hld, hhead] using i.ending }

theorem TestLaw.of_bench (i : TestLaw x s) (hb : bench t = bench s) : TestLaw x t :=
  i.congr (congrArg Bench.lines hb) (fun k ht => (congrFun (congrArg Bench.testing hb) k).mpr ht)
    (congrArg Bench.heads hb) (congrArg Bench.zones hb)

/-- A head that asks for its zone is not at the end of its test. -/
theorem TestLaw.waits_ne (i : TestLaw x s) (hw : s.hsc.heads[h].state = .startWait) : x ≠ some h := fun hx => by
  have ht := (i.ending h hx).1
  rw [hw] at ht
  cases ht

/-- A head changes its state, its zone or both, outside TEST. -/
theorem TestLaw.onHead (i : TestLaw x s) (h : HeadIx) (f : HeadRec → HeadRec) (hs : s.hsc.heads[h].state ≠ .test)
    (hf : (f s.hsc.heads[h]).state ≠ .test)
    (hr : s.zar[h].head = true → (f s.hsc.heads[h]).state = .startWait) : TestLaw x (modHead h f s) := by
  have hother : ∀ j : HeadIx, j ≠ h → (modHead h f s).hsc.heads[j] = s.hsc.heads[j] := fun j => modHead_other s h j f
  have hsame : (modHead h f s).hsc.heads[h] = f s.hsc.heads[h] := modHead_same ..
  generalize ht : modHead h f s = t at hother hsame
  have hpins : t.pins = s.pins := ht ▸ rfl
  have hzar : t.zar = s.zar := ht ▸ rfl
  have hsockets : t.hsc.sockets = s.hsc.sockets := ht ▸ rfl
  refine ⟨by rw [hpins]; exact i.high, fun j hj => ?_, fun k hk => ?_, fun j hj => ?_, fun j hj ht => ?_,
    fun j hj => ?_⟩
  · rw [hpins, i.sot j hj]
    by_cases e : j = h
    · subst e; rw [hsame]; simp only [hs, hf]
    · rw [hother j e]
  · rw [hpins] at hk
    obtain ⟨htest, hhead⟩ := i.ld k hk
    rw [hsockets, hother _ fun e => hs (e ▸ hhead)]
    exact ⟨htest, hhead⟩
  · rw [hzar] at hj
    by_cases e : j = h
    · subst e; rw [hsame]; exact hr hj
    · rw [hother j e]; exact i.request j hj
  · by_cases e : j = h
    · rw [e, hsame] at ht; exact absurd ht hf
    · rw [hother j e] at ht; rw [hzar]; exact i.zone j hj ht
  · obtain ⟨htest, hlow⟩ := i.ending j hj
    rw [hpins, hother j fun e => hs (e ▸ htest)]
    exact ⟨htest, hlow⟩

/-- A zone that a head in TEST does not need changes its holder, or a standing request of a head changes. -/
theorem TestLaw.onZone (i : TestLaw x s) (z : HeadIx) (f : Zone → Zone)
    (hh : x ≠ some z → s.hsc.heads[z].state = .test → (f s.zar[z]).holder = .head)
    (hr : (f s.zar[z]).head = true → s.hsc.heads[z].state = .startWait) : TestLaw x (modZone z f s) := by
  refine { i with request := fun j hj => ?_, zone := fun j hj ht => ?_ }
  · by_cases e : j = z
    · subst e; rw [modZone_same] at hj; exact hr hj
    · rw [modZone_other _ _ _ _ e] at hj; exact i.request j hj
  · by_cases e : j = z
    · subst e; rw [modZone_same]; exact hh hj ht
    · rw [modZone_other _ _ _ _ e]; exact i.zone j hj ht

/-! ### What the heads and the gantries keep -/

/-- The law stays, whichever head is at the end of its test, and so do the estimates and the capture counters. -/
structure Tests (r s : State) : Prop where
  counts : (bench s).counts = (bench r).counts
  law : ∀ x, TestLaw x r → TestLaw x s

theorem Tests.refl (s : State) : Tests s s := ⟨rfl, fun _ => id⟩

theorem Tests.trans (a : Tests r s) (b : Tests s t) : Tests r t :=
  ⟨b.counts.trans a.counts, fun x i => b.law x (a.law x i)⟩

theorem Tests.of_bench (hb : bench s = bench r) : Tests r s :=
  ⟨congrArg Bench.counts hb, fun _ i => i.of_bench hb⟩

theorem Tests.frame (a : Tests r s) (hb : bench t = bench s) : Tests r t := a.trans (.of_bench hb)

theorem Tests.foldl {α : Type} {f : State → α → State} (hf : ∀ s a, Tests r s → Tests r (f s a)) :
    ∀ (l : List α) (s : State), Tests r s → Tests r (l.foldl f s)
  | [], _, a => a
  | b :: l, s, a => Tests.foldl hf l (f s b) (hf s b a)

/-- A head changes its state outside TEST and has no request that would not fit the new state. -/
theorem Tests.onHead (a : Tests r s) (h : HeadIx) (f : HeadRec → HeadRec) (hs : s.hsc.heads[h].state ≠ .test)
    (hf : (f s.hsc.heads[h]).state ≠ .test)
    (hr : (f s.hsc.heads[h]).state = .startWait ∨ s.hsc.heads[h].state ≠ .startWait) : Tests r (modHead h f s) :=
  a.trans ⟨rfl, fun _ i => i.onHead h f hs hf fun hask => hr.resolve_right fun hn => hn (i.request h hask)⟩

/-- A zone whose holder is no head gets another that is no head. -/
theorem Tests.onHolder (a : Tests r s) (z : HeadIx) (f : Zone → Zone) (hs : s.zar[z].holder ≠ .head)
    (hr : (f s.zar[z]).head = s.zar[z].head := by rfl) : Tests r (modZone z f s) :=
  a.trans ⟨rfl, fun _ i => i.onZone z f (fun hx ht => absurd (i.zone z hx ht) hs) fun hask =>
    i.request z (hr ▸ hask)⟩

theorem withdrawHead_tests (h : HeadIx) (a : Tests r s) : Tests r (withdrawHead h s) :=
  a.trans ⟨rfl, fun _ i => i.onZone h _ (i.zone h) nofun⟩

/-- Every request of a head is withdrawn. -/
theorem Tests.onZones (a : Tests r s) (f : Zone → Zone) (hh : ∀ z, (f z).holder = z.holder := by exact fun _ => rfl)
    (hr : ∀ z, (f z).head = false := by exact fun _ => rfl) : Tests r { s with zar := s.zar.map f } :=
  a.trans ⟨rfl, fun _ i => { i with
    request := fun j hj => by simp [hr] at hj
    zone := fun j hj ht => by simpa [hh] using i.zone j hj ht }⟩

/-! ### The start of a test (R126) -/

theorem testSocket_sockets (s : State) (k j : SocketIx) : (testSocket s k).hsc.sockets[j] =
    if j = k then { s.hsc.sockets[j] with state := .testing } else s.hsc.sockets[j] := by
  have hhsc : (testSocket s k).hsc = (modSocket k (fun r => { r with state := .testing }) s).hsc := rfl
  rw [hhsc]
  split <;> rename_i hj
  · rw [hj]; exact modSocket_same ..
  · exact modSocket_other _ _ _ _ hj

theorem testSocket_ld (s : State) (k j : SocketIx) :
    (testSocket s k).pins.ld[j] = if j = k then true else s.pins.ld[j] := by
  by_cases hj : j = k
  · subst hj; simp [testSocket]
  · have hne : k.val ≠ j.val := fun e => hj (Fin.ext e.symm)
    simp [testSocket, hj, hne]

/-- The sockets that begin their test do so with their LD lines, and nothing else changes but unit records. -/
theorem foldl_testSocket : ∀ (ks : List SocketIx) (s : State), ∃ us v l, ks.foldl testSocket s =
      { s with upt := { s.upt with units := us }, hsc := { s.hsc with sockets := v }, pins := { s.pins with ld := l } }
    ∧ (∀ k : SocketIx, v[k] = if k ∈ ks then { s.hsc.sockets[k] with state := .testing } else s.hsc.sockets[k])
    ∧ ∀ k : SocketIx, l[k] = if k ∈ ks then true else s.pins.ld[k]
  | [], s => ⟨_, _, _, rfl, fun k => by simp, fun k => by simp⟩
  | k :: ks, s => by
    obtain ⟨us, v, l, hframe, hsockets, hld⟩ := foldl_testSocket ks (testSocket s k)
    refine ⟨us, v, l, hframe, fun j => ?_, fun j => ?_⟩
    · rw [hsockets, testSocket_sockets]
      by_cases hj : j = k <;> by_cases hm : j ∈ ks <;> simp [hj, hm]
    · rw [hld, testSocket_ld]
      by_cases hj : j = k <;> by_cases hm : j ∈ ks <;> simp [hj, hm]

theorem mem_loadedSockets : k ∈ loadedSockets h s ↔ headOf k = h ∧ s.hsc.sockets[k].state = .loaded := by
  simp [loadedSockets, mem_socketsOf]

/-- The start of a test: the head in TEST with its SOT line high, its LOADED sockets TESTING with their LD lines high,
and nothing else changed but unit records (R126). -/
theorem startTest_eq (h : HeadIx) (s : State) : ∃ us v l, startTest h s =
      { s with
        upt := { s.upt with units := us }
        hsc := { sockets := v, heads := s.hsc.heads.set h.val { s.hsc.heads[h] with
          cycle := s.hsc.heads[h].cycle + 1, sot := some s.now, state := .test
          test := startTimer s.ltc.params.testTimeout s
          credit := if s.rcu.mode = .single then false else s.hsc.heads[h].credit } }
        pins := { s.pins with sot := s.pins.sot.set h.val true, ld := l } }
    ∧ (∀ k : SocketIx, v[k] = if headOf k = h ∧ s.hsc.sockets[k].state = .loaded then
        { s.hsc.sockets[k] with state := .testing } else s.hsc.sockets[k])
    ∧ ∀ k : SocketIx, l[k] = if headOf k = h ∧ s.hsc.sockets[k].state = .loaded then true else s.pins.ld[k] := by
  obtain ⟨us, v, l, hframe, hsockets, hld⟩ := foldl_testSocket (loadedSockets h s)
    (modHead h (fun r => { r with cycle := r.cycle + 1, sot := some s.now }) s)
  simp only [mem_loadedSockets] at hsockets hld
  refine ⟨us, v, l, ?_, hsockets, hld⟩
  have hloaded : loadedSockets h (modHead h (fun r => { r with cycle := r.cycle + 1, sot := some s.now }) s)
      = loadedSockets h s := rfl
  rw [startTest, hloaded, hframe]
  simp [modHead, setSot]

theorem startTest_heads (h j : HeadIx) (s : State) : (startTest h s).hsc.heads[j] = if j = h then
      { s.hsc.heads[j] with
        cycle := s.hsc.heads[j].cycle + 1, sot := some s.now, state := .test
        test := startTimer s.ltc.params.testTimeout s
        credit := if s.rcu.mode = .single then false else s.hsc.heads[j].credit }
    else s.hsc.heads[j] := by
  obtain ⟨us, v, l, heq, -⟩ := startTest_eq h s
  rw [heq]
  by_cases hj : j = h
  · subst hj; simp
  · have hne : h.val ≠ j.val := fun e => hj (Fin.ext e.symm)
    simp [hj, hne]

theorem startTest_sot (h j : HeadIx) (s : State) :
    (startTest h s).pins.sot[j] = if j = h then true else s.pins.sot[j] := by
  obtain ⟨us, v, l, heq, -⟩ := startTest_eq h s
  rw [heq]
  by_cases hj : j = h
  · subst hj; simp
  · have hne : h.val ≠ j.val := fun e => hj (Fin.ext e.symm)
    simp [hj, hne]

theorem startTest_zar (h : HeadIx) (s : State) : (startTest h s).zar = s.zar := by
  obtain ⟨us, v, l, heq, -⟩ := startTest_eq h s
  rw [heq]

theorem startTest_rcu (h : HeadIx) (s : State) : (startTest h s).rcu = s.rcu := by
  obtain ⟨us, v, l, heq, -⟩ := startTest_eq h s
  rw [heq]

/-- A head in START_WAIT that holds its zone starts its test within the law. -/
theorem TestLaw.startTest (i : TestLaw x s) (hw : s.hsc.heads[h].state = .startWait) (hz : s.zar[h].holder = .head)
    (hr : s.zar[h].head = false) : TestLaw x (startTest h s) := by
  have hx := i.waits_ne hw
  have hhead : ∀ j, (Machine.startTest h s).hsc.heads[j].state = if j = h then .test else s.hsc.heads[j].state := by
    intro j; rw [startTest_heads]; split <;> rfl
  have hsot := fun j => startTest_sot h j s
  obtain ⟨us, v, l, heq, hsockets, hld⟩ := startTest_eq h s
  refine ⟨by rw [heq]; exact i.high, fun j hj => ?_, fun k hk => ?_, fun j hj => ?_, fun j hj ht => ?_, fun j hj => ?_⟩
  · rw [hsot, hhead]
    split
    · rfl
    · exact i.sot j hj
  · rw [hhead]
    rw [heq] at hk ⊢
    change l[k] = true at hk
    change v[k].state = .testing ∧ _
    rw [hld] at hk
    rw [hsockets]
    split at hk <;> rename_i hstarts
    · exact ⟨by rw [if_pos hstarts], if_pos hstarts.1⟩
    · obtain ⟨htest, hin⟩ := i.ld k hk
      exact ⟨by rw [if_neg hstarts]; exact htest, by rw [hin, ite_self]⟩
  · have hask : s.zar[j].head = true := by simpa only [startTest_zar] using hj
    have hne : j ≠ h := by rintro rfl; rw [hr] at hask; cases hask
    rw [hhead, if_neg hne]
    exact i.request j hask
  · simp only [startTest_zar]
    rw [hhead] at ht
    split at ht <;> rename_i e
    · rw [e]; exact hz
    · exact i.zone j hj ht
  · have hne : j ≠ h := by rintro rfl; exact hx hj
    obtain ⟨htest, hlow, hlines⟩ := i.ending j hj
    refine ⟨by rw [hhead, if_neg hne]; exact htest, by rw [hsot, if_neg hne]; exact hlow, fun k hk => ?_⟩
    have hline : (Machine.startTest h s).pins.ld[k] = l[k] := by rw [heq]
    rw [hline, hld, if_neg fun hs => hne (hk.symm.trans hs.1)]
    exact hlines k hk

theorem startTest_counts (h : HeadIx) (s : State) : (bench (startTest h s)).counts = (bench s).counts := by
  obtain ⟨us, v, l, heq, -⟩ := startTest_eq h s
  rw [heq]; rfl

theorem grantHead_tests (a : Tests r s) (hw : s.hsc.heads[h].state = .startWait) : Tests r (grantHead h s) :=
  a.trans ⟨startTest_counts h _, fun _ i => TestLaw.startTest (i.onZone h _ (fun _ _ => rfl) nofun) hw
    (by rw [modZone_same]) (by rw [modZone_same])⟩

theorem requestHead_tests (h : HeadIx) (a : Tests r s) : Tests r (requestHead h s) := by
  unfold requestHead
  split
  · rename_i hw
    obtain ⟨hstate, -⟩ := hw
    split
    · exact grantHead_tests a hstate
    · exact a
    · exact a.trans ⟨rfl, fun _ i => i.onZone h _ (i.zone h) fun _ => hstate⟩
  · exact a

/-! ### The review of the heads (R123 to R126) -/

theorem idleToFill_tests (h : HeadIx) (a : Tests r s) : Tests r (idleToFill h s) := by
  unfold idleToFill; split
  · rename_i hc
    obtain ⟨hidle, -⟩ := hc
    exact a.onHead h _ (by rw [hidle]; decide) (by simp) (.inr (by rw [hidle]; decide))
  · exact a

theorem fillToIdle_tests (h : HeadIx) (a : Tests r s) : Tests r (fillToIdle h s) := by
  unfold fillToIdle; split
  · rename_i hc
    have hfill : (stopFill h s).hsc.heads[h].state = .fill := by rw [stopFill, modHead_same]; exact hc.1
    exact (a.frame (stopFill_bench h s)).onHead h _ (by rw [hfill]; decide) (by simp) (.inr (by rw [hfill]; decide))
  · exact a

theorem fillUnloaded_tests (h : HeadIx) (a : Tests r s) : Tests r (fillUnloaded h s) := by
  unfold fillUnloaded; split
  · exact a.frame (stopFill_bench h s)
  · exact a

/-- A head that enters FILL keeps the bench from there on. -/
theorem enterFill_bench (h : HeadIx) (s : State) :
    bench (enterFill h s) = bench (modHead h (fun r => { r with state := .fill }) s) := by
  unfold enterFill; dsimp only; split
  · exact startFill_bench ..
  · rfl

/-- A head in START_WAIT withdraws its request and goes back to FILL. -/
theorem backToFill_tests (hw : s.hsc.heads[h].state = .startWait) (a : Tests r s) :
    Tests r (modHead h (fun r => { r with state := .fill }) (withdrawHead h s)) := by
  refine (withdrawHead_tests h a).trans ⟨rfl, fun _ i => i.onHead h _ ?_ (by simp) fun hask => ?_⟩
  · exact fun e => absurd (hw.symm.trans e) (by decide)
  · rw [withdrawHead, modZone_same] at hask; cases hask

theorem startWaitBack_tests (h : HeadIx) (a : Tests r s) : Tests r (startWaitBack h s) := by
  unfold startWaitBack; split
  · rename_i hc
    obtain ⟨hwait, -⟩ := hc
    exact (backToFill_tests hwait a).frame (enterFill_bench ..)
  · exact a

theorem startIfReady_tests (h : HeadIx) (a : Tests r s) : Tests r (startIfReady h s) := by
  unfold startIfReady; split
  · rename_i hc
    have hfill : s.hsc.heads[h].state = .fill := by
      simp only [startCondition, Bool.and_eq_true, decide_eq_true_eq] at hc
      exact hc.1.1.1.1.1
    exact requestHead_tests h (a.onHead h _ (by rw [hfill]; decide) (by simp) (.inl rfl))
  · exact a

theorem reviewHead_tests (h : HeadIx) (a : Tests r s) : Tests r (reviewHead h s) :=
  startIfReady_tests h (fillUnloaded_tests h (fillToIdle_tests h (startWaitBack_tests h (idleToFill_tests h a))))

theorem headsFollow_tests (before : State) (a : Tests r s) : Tests r (headsFollow before s) := by
  refine Tests.foldl (fun s h a => ?_) _ _ (a.frame (examineActive_bench before s))
  split
  · exact a
  · exact reviewHead_tests h a

theorem headsReturn_tests (a : Tests r s) : Tests r (headsReturn s) :=
  Tests.foldl (fun _ h => reviewHead_tests h) _ _ (Tests.foldl (fun _ h => requestHead_tests h) _ _ a)

/-! ### Run control -/

theorem stopWaiting_bench (g : Gantry) (s : State) : bench (stopWaiting g s) = bench s := by
  unfold stopWaiting; split <;> simp

theorem pauseTimers_bench (s : State) : bench (pauseTimers s) = bench s := modHeads_bench _ s

theorem withdrawAll_tests (a : Tests r s) : Tests r (withdrawAll s) := a.onZones _

theorem enterHold_tests (c : HoldCauses) (arg : List Byte) (a : Tests r s) : Tests r (enterHold c arg s) := by
  have hbegun : Tests r (stopWaiting .unload (stopWaiting .load (raise .holdEntered (n8 c.code ++ arg)
      (modRcu (fun r => { r with run := .hold, causes := c, settle := none }) s)))) :=
    a.frame (by simp [stopWaiting_bench])
  exact (withdrawAll_tests hbegun).frame (pauseTimers_bench _)

/-! ### Issuing (R95 to R98) -/

@[simp] theorem sendOrder_bench (g : Gantry) (o : Order) (c : Int × Int) (s : State) :
    bench (sendOrder g o c s) = bench s := by
  unfold sendOrder; dsimp only; split <;> simp

@[simp] theorem sendPlain_bench (g : Gantry) (o : Order) (s : State) : bench (sendPlain g o s) = bench s :=
  sendOrder_bench ..

theorem requestZone_tests (g : Gantry) (z : HeadIx) (a : Tests r s) : Tests r (requestZone g z s).2 := by
  unfold requestZone; split
  · rename_i hz
    refine a.onHolder z _ ?_ (by cases g <;> rfl)
    rcases hz with hz | hz <;> rw [hz]
    · decide
    · cases g <;> decide
  · exact a.frame (modZone_bench z _ s (by cases g <;> rfl) (by cases g <;> rfl))

theorem setGrant_bench (g : Gantry) (v : Option Nat) (s : State) : bench (setGrant g v s) = bench s := by
  cases g <;> rfl

theorem setHeld_bench (g : Gantry) (v : Option Nat) (s : State) : bench (setHeld g v s) = bench s := by
  cases g <;> rfl

theorem checkHoldPoint_tests (g : Gantry) (o : Order) (a : Tests r s) : Tests r (checkHoldPoint g o s).2 := by
  unfold checkHoldPoint; dsimp only
  repeat' split
  · exact a.frame (setGrant_bench ..)
  · exact a.frame (setGrant_bench ..)
  · exact (enterHold_tests _ _ ((a.frame (setGrant_bench g none s)).frame (setHeld_bench ..))).frame (setGantry_bench ..)

theorem checksBefore_tests (g : Gantry) (o : Order) (a : Tests r s) : Tests r (checksBefore g o s).2 := by
  have hcheck := checkHoldPoint_tests g o a
  unfold checksBefore
  split
  · exact a.frame (setGantry_bench ..)
  · split <;> rename_i e <;> rw [e] at hcheck
    · exact hcheck
    · split
      · exact hcheck
      · rename_i z _
        have hasked := requestZone_tests g z hcheck
        split <;> rename_i e' <;> rw [e'] at hasked
        · exact hasked
        · exact hasked.frame (setGantry_bench ..)

/-! ### Releases and diverts (R138, R90 to R92) -/

theorem freed_law (hz : x = some z ∨ s.zar[z].holder ≠ .head) (i : TestLaw x s) : TestLaw x (freed z s) :=
  i.onZone z _ (fun hx ht => absurd (i.zone z hx ht) (hz.resolve_left hx)) (i.request z)

/-- What R138 does first with a zone just left, where a head that asks for it waits in START_WAIT. -/
theorem releaseFirst_tests (z : HeadIx) (s : State) (hw : s.zar[z].head = true → s.hsc.heads[z].state = .startWait) :
    Tests (freed z s) (releaseFirst z s) := by
  have hask : (freed z s).zar[z].head = s.zar[z].head := by rw [freed, modZone_same]
  have hholder : (freed z s).zar[z].holder ≠ .head := by rw [freed_holder]; decide
  unfold releaseFirst
  change Tests (freed z s) (if (freed z s).zar[z].head then grantHead z (freed z s) else if _ then _ else freed z s)
  split
  · rename_i h
    exact grantHead_tests (.refl _) (hw (hask ▸ h))
  · split
    · have hgrant : Tests (freed z s) (modZone z (Zone.grant .unload) (freed z s)) := (Tests.refl _).onHolder z _ hholder
      dsimp only; split
      · exact hgrant.frame (sendPlain_bench ..)
      · exact hgrant
    · exact .refl _

theorem releaseFirst_law (hz : x = some z ∨ s.zar[z].holder ≠ .head) (i : TestLaw x s) : TestLaw x (releaseFirst z s) :=
  (releaseFirst_tests z s (i.request z)).law x (freed_law hz i)

theorem releaseFirst_counts (z : HeadIx) (s : State) : (bench (releaseFirst z s)).counts = (bench s).counts := by
  unfold releaseFirst grantHead; dsimp only
  split
  · rw [startTest_counts]; rfl
  · split
    · split
      · rw [sendPlain_bench]; rfl
      · rfl
    · rfl

theorem releaseLoad_tests (z : HeadIx) (a : Tests r s) : Tests r (releaseLoad z s) := by
  unfold releaseLoad; split
  · rename_i hz
    exact a.trans ⟨releaseFirst_counts z s, fun _ => releaseFirst_law (.inr (by rw [hz]; decide))⟩
  · exact a

@[simp] theorem countRealign_bench (u : UnitNo) (k : SocketIx) (s : State) : bench (countRealign u k s) = bench s := by
  unfold countRealign; dsimp only; split <;> simp

@[simp] theorem replaceDiverted_bench (o : Order) (u : UnitNo) (s : State) :
    bench (replaceDiverted o u s) = bench s := by
  unfold replaceDiverted; split
  · rename_i e; exact reserveSoak_bench e
  · rfl

theorem divert_tests (o : Order) (u : UnitNo) (k : SocketIx) (v : Bool) (a : Tests r s) : Tests r (divert o u k v s) := by
  have hraised : Tests r (releaseSocket k (raise (if v then .alignVoid else .alignOut) (alignArg u k) s)) :=
    a.frame (by simp)
  have hended : ∀ s, bench (setGantry .load .idle (replaceDiverted o u (countRealign u k s))) = bench s :=
    fun s => by simp
  exact (releaseLoad_tests _ (headsFollow_tests _ hraised)).frame (hended _)

@[simp] theorem applyFlags_bench (u : UnitNo) (k : SocketIx) (c v : Bool) (s : State) :
    bench (applyFlags u k c v s) = bench s := by
  unfold applyFlags; dsimp only
  repeat' split
  all_goals simp

theorem coordinateLoad_tests (o : Order) (a : Tests r s) : Tests r (coordinateLoad o s).2 := by
  unfold coordinateLoad
  repeat' split
  · exact a.frame (sendPlain_bench ..)
  · exact a.frame (by simp)
  · exact divert_tests _ _ _ _ a

theorem attemptLoad_tests : ∀ (n : Nat) (s : State), Tests r s → Tests r (attemptLoad n s)
  | 0, _, a => a
  | n + 1, s, a => by
    unfold attemptLoad
    split_ifs
    · split
      · exact a
      · rename_i o _
        have hchecks := checksBefore_tests .load o a
        split <;> rename_i e <;> rw [e] at hchecks
        · exact hchecks
        · have hcoords := coordinateLoad_tests o hchecks
          split <;> rename_i e' <;> rw [e'] at hcoords
          · exact hcoords
          · exact attemptLoad_tests n _ hcoords
    · exact a

theorem attemptUnload_tests (a : Tests r s) : Tests r (attemptUnload s) := by
  unfold attemptUnload
  split_ifs
  · split
    · exact a
    · rename_i o _
      have hchecks := checksBefore_tests .unload o a
      split <;> rename_i e <;> rw [e] at hchecks
      · exact hchecks
      · exact hchecks.frame (sendPlain_bench ..)
  · exact a

theorem attempt_tests (g : Gantry) (a : Tests r s) : Tests r (attempt g s) := by
  cases g
  · exact attemptLoad_tests _ _ a
  · exact attemptUnload_tests a

/-- The load gantry takes a zone that no head holds. -/
theorem grantLoad_tests (z : HeadIx) (a : Tests r s) (hz : s.zar[z].holder ≠ .head) : Tests r (grantLoad z s) := by
  have hgrant : Tests r (modZone z (Zone.grant .load) s) := a.onHolder z _ hz
  unfold grantLoad; dsimp only; split
  · exact hgrant
  · rename_i o _
    have hcoords := coordinateLoad_tests o hgrant
    split <;> rename_i e <;> rw [e] at hcoords
    · exact hcoords
    · exact attemptLoad_tests _ _ hcoords

/-- The load gantry's turn at a zone just left for which no one before it waits (R138). -/
theorem releaseLast_tests (z : HeadIx) (s : State) :
    Tests (freed z s) (if (freed z s).zar[z].load then grantLoad z (freed z s) else freed z s) := by
  split
  · exact grantLoad_tests z (.refl _) (by rw [freed_holder]; decide)
  · exact .refl _

theorem releaseZone_counts (y : Holder) (z : HeadIx) (s : State) :
    (bench (releaseZone y z s)).counts = (bench s).counts := by
  unfold releaseZone
  split
  · rfl
  · split
    · exact releaseFirst_counts z s
    · exact (releaseLast_tests z s).counts

/-- A release keeps the law, but for a head that gives its zone away before it has ended its test. -/
theorem releaseZone_law {y : Holder} (hy : x = some z ∨ y ≠ .head) (i : TestLaw x s) : TestLaw x (releaseZone y z s) := by
  unfold releaseZone
  split
  · exact i
  · rename_i hheld
    have hz : x = some z ∨ s.zar[z].holder ≠ .head := hy.imp_right fun hne => not_not.1 hheld ▸ hne
    split
    · exact releaseFirst_law hz i
    · exact (releaseLast_tests z s).law x (freed_law hz i)

theorem releaseZone_tests {y : Holder} (z : HeadIx) (hy : y ≠ .head) (a : Tests r s) : Tests r (releaseZone y z s) :=
  a.trans ⟨releaseZone_counts y z s, fun _ => releaseZone_law (.inr hy)⟩

theorem gantryHolder_ne_head (g : Gantry) : gantryHolder g ≠ .head := by cases g <;> decide

/-! ### The close of a step (R57, R95) -/

theorem inEitherOrder_tests {e f : State → State} (he : ∀ s, Tests r s → Tests r (e s))
    (hf : ∀ s, Tests r s → Tests r (f s)) (a : Tests r s) : Tests r (inEitherOrder e f s) := by
  have hdrawn : Tests r { s with free := s.free + 1 } := a.frame rfl
  rcases inEitherOrder_cases e f s with heq | heq <;> rw [heq]
  · exact he _ (hf _ hdrawn)
  · exact hf _ (he _ hdrawn)

theorem attemptBoth_tests (a : Tests r s) : Tests r (attemptBoth s) := by
  unfold attemptBoth
  split
  · exact inEitherOrder_tests (fun _ => attempt_tests .load) (fun _ => attempt_tests .unload) a
  · exact attempt_tests .unload (attempt_tests .load a)

theorem rounds_tests : ∀ (n : Nat) (s : State), Tests r s → Tests r (rounds n s)
  | 0, _, a => a
  | n + 1, s, a => by
    have hissued : Tests r (issueRound s (evaluateBoth s)) :=
      headsFollow_tests _ (attemptBoth_tests (a.frame (evaluateBoth_bench s)))
    unfold rounds
    dsimp only
    split
    · exact hissued
    · exact rounds_tests n _ hissued

theorem settle_tests (a : Tests r s) : Tests r (settle s) := rounds_tests _ _ a

/-! ### Completions, faults and recoveries (R102, R110, R112) -/

theorem complete_tests (g : Gantry) (o : Order) (p : List Byte) (f : Fate) (a : Tests r s) :
    Tests r (complete g o p f s) := by
  have hzone : ∀ s, Tests r s → Tests r (releaseOrderZone g o s) := fun s a => by
    unfold releaseOrderZone; split
    · exact releaseZone_tests _ (gantryHolder_ne_head g) a
    · exact a
  have happlied := hzone _ (headsFollow_tests (modGsq g (fun q => { q with timer := none, state := .idle }) s)
    (a.frame (t := checkEmpty (applyFate g o p f (modGsq g (fun q => { q with timer := none, state := .idle }) s)))
      (by simp)))
  have hended : ∀ before m ns s, Tests r s →
      Tests r (evaluateBoth (headsFollow before (checkEmpty (requeue g o f (loseMissing g m ns s))))) :=
    fun before m ns s a => (headsFollow_tests before (a.frame (by simp))).frame (evaluateBoth_bench _)
  unfold complete
  refine settle_tests (headsFollow_tests _ ?_)
  split
  · exact (hended _ _ _ _ happlied).frame (enterFault_bench ..)
  · exact hended _ _ _ _ happlied

theorem faultStep_tests (g : Gantry) (c : FaultCause) (a : Tests r s) : Tests r (faultStep g c s) :=
  settle_tests (headsFollow_tests _ (a.frame (enterFault_bench ..)))

theorem takeDone_tests (g : Gantry) (f : Frame) (a : Tests r s) : Tests r (takeDone g s f) := by
  unfold takeDone
  repeat' split
  · exact a
  · exact faultStep_tests _ _ a
  · exact faultStep_tests _ _ a
  · exact complete_tests _ _ _ _ a
  · exact a.frame (raise_bench ..)
  · exact a.frame (raise_bench ..)

theorem driveBytes_tests (g : Gantry) (bytes : List Byte) (s : State) : Tests s (driveBytes g bytes s) :=
  Tests.foldl (fun _ f => takeDone_tests g f) _ _ ((Tests.refl s).frame (modGsq_bench ..))

theorem resolveUncertain_bench (g : Gantry) (mask : Byte) (s : State) : bench (resolveUncertain g mask s) = bench s := by
  unfold resolveUncertain
  repeat' split
  all_goals simp

theorem returnIdle_bench (g : Gantry) (s : State) : bench (returnIdle g s) = bench s := by
  have hgrant : ∀ s, bench (dropGrant g s) = bench s := fun s => by
    unfold dropGrant
    repeat' split
    · rfl
    · exact setGrant_bench ..
    · rfl
  rw [returnIdle, hgrant]; simp

theorem recoverGantry_tests (g : Gantry) (mask : Byte) (a : Tests r s) : Tests r (recoverGantry g mask s) := by
  have hresolved : Tests r (headsFollow s (checkEmpty (resolveUncertain g mask s))) :=
    headsFollow_tests s (a.frame (by simp [resolveUncertain_bench]))
  have hcancelled : ∀ before ns s, Tests r s →
      Tests r (headsFollow before (checkEmpty (loseMissing g mask ns (cancelWhere g (fun _ => true) s)))) :=
    fun before _ s a => headsFollow_tests before (a.frame (by simp))
  have hreleased : ∀ s, Tests r s → Tests r (releaseHeld g s) :=
    Tests.foldl (fun _ z => releaseZone_tests z (gantryHolder_ne_head g)) _
  exact ((hreleased _ (hcancelled _ _ _ hresolved)).frame (returnIdle_bench g _)).frame rfl

theorem recovered_tests (gs : List Gantry) (presence : Gantry → Byte) (a : Tests r s) :
    Tests r (settle (recoverRun (gs.foldl (fun s g => recoverGantry g (presence g) s) s))) := by
  have hgantries := Tests.foldl (fun _ g => recoverGantry_tests g (presence g)) gs s a
  refine settle_tests ?_
  unfold recoverRun; split
  · exact enterHold_tests _ _ hgantries
  · exact hgantries

end Sys2Proof.Machine
end

section
/-! PROOF. What a capture records, socket by socket (R129): the three passes over the TESTING sockets each change one
socket and its unit, so what a capture makes of a socket is what the passes make of it alone. -/
namespace Sys2Proof.Machine

variable {r s t : State} {h : HeadIx} {k j : SocketIx} {u : UnitNo} {bin : SocketIx → BinCode} {c : BitVec 16}
  {d : BitVec 32} {timeout : Bool}

/-! ### What the passes over the sockets leave -/

/-- What a pass over the TESTING sockets leaves: heads, zones, tables, the lines, and each socket with its unit. -/
structure PassFrame (s t : State) : Prop where
  now : t.now = s.now
  heads : t.hsc.heads = s.hsc.heads
  zar : t.zar = s.zar
  srt : t.srt = s.srt
  ltc : t.ltc = s.ltc
  xpl : t.xpl = s.xpl
  lines : (bench t).lines = (bench s).lines
  unitOf : ∀ j : SocketIx, t.hsc.sockets[j].unit = s.hsc.sockets[j].unit

theorem PassFrame.refl (s : State) : PassFrame s s := ⟨rfl, rfl, rfl, rfl, rfl, rfl, rfl, fun _ => rfl⟩

theorem PassFrame.trans (a : PassFrame r s) (b : PassFrame s t) : PassFrame r t where
  now := b.now.trans a.now
  heads := b.heads.trans a.heads
  zar := b.zar.trans a.zar
  srt := b.srt.trans a.srt
  ltc := b.ltc.trans a.ltc
  xpl := b.xpl.trans a.xpl
  lines := b.lines.trans a.lines
  unitOf j := (b.unitOf j).trans (a.unitOf j)

/-- Changes at other sockets of the list, and at units that socket k does not hold. -/
structure Apart (ks : List SocketIx) (k : SocketIx) (s t : State) : Prop where
  frame : PassFrame s t
  socket : t.hsc.sockets[k] = s.hsc.sockets[k]
  unit : ∀ u, (∀ j ∈ ks, j ≠ k → s.hsc.sockets[j].unit ≠ u) → findUnit u t = findUnit u s

theorem Apart.refl (ks : List SocketIx) (k : SocketIx) (s : State) : Apart ks k s s := ⟨.refl s, rfl, fun _ _ => rfl⟩

theorem Apart.trans {ks : List SocketIx} (a : Apart ks k r s) (b : Apart ks k s t) : Apart ks k r t where
  frame := a.frame.trans b.frame
  socket := b.socket.trans a.socket
  unit u hu := (b.unit u fun j hj hne => by rw [a.frame.unitOf]; exact hu j hj hne).trans (a.unit u hu)

/-- A step of a pass: it changes one socket, which keeps its unit, and that unit's record. -/
structure PassStep (f : State → SocketIx → State) : Prop where
  frame : ∀ s j, PassFrame s (f s j)
  socket : ∀ s j (k : SocketIx), k ≠ j → (f s j).hsc.sockets[k] = s.hsc.sockets[k]
  unit : ∀ s j u, u ≠ s.hsc.sockets[j].unit → findUnit u (f s j) = findUnit u s

variable {f : State → SocketIx → State}

theorem PassStep.apart (p : PassStep f) {ks : List SocketIx} (s : State) (hj : j ∈ ks) (hne : j ≠ k) :
    Apart ks k s (f s j) where
  frame := p.frame s j
  socket := p.socket s j k hne.symm
  unit u hu := p.unit s j u (hu j hj hne).symm

/-- A pass over other sockets of the list. -/
theorem PassStep.foldl_apart (p : PassStep f) {ks : List SocketIx} : ∀ (l : List SocketIx) (s : State),
    (∀ j ∈ l, j ∈ ks ∧ j ≠ k) → Apart ks k s (l.foldl f s)
  | [], s, _ => .refl ks k s
  | j :: l, s, hl =>
    (p.apart s (hl j List.mem_cons_self).1 (hl j List.mem_cons_self).2).trans
      (p.foldl_apart l (f s j) fun i hi => hl i (List.mem_cons_of_mem j hi))

/-- A pass changes socket k, and its unit, once. -/
theorem PassStep.foldl_at (p : PassStep f) {ks : List SocketIx} (hn : ks.Nodup) (hk : k ∈ ks) (s : State) :
    ∃ w, Apart ks k s w ∧ Apart ks k (f w k) (ks.foldl f s) := by
  obtain ⟨before, after, hl⟩ := List.append_of_mem hk
  rw [hl, List.nodup_middle, List.nodup_cons, List.mem_append, not_or] at hn
  obtain ⟨⟨hbefore, hafter⟩, -⟩ := hn
  have hmem : ∀ j, j ∈ before ∨ j ∈ after → j ∈ ks := fun j hj => by
    rw [hl]; rcases hj with hj | hj <;> simp [hj]
  have hfold : ks.foldl f s = after.foldl f (f (before.foldl f s) k) := by
    rw [hl, List.foldl_append, List.foldl_cons]
  refine ⟨before.foldl f s, p.foldl_apart _ _ fun j hj => ⟨hmem j (.inl hj), fun e => hbefore (e ▸ hj)⟩, ?_⟩
  rw [hfold]
  exact p.foldl_apart _ _ fun j hj => ⟨hmem j (.inr hj), fun e => hafter (e ▸ hj)⟩

theorem PassStep.foldl_frame (p : PassStep f) : ∀ (l : List SocketIx) (s : State), PassFrame s (l.foldl f s)
  | [], s => .refl s
  | j :: l, s => (p.frame s j).trans (p.foldl_frame l (f s j))

/-! ### The three passes (R129, steps 1 to 3) -/

/-- A socket with its counts, quarantined where the new fail count has reached the threshold (R121). -/
def SocketRec.captured (q : Nat) (fail pass : Bool) (x : SocketRec) : SocketRec :=
  if 0 < q ∧ q ≤ (x.count fail pass).fails ∧ x.offPending = none then
    { x.count fail pass with offPending := some .quarantine }
  else x.count fail pass

/-- The attempt of a capture (R13). -/
def attemptAt (k : SocketIx) (c : BitVec 16) (b : BinCode) (d : BitVec 32) : Attempt :=
  { socket := k, cycle := c, bin := b, duration := d }

theorem quarantine_other (hj : j ≠ k) (s : State) : (quarantine k s).hsc.sockets[j] = s.hsc.sockets[j] := by
  unfold quarantine; dsimp only; split
  · simp only [raise_hsc]; exact modSocket_other _ _ _ _ hj
  · rfl

theorem quarantine_same (k : SocketIx) (s : State) : (quarantine k s).hsc.sockets[k] =
    if 0 < s.ltc.params.quarantineThreshold ∧ s.ltc.params.quarantineThreshold ≤ s.hsc.sockets[k].fails
        ∧ s.hsc.sockets[k].offPending = none then
      { s.hsc.sockets[k] with offPending := some .quarantine }
    else s.hsc.sockets[k] := by
  unfold quarantine; dsimp only; split
  · simp only [raise_hsc]; exact modSocket_same ..
  · rfl

theorem quarantine_frame (k : SocketIx) (s : State) : PassFrame s (quarantine k s) where
  now := by unfold quarantine; dsimp only; split <;> rfl
  heads := by unfold quarantine; dsimp only; split <;> rfl
  zar := by unfold quarantine; dsimp only; split <;> rfl
  srt := by unfold quarantine; dsimp only; split <;> rfl
  ltc := by unfold quarantine; dsimp only; split <;> rfl
  xpl := by unfold quarantine; dsimp only; split <;> rfl
  lines := by unfold quarantine; dsimp only; split <;> rfl
  unitOf j := by
    by_cases hj : j = k
    · subst hj; rw [quarantine_same]; split <;> rfl
    · rw [quarantine_other hj]

theorem quarantine_units (k : SocketIx) (s : State) : (quarantine k s).upt.units = s.upt.units := by
  unfold quarantine; dsimp only; split <;> rfl

/-- A change of a socket that keeps its unit, and of a unit record. -/
theorem PassFrame.onSocketUnit (u : UnitNo) (g : UnitRec → UnitRec) (k : SocketIx) (f : SocketRec → SocketRec) (s : State)
    (hf : ∀ x, (f x).unit = x.unit) : PassFrame s (modSocket k f (modUnit u g s)) where
  now := rfl
  heads := rfl
  zar := rfl
  srt := rfl
  ltc := rfl
  xpl := rfl
  lines := rfl
  unitOf j := by
    by_cases hj : j = k
    · subst hj; rw [modSocket_same, hf]; rfl
    · rw [modSocket_other _ _ _ _ hj]; rfl

theorem captureSocket_step (c : BitVec 16) (d : BitVec 32) (bin : SocketIx → BinCode) : PassStep (captureSocket c d bin) where
  frame s j := (PassFrame.onSocketUnit _ _ j (SocketRec.count _ _) s fun _ => rfl).trans (quarantine_frame j _)
  socket s j k hk := (quarantine_other hk _).trans (modSocket_other _ _ _ _ hk)
  unit s j u hu := (findUnit_congr (quarantine_units j _) u).trans (findUnit_modUnit_other hu)

theorem captureSocket_same {e : BinEntry} (he : s.srt.binMap[bin k] = some e) :
    (captureSocket c d bin s k).hsc.sockets[k] =
      s.hsc.sockets[k].captured s.ltc.params.quarantineThreshold e.fail e.pass := by
  have hflag : ∀ f : BinEntry → Bool, binFlag f (bin k) s = f e := fun f => by simp [binFlag, binEntry, he]
  simp only [captureSocket, hflag]
  rw [quarantine_same, modSocket_same]
  rfl

theorem findUnit_captureSocket {x : UnitRec} (hx : findUnit s.hsc.sockets[k].unit s = some x) :
    findUnit s.hsc.sockets[k].unit (captureSocket c d bin s k) =
      some { x with attempts := x.attempts ++ [attemptAt k c (bin k) d] } :=
  (findUnit_congr (quarantine_units k _) _).trans (findUnit_modUnit_same hx)

/-- A unit with the route that its bin gives it at socket k (R147). -/
def UnitRec.routed (purging : Bool) (maxAttempts : Nat) (e : BinEntry) (k : SocketIx) (x : UnitRec) : UnitRec :=
  if purging = false ∧ e.retest = true ∧ x.attempts.length < maxAttempts then
    { x with route := some .retest, excluded := x.excluded ||| BitVec.twoPow 16 k.val }
  else { x with route := some (.final (e.finalCategory x.clamped x.voided x.attempts.length) false) }

theorem routeUnit_frame (u : UnitNo) (k : SocketIx) (b : BinCode) (s : State) : PassFrame s (routeUnit u k b s)
    ∧ (routeUnit u k b s).hsc = s.hsc := by
  unfold routeUnit
  repeat' split
  all_goals exact ⟨⟨rfl, rfl, rfl, rfl, rfl, rfl, rfl, fun _ => rfl⟩, rfl⟩

theorem findUnit_routeUnit_other {v : UnitNo} (hv : v ≠ u) (k : SocketIx) (b : BinCode) (s : State) :
    findUnit v (routeUnit u k b s) = findUnit v s := by
  unfold routeUnit
  repeat' split
  · exact findUnit_modUnit_other hv
  · exact findUnit_modUnit_other hv
  · rfl

theorem findUnit_routeUnit {x : UnitRec} {e : BinEntry} {b : BinCode} (hx : findUnit u s = some x)
    (he : s.srt.binMap[b] = some e) : findUnit u (routeUnit u k b s)
      = some (x.routed (decide (s.ltc.state = .purging)) s.ltc.params.maxAttempts e k) := by
  have hentry : binEntry b s = some e := he
  unfold routeUnit
  simp only [hx, hentry, decideRoute, UnitRec.routed, Bool.and_eq_true, Bool.not_eq_true', decide_eq_true_eq, and_assoc]
  split_ifs
  · exact findUnit_modUnit_same hx
  · exact findUnit_modUnit_same hx

theorem routeSocket_step (bin : SocketIx → BinCode) : PassStep (routeSocket bin) where
  frame s j := (routeUnit_frame _ j _ s).1
  socket s j k _ := by rw [routeSocket, (routeUnit_frame ..).2]
  unit s j u hu := findUnit_routeUnit_other hu j _ s

theorem finishSocket_step : PassStep finishSocket where
  frame s j := PassFrame.onSocketUnit _ _ j _ s fun _ => rfl
  socket s j k hk := modSocket_other _ _ _ _ hk
  unit s j u hu := findUnit_modUnit_other hu

/-! ### The three passes together -/

/-- Steps 1 to 3 of a capture. -/
def passes (h : HeadIx) (bin : SocketIx → BinCode) (s : State) : State :=
  (testingSockets h s).foldl finishSocket ((testingSockets h s).foldl (routeSocket bin)
    ((testingSockets h s).foldl (captureSocket s.hsc.heads[h].cycle (testDuration h s) bin) s))

theorem captureUnits_eq (h : HeadIx) (timeout : Bool) (bin : SocketIx → BinCode) (s : State) :
    captureUnits h timeout bin s = recordCapture h timeout (testingSockets h s) bin (testDuration h s)
      (lowerLines h (passes h bin s)) := rfl

theorem testingSockets_nodup (h : HeadIx) (s : State) : (testingSockets h s).Nodup :=
  List.Nodup.filter _ ((by decide : ∀ h, (socketsOf h).Nodup) h)

theorem passes_frame (h : HeadIx) (bin : SocketIx → BinCode) (s : State) : PassFrame s (passes h bin s) :=
  (((captureSocket_step _ _ bin).foldl_frame _ s).trans ((routeSocket_step bin).foldl_frame _ _)).trans
    (finishSocket_step.foldl_frame _ _)

/-- A socket that the head does not test. -/
theorem passes_other (hk : ¬(headOf k = h ∧ s.hsc.sockets[k].state = .testing)) :
    (passes h bin s).hsc.sockets[k] = s.hsc.sockets[k] := by
  have hne : ∀ j ∈ testingSockets h s, j ∈ testingSockets h s ∧ j ≠ k := fun j hj =>
    ⟨hj, fun e => hk (mem_testingSockets.1 (e ▸ hj))⟩
  exact ((((captureSocket_step _ _ bin).foldl_apart _ s hne).trans
    ((routeSocket_step bin).foldl_apart _ _ hne)).trans (finishSocket_step.foldl_apart _ _ hne)).socket

/-- A TESTING socket and its unit after the three passes (R129, R121, R13, R147). -/
theorem passes_at {e : BinEntry} (hk : headOf k = h) (ht : s.hsc.sockets[k].state = .testing)
    (he : s.srt.binMap[bin k] = some e) :
    (passes h bin s).hsc.sockets[k] =
      { s.hsc.sockets[k].captured s.ltc.params.quarantineThreshold e.fail e.pass with state := .done }
    ∧ ∀ x : UnitRec, findUnit s.hsc.sockets[k].unit s = some x →
      (∀ j ∈ testingSockets h s, j ≠ k → s.hsc.sockets[j].unit ≠ s.hsc.sockets[k].unit) →
      findUnit s.hsc.sockets[k].unit (passes h bin s) = some
        { ({ x with attempts := x.attempts ++ [attemptAt k s.hsc.heads[h].cycle (bin k) (testDuration h s)] } : UnitRec).routed
            (decide (s.ltc.state = .purging)) s.ltc.params.maxAttempts e k with state := .tested } := by
  have hn := testingSockets_nodup h s
  have hm : k ∈ testingSockets h s := mem_testingSockets.2 ⟨hk, ht⟩
  unfold passes
  generalize testingSockets h s = ks at hn hm ⊢
  obtain ⟨w₁, hbefore₁, hafter₁⟩ := (captureSocket_step s.hsc.heads[h].cycle (testDuration h s) bin).foldl_at hn hm s
  generalize ks.foldl (captureSocket s.hsc.heads[h].cycle (testDuration h s) bin) s = s₁ at *
  obtain ⟨w₂, hbefore₂, hafter₂⟩ := (routeSocket_step bin).foldl_at hn hm s₁
  generalize ks.foldl (routeSocket bin) s₁ = s₂ at *
  obtain ⟨w₃, hbefore₃, hafter₃⟩ := finishSocket_step.foldl_at hn hm s₂
  generalize ks.foldl finishSocket s₂ = s₃ at *
  have hcaptured := hafter₁.trans hbefore₂
  have hrouted := hafter₂.trans hbefore₃
  have hframe₁ := hbefore₁.frame
  have hframe₂ := (hframe₁.trans ((captureSocket_step _ _ bin).frame w₁ k)).trans hcaptured.frame
  have hframe₃ := (hframe₂.trans ((routeSocket_step bin).frame w₂ k)).trans hrouted.frame
  have hframe₄ := hframe₃.trans (finishSocket_step.frame w₃ k)
  constructor
  · have hsame : (finishSocket w₃ k).hsc.sockets[k] = { w₃.hsc.sockets[k] with state := .done } := modSocket_same ..
    have hroute : (routeSocket bin w₂ k).hsc.sockets[k] = w₂.hsc.sockets[k] := by
      rw [routeSocket, (routeUnit_frame ..).2]
    have he₁ : w₁.srt.binMap[bin k] = some e := by rw [hframe₁.srt]; exact he
    rw [hafter₃.socket, hsame, hrouted.socket, hroute, hcaptured.socket, captureSocket_same he₁, hbefore₁.socket,
      hframe₁.ltc]
  · intro x hx hother
    have hu₁ := hframe₁.unitOf k
    have hu₂ := hframe₂.unitOf k
    have hu₃ := hframe₃.unitOf k
    have hafar : ∀ {w : State}, PassFrame s w →
        ∀ j ∈ ks, j ≠ k → w.hsc.sockets[j].unit ≠ s.hsc.sockets[k].unit := fun hf j hj hne => by
      rw [hf.unitOf]; exact hother j hj hne
    have hx₁ := (hbefore₁.unit _ (hafar (.refl s))).trans hx
    rw [← hu₁] at hx₁
    have hx₂ := findUnit_captureSocket (c := s.hsc.heads[h].cycle) (d := testDuration h s) (bin := bin) hx₁
    rw [hu₁, ← hcaptured.unit _ (hafar (hframe₁.trans ((captureSocket_step _ _ bin).frame w₁ k))), ← hu₂] at hx₂
    have he₂ : w₂.srt.binMap[bin k] = some e := by rw [hframe₂.srt]; exact he
    have hx₃ : findUnit _ (routeSocket bin w₂ k) = _ := findUnit_routeUnit (k := k) hx₂ he₂
    rw [hu₂, ← hrouted.unit _ (hafar (hframe₂.trans ((routeSocket_step bin).frame w₂ k))), ← hu₃] at hx₃
    have hx₄ : findUnit _ (finishSocket w₃ k) = _ := findUnit_modUnit_same (f := fun r => { r with state := .tested }) hx₃
    rw [hu₃, ← hafter₃.unit _ (hafar hframe₄)] at hx₄
    rw [hx₄, hframe₂.ltc]

/-! ### What a capture records (R129, steps 1 to 5) -/

/-- A head with the record of its capture (R134). -/
def HeadRec.captured (now : Time) (duration : Option (BitVec 32)) (bins : Vector (Option BinCode) 4) (r : HeadRec) :
    HeadRec :=
  { r with
    capture := some now
    summary := some { cycle := r.cycle, sot := r.sot.getD 0, duration := duration, bins := bins }
    fresh := true }

/-- A capture, change by change: the passes over the sockets, the lines, the head's record and the counts (R32). -/
theorem captureUnits_frame (h : HeadIx) (timeout : Bool) (bin : SocketIx → BinCode) (s : State) :
    ∃ p : Pins, captureUnits h timeout bin s = countCapture h timeout (modHead h (HeadRec.captured s.now
        (if timeout then none else some (testDuration h s)) (summaryBins h (testingSockets h s) bin))
        { passes h bin s with pins := p })
      ∧ (∀ j : HeadIx, p.sot[j] = if j = h then false else s.pins.sot[j])
      ∧ ∀ k : SocketIx, p.ld[k] = if headOf k = h then false else s.pins.ld[k] := by
  have hframe := passes_frame h bin s
  have hsot : (passes h bin s).pins.sot = s.pins.sot := congrArg Prod.fst hframe.lines
  have hld : (passes h bin s).pins.ld = s.pins.ld := congrArg (fun l => l.2.1) hframe.lines
  obtain ⟨p, hlines, -, hpsot, hpld⟩ := lowerLines_frame h (passes h bin s)
  rw [hsot] at hpsot
  rw [hld] at hpld
  refine ⟨p, ?_, hpsot, hpld⟩
  rw [captureUnits_eq, hlines, ← hframe.now]
  rfl

theorem captureUnits_heads (h j : HeadIx) (timeout : Bool) (bin : SocketIx → BinCode) (s : State) :
    (captureUnits h timeout bin s).hsc.heads[j] = if j = h then s.hsc.heads[j].captured s.now
        (if timeout then none else some (testDuration h s)) (summaryBins h (testingSockets h s) bin)
      else s.hsc.heads[j] := by
  obtain ⟨p, heq, -⟩ := captureUnits_frame h timeout bin s
  rw [heq]
  generalize hf : HeadRec.captured s.now _ _ = f
  have hheads : (countCapture h timeout (modHead h f { passes h bin s with pins := p })).hsc.heads
      = (modHead h f { passes h bin s with pins := p }).hsc.heads := rfl
  simp only [hheads]
  rw [← (passes_frame h bin s).heads]
  split <;> rename_i hj
  · subst hj; exact modHead_same ..
  · exact modHead_other _ _ _ _ hj

theorem captureUnits_zar : (captureUnits h timeout bin s).zar = s.zar := by
  obtain ⟨p, heq, -⟩ := captureUnits_frame h timeout bin s
  rw [heq, ← (passes_frame h bin s).zar]
  rfl

theorem captureUnits_xpl : (captureUnits h timeout bin s).xpl = s.xpl := by
  obtain ⟨p, heq, -⟩ := captureUnits_frame h timeout bin s
  rw [heq, ← (passes_frame h bin s).xpl]
  rfl

theorem captureUnits_ltc : (captureUnits h timeout bin s).ltc = (countCapture h timeout s).ltc := by
  obtain ⟨p, heq, -⟩ := captureUnits_frame h timeout bin s
  have hltc := (passes_frame h bin s).ltc
  rw [heq]
  simp only [countCapture, modLtc]
  rw [← hltc]
  rfl

theorem captureUnits_sockets : (captureUnits h timeout bin s).hsc.sockets = (passes h bin s).hsc.sockets := by
  obtain ⟨p, heq, -⟩ := captureUnits_frame h timeout bin s
  rw [heq]
  rfl

theorem captureUnits_unit (u : UnitNo) : findUnit u (captureUnits h timeout bin s) = findUnit u (passes h bin s) := by
  obtain ⟨p, heq, -⟩ := captureUnits_frame h timeout bin s
  exact findUnit_congr (by rw [heq]; rfl) u

end Sys2Proof.Machine
end

section
/-! PROOF. The law of R126 and R128 through the captures, the hold, the return to RUN
and the ESTOP. -/
namespace Sys2Proof.Machine

variable {x : Option HeadIx} {r s t : State} {h : HeadIx} {bin : SocketIx → BinCode}

/-! ### The end of a test (R129, R130, R131) -/

/-- A change outside the heads, the zones and the tester lines. -/
theorem TestLaw.frame (i : TestLaw x s) (hl : (bench t).lines = (bench s).lines := by rfl)
    (hh : t.hsc = s.hsc := by rfl) (hz : t.zar = s.zar := by rfl) : TestLaw x t :=
  i.congr hl (fun k hk => by rw [hh]; exact hk) (by simp only [bench, hh]) (by simp only [bench, hz])

/-- Steps 1 to 5 of a capture leave the head in TEST, with its lines low. -/
theorem TestLaw.captureUnits (i : TestLaw none s) (ht : s.hsc.heads[h].state = .test) (timeout : Bool)
    (bin : SocketIx → BinCode) : TestLaw (some h) (captureUnits h timeout bin s) := by
  have hlow := (captureUnits_keeps h timeout bin (.refl s)).lines.2.2.2
  have hzar : (Machine.captureUnits h timeout bin s).zar = s.zar := captureUnits_zar
  have hsockets : ∀ k : SocketIx, headOf k ≠ h →
      (Machine.captureUnits h timeout bin s).hsc.sockets[k] = s.hsc.sockets[k] := fun k hk => by
    simp only [captureUnits_sockets]; exact passes_other fun hc => hk hc.1
  have hheads : ∀ j : HeadIx, (Machine.captureUnits h timeout bin s).hsc.heads[j].state = s.hsc.heads[j].state :=
    fun j => by rw [captureUnits_heads]; split <;> rfl
  obtain ⟨p, heq, hsot, hld⟩ := captureUnits_frame h timeout bin s
  have hpins : (Machine.captureUnits h timeout bin s).pins = p := by rw [heq]; rfl
  rw [← hpins] at hsot hld
  generalize Machine.captureUnits h timeout bin s = t at hlow hzar hsockets hheads hsot hld
  refine ⟨hlow.trans i.high, fun j hj => ?sot, fun k hk => ?ld, fun j hj => ?request, fun j hj htest => ?zone,
    fun j hj => ?ending⟩
  case sot =>
    have hne : j ≠ h := fun e => hj (e ▸ rfl)
    rw [hsot, if_neg hne, hheads]; exact i.sot j nofun
  case ld =>
    rw [hld] at hk
    split at hk
    · cases hk
    · rename_i hne
      rw [hheads, hsockets k hne]; exact i.ld k hk
  case request => rw [hzar] at hj; rw [hheads]; exact i.request j hj
  case zone => rw [hheads] at htest; rw [hzar]; exact i.zone j nofun htest
  case ending =>
    obtain rfl : h = j := Option.some.inj hj
    exact ⟨by rw [hheads]; exact ht, by rw [hsot, if_pos rfl], fun k hk => by rw [hld, if_pos hk]⟩

/-- A head that has ended its test leaves TEST. -/
theorem TestLaw.enterFill (i : TestLaw (some h) s) : TestLaw none (enterFill h s) := by
  refine TestLaw.of_bench ?_ (enterFill_bench h s)
  obtain ⟨htest, hlow, hlines⟩ := i.ending h rfl
  have hsame : (modHead h (fun r => { r with state := .fill }) s).hsc.heads[h].state = .fill := by rw [modHead_same]
  have hother : ∀ j : HeadIx, j ≠ h → (modHead h (fun r => { r with state := .fill }) s).hsc.heads[j]
    = s.hsc.heads[j] := fun j => modHead_other s h j _
  have hne : ∀ j : HeadIx, j ≠ h → (some h : Option HeadIx) ≠ some j := fun j hj e => hj (Option.some.inj e).symm
  refine ⟨i.high, fun j _ => ?_, fun k hk => ?_, fun j hj => ?_, fun j _ ht => ?_, nofun⟩
  · by_cases e : j = h
    · subst e; rw [hsame]; exact hlow
    · rw [hother j e]; exact i.sot j (hne j e)
  · have hk : s.pins.ld[k] = true := hk
    have e : headOf k ≠ h := fun e => by rw [hlines k e] at hk; cases hk
    rw [hother _ e]
    exact i.ld k hk
  · have hwait := i.request j hj
    by_cases e : j = h
    · subst e; rw [htest] at hwait; cases hwait
    · rw [hother j e]; exact hwait
  · by_cases e : j = h
    · subst e; rw [hsame] at ht; cases ht
    · rw [hother j e] at ht; exact i.zone j (hne j e) ht

theorem TestLaw.capture (i : TestLaw none s) (ht : s.hsc.heads[h].state = .test) (timeout : Bool)
    (bin : SocketIx → BinCode) : TestLaw none (capture h timeout bin s) :=
  TestLaw.enterFill (releaseZone_law (.inl rfl) (i.captureUnits ht timeout bin))

theorem sampleFactor_bench (h : HeadIx) (lines : Vector BinLine 4) (s : State) (k : SocketIx) :
    bench (sampleFactor h lines s k) = bench s := by
  unfold sampleFactor
  dsimp only
  split_ifs <;> rfl

theorem stopTest_bench (h : HeadIx) (s : State) : bench (stopTest h s) = bench s := modHead_bench h _ s

theorem TestLaw.endOfTest (i : TestLaw none s) (ht : s.hsc.heads[h].state = .test) (lines : Vector BinLine 4) :
    TestLaw none (endOfTest h lines s) := by
  have hbench : bench (stopTest h ((socketsOf h).foldl (sampleFactor h lines) s)) = bench s :=
    (stopTest_bench h _).trans (foldl_bench (sampleFactor_bench h lines) _ s)
  have hheads := (congrFun (congrArg Bench.heads hbench) h).trans ht
  have hstopped := i.of_bench hbench
  unfold Machine.endOfTest
  generalize stopTest h ((socketsOf h).foldl (sampleFactor h lines) s) = w at *
  exact TestLaw.capture (s := updateEstimate h (testDuration h s).toNat w) hstopped.frame hheads _ _

theorem TestLaw.timeoutCapture (i : TestLaw none s) (ht : s.hsc.heads[h].state = .test) :
    TestLaw none (timeoutCapture h s) := by
  have hbench : bench (stopTest h s) = bench s := stopTest_bench h s
  exact ((i.of_bench hbench).capture ((congrFun (congrArg Bench.heads hbench) h).trans ht) _ _).of_bench (raise_bench ..)

/-- The close of a step. -/
theorem TestLaw.close (i : TestLaw x s) (before : State) : TestLaw x (settle (headsFollow before s)) :=
  (settle_tests (headsFollow_tests before (.refl s))).law x i

theorem TestLaw.eotEdge (i : TestLaw none s) (h : HeadIx) (lines : Vector BinLine 4) :
    TestLaw none (eotEdge h lines s) := by
  unfold Machine.eotEdge; split
  · rename_i ht; exact (i.endOfTest ht lines).close s
  · exact i.frame

theorem TestLaw.testExpiry (i : TestLaw none s) (ht : s.hsc.heads[h].state = .test) : TestLaw none (testExpiry h s) :=
  (i.timeoutCapture ht).close s

/-! ### Run control (R162 to R165) -/

theorem holdWith_tests (c : HoldCause) (s : State) : Tests s (holdWith c s) := by
  unfold holdWith
  split
  · exact enterHold_tests _ _ (.refl s)
  · exact enterHold_tests _ _ (.refl s)
  · exact .of_bench rfl
  · exact .refl s

theorem returnToRun_tests (s : State) : Tests s (returnToRun s) := by
  have hresumed : Tests s (runResumed s) := .of_bench (modHeads_bench _ _)
  rw [returnToRun_eq]
  exact settle_tests (inEitherOrder_tests (fun _ => headsReturn_tests)
    (fun _ => inEitherOrder_tests (fun _ => attemptBoth_tests) fun _ a => a.frame (evaluateBoth_bench _)) hresumed)

theorem resume_tests (s : State) : Tests s (resume s) := by
  unfold resume
  dsimp only
  generalize hw : modRcu _ (grantHeld s) = w
  have hbegun : Tests s w := .of_bench (hw ▸ rfl)
  split
  · exact hbegun.trans (returnToRun_tests w)
  · exact hbegun

theorem TestLaw.enterEstop (i : TestLaw none s) : TestLaw none (enterEstop s) := by
  have hheads := enterEstop_heads s
  have hzar := enterEstop_zar s
  obtain ⟨hsockets, -⟩ := enterEstop_places s
  have hsot := (enterEstop_voids s).sot
  have hld := (enterEstop_voids s).ld
  have hlow := (enterEstop_keeps (.refl s)).lines.2.2.2
  obtain ⟨_, _, _, hbegun, -⟩ := estopBegun_frame s
  simp only [inTest_estopBegun] at hsot hld
  simp only [hbegun] at hsot hld
  have hstate : ∀ j : HeadIx, (Machine.enterEstop s).hsc.heads[j].state ≠ .test ∧
      (s.hsc.heads[j].state ≠ .test → (Machine.enterEstop s).hsc.heads[j].state = s.hsc.heads[j].state) := fun j => by
    obtain ⟨y, hy, hout, -, -, -, -, hsame, -⟩ := hheads j
    rw [hy]; exact ⟨hout, hsame⟩
  generalize Machine.enterEstop s = t at *
  refine ⟨hlow.trans i.high, fun j _ => ?_, fun k hk => ?_, fun j hj => ?_, fun j _ ht => absurd ht (hstate j).1, nofun⟩
  · rw [decide_eq_false (hstate j).1, hsot]
    split
    · rfl
    · rename_i hout
      exact (i.sot j nofun).trans (decide_eq_false hout)
  · rw [hld] at hk
    split at hk
    · cases hk
    · rename_i hout
      exact absurd (i.ld k hk).2 hout
  · rw [hzar] at hj; cases hj

theorem TestLaw.estopOn (i : TestLaw none s) : TestLaw none (estopOn s) := by
  have hseen : TestLaw none (modPins (fun p => { p with estop := true }) s) := i.frame
  unfold Machine.estopOn
  split
  · exact i
  · dsimp only
    split
    · exact hseen.frame
    · exact hseen.enterEstop

theorem TestLaw.doorOpens (i : TestLaw none s) : TestLaw none (doorOpens s) := by
  have hseen : TestLaw none (modPins (fun p => { p with door := true }) s) := i.frame
  unfold Machine.doorOpens; split
  · exact i
  · exact (holdWith_tests .door _).law none hseen

theorem TestLaw.doorCloses (i : TestLaw none s) : TestLaw none (doorCloses s) := by
  unfold Machine.doorCloses; dsimp only; split
  · exact i.frame
  · exact i.frame

end Sys2Proof.Machine
end

section
/-! PROOF. A head asks for its zone: what it asks for, what it is granted, and what that leaves to the other heads (R126,
R137). -/
namespace Sys2Proof.Machine

variable {s t w : State} {tag : Byte} {h j : HeadIx}

/-! ### A head asks for its zone (R126, R137) -/

/-- A zone after a change of one zone. -/
theorem modZone_at (z j : HeadIx) (f : Zone → Zone) (s : State) :
    (modZone z f s).zar[j] = if j = z then f s.zar[j] else s.zar[j] := by
  split <;> rename_i hj
  · rw [hj]; exact modZone_same ..
  · exact modZone_other _ _ _ _ hj

theorem grantHead_zar (h j : HeadIx) (s : State) : (grantHead h s).zar[j] =
    if j = h then { s.zar[j] with holder := .head, head := false } else s.zar[j] := by
  simp only [grantHead, startTest_zar]
  exact modZone_at h j _ s

theorem grantHead_rcu (h : HeadIx) (s : State) : (grantHead h s).rcu = s.rcu := startTest_rcu h _

theorem grantHead_heads (h j : HeadIx) (s : State) : (grantHead h s).hsc.heads[j] = if j = h then
      { s.hsc.heads[j] with
        cycle := s.hsc.heads[j].cycle + 1, sot := some s.now, state := .test
        test := startTimer s.ltc.params.testTimeout s
        credit := if s.rcu.mode = .single then false else s.hsc.heads[j].credit }
    else s.hsc.heads[j] := startTest_heads h j (modZone h (fun z => { z with holder := .head, head := false }) s)

/-- A head asks for its zone where it waits in START_WAIT, in RUN, with its credit present (R126). -/
abbrev asksForZone (h : HeadIx) (s : State) : Prop :=
  s.hsc.heads[h].state = .startWait ∧ s.rcu.run = .run ∧ creditPresent h s = true

theorem requestHead_of_not_asking (hn : ¬asksForZone h s) : requestHead h s = s := if_neg hn

theorem requestHead_of_free (ha : asksForZone h s) (hz : s.zar[h].holder = .none) : requestHead h s = grantHead h s := by
  rw [requestHead, if_pos ha, hz]

theorem requestHead_of_held (ha : asksForZone h s) (hz : s.zar[h].holder = .load ∨ s.zar[h].holder = .unload) :
    requestHead h s = modZone h (fun z => { z with head := true }) s := by
  rcases hz with hz | hz <;> rw [requestHead, if_pos ha, hz]

/-- The head has its zone already. -/
theorem requestHead_of_own (hz : s.zar[h].holder = .head) : requestHead h s = s := by
  unfold requestHead; split
  · rw [hz]
  · rfl

/-- A head that asks finds its zone free, held by a gantry, or its own. -/
theorem requestHead_induct {motive : State → Prop} (hs : motive s) (hgrant : asksForZone h s → motive (grantHead h s))
    (hwait : motive (modZone h (fun z => { z with head := true }) s)) : motive (requestHead h s) := by
  by_cases ha : asksForZone h s
  · cases hz : s.zar[h].holder with
    | none => rw [requestHead_of_free ha hz]; exact hgrant ha
    | head => rw [requestHead_of_own hz]; exact hs
    | load => rw [requestHead_of_held ha (.inl hz)]; exact hwait
    | unload => rw [requestHead_of_held ha (.inr hz)]; exact hwait
  · rw [requestHead_of_not_asking ha]; exact hs

theorem requestHead_rcu (h : HeadIx) (s : State) : (requestHead h s).rcu = s.rcu :=
  requestHead_induct (motive := fun t => t.rcu = s.rcu) rfl (fun _ => grantHead_rcu h s) rfl

/-- Other heads and their zones. -/
theorem requestHead_other (hj : j ≠ h) (s : State) :
    (requestHead h s).hsc.heads[j] = s.hsc.heads[j] ∧ (requestHead h s).zar[j] = s.zar[j] := by
  refine requestHead_induct (motive := fun t => t.hsc.heads[j] = s.hsc.heads[j] ∧ t.zar[j] = s.zar[j]) ⟨rfl, rfl⟩
    (fun _ => ?_) ?_
  · rw [grantHead_heads, grantHead_zar, if_neg hj, if_neg hj]
    exact ⟨rfl, rfl⟩
  · rw [modZone_at, if_neg hj]
    exact ⟨rfl, rfl⟩

/-! ### Every head asks (R171) -/

/-- What other heads leave: head h with its zone, and run control. -/
structure Besides (h : HeadIx) (s t : State) : Prop where
  head : t.hsc.heads[h] = s.hsc.heads[h]
  zone : t.zar[h] = s.zar[h]
  rcu : t.rcu = s.rcu

theorem Besides.refl (h : HeadIx) (s : State) : Besides h s s := ⟨rfl, rfl, rfl⟩

theorem Besides.trans {r : State} (a : Besides h r s) (b : Besides h s t) : Besides h r t :=
  ⟨b.head.trans a.head, b.zone.trans a.zone, b.rcu.trans a.rcu⟩

theorem foldl_requestHead_besides : ∀ (l : List HeadIx) (s : State), h ∉ l →
    Besides h s (l.foldl (fun s h => requestHead h s) s)
  | [], s, _ => .refl h s
  | j :: l, s, hl => by
    have hne : h ≠ j := fun e => hl (e ▸ List.mem_cons_self)
    obtain ⟨hhead, hzone⟩ := requestHead_other hne s
    exact Besides.trans ⟨hhead, hzone, requestHead_rcu j s⟩
      (foldl_requestHead_besides l _ fun hm => hl (List.mem_cons_of_mem j hm))

/-- Where every head asks, head h asks once, as it and its zone are. -/
theorem foldl_requestHead_at (h : HeadIx) (s : State) :
    ∃ w, Besides h s w ∧ Besides h (requestHead h w) (allHeads.foldl (fun s h => requestHead h s) s) := by
  obtain ⟨before, after, hl⟩ := List.append_of_mem (mem_allHeads h)
  have hn : (before ++ h :: after).Nodup := hl ▸ (by decide : allHeads.Nodup)
  rw [List.nodup_middle, List.nodup_cons, List.mem_append, not_or] at hn
  obtain ⟨⟨hbefore, hafter⟩, -⟩ := hn
  refine ⟨_, foldl_requestHead_besides before s hbefore, ?_⟩
  rw [hl, List.foldl_append, List.foldl_cons]
  exact foldl_requestHead_besides after _ hafter

theorem foldl_requestHead_rcu (s : State) : (allHeads.foldl (fun s h => requestHead h s) s).rcu = s.rcu := by
  obtain ⟨w, hw, ht⟩ := foldl_requestHead_at 0 s
  rw [ht.rcu, requestHead_rcu, hw.rcu]

end Sys2Proof.Machine
end

section
/-! PROOF. The law of R126 and R128 through the requests (Table 11-3). -/
namespace Sys2Proof.Machine

variable {x : Option HeadIx} {r s t : State} {h : HeadIx}

theorem serveLotStart_law (i : TestLaw none s) : TestLaw none (serveLotStart s).1 := by
  unfold serveLotStart
  repeat' split
  · exact i
  · exact i
  · exact TestLaw.close (s := startLot s) i.frame s

theorem purgeHead_tests (h : HeadIx) (a : Tests r s) : Tests r (purgeHead s h) := by
  have hevicted : ∀ s, Tests r s → Tests r ((loadedSockets h s).foldl (fun s k => evict k s) s) := fun s a =>
    a.frame (foldl_bench (fun s k => evict_bench k s) _ s)
  unfold purgeHead
  dsimp only
  split
  · rename_i hw; exact hevicted _ (backToFill_tests hw a)
  · exact hevicted _ a

theorem purgeLot_tests (s : State) : Tests s (purgeLot s) := by
  have hheads : ∀ s, Tests s (allHeads.foldl purgeHead s) := fun s =>
    Tests.foldl (fun _ h => purgeHead_tests h) _ _ (.refl s)
  have hended : ∀ s, bench (checkEmpty (purgeFeed (modXpl (fun x => { x with staging := none }) s))) = bench s :=
    fun s => by simp [modXpl_bench]
  unfold purgeLot
  dsimp only
  refine (Tests.trans (Tests.of_bench ?_) (hheads _)).frame (hended _)
  rw [purgeRoutes_bench, cancelWhere_bench, checkEmpty_bench]
  exact modLtc_bench _ s

theorem serveLotPurge_law (i : TestLaw none s) : TestLaw none (serveLotPurge s).1 := by
  unfold serveLotPurge; split
  · exact ((purgeLot_tests s).law none i).close s
  · exact i

theorem closeLot_tests (s : State) : Tests s (closeLot s) := by
  unfold closeLot; dsimp only; split
  · exact enterHold_tests _ _ (.of_bench rfl)
  · exact .of_bench rfl

theorem serveLotClose_law (i : TestLaw none s) : TestLaw none (serveLotClose s).1 := by
  unfold serveLotClose; split
  · exact ((closeLot_tests s).law none i).close s
  · exact i

theorem armInput_bench (st : Side) (m : FeedMode) (first count : Nat) (more : Bool) (s : State) :
    bench (armInput st m first count more s) = bench s := by
  unfold armInput; dsimp only; split <;> simp

theorem serveArmInput_law (station mode : Byte) (first count : Half) (more : Byte) (i : TestLaw none s) :
    TestLaw none (serveArmInput station mode first count more s).1 := by
  unfold serveArmInput
  split
  · split_ifs
    iterate 5 exact i
    exact (settle_tests (.of_bench (armInput_bench ..))).law none i
  · exact i

theorem armOutput_bench (st : OutStation) (first count : Nat) (s : State) :
    bench (armOutput st first count s) = bench s := by
  unfold armOutput; dsimp only; split <;> rfl

theorem serveArmOutput_law (station : Byte) (first count : Half) (i : TestLaw none s) :
    TestLaw none (serveArmOutput station first count s).1 := by
  unfold serveArmOutput
  split
  · split_ifs
    iterate 4 exact i
    exact (settle_tests (.of_bench (armOutput_bench ..))).law none i
  · exact i

theorem serveSocketEnable_law (socket : Byte) (i : TestLaw none s) : TestLaw none (serveSocketEnable socket s).1 := by
  unfold serveSocketEnable
  split
  · rename_i k _
    split_ifs with hoff
    · exact i
    · exact i
    · refine (i.of_bench (modSocket_bench k _ s ?_)).close s
      rw [not_not.1 hoff]; simp
  · exact i

theorem disableSocket_bench (k : SocketIx) (s : State) : bench (disableSocket k s) = bench s := by
  have hset : ∀ s, bench (setOffPending k s) = bench s := fun s => modSocket_bench k _ s Iff.rfl
  unfold disableSocket
  split <;> rename_i hk
  · rfl
  · exact modSocket_bench k _ s (by rw [hk]; simp)
  all_goals simp [hset]

theorem serveSocketDisable_law (socket : Byte) (i : TestLaw none s) : TestLaw none (serveSocketDisable socket s).1 := by
  unfold serveSocketDisable
  repeat' split
  · exact i
  · exact (i.of_bench ((checkEmpty_bench _).trans (disableSocket_bench ..))).close s
  · exact i

theorem serveSocketClear_law (socket : Byte) (i : TestLaw none s) : TestLaw none (serveSocketClear socket s).1 := by
  unfold serveSocketClear
  split
  · rename_i k _
    split_ifs with hjam
    · exact i
    · refine (i.of_bench (modSocket_bench k _ s ?_)).close s
      rw [not_not.1 hjam]
      exact iff_of_false (vacate_not_testing _) (by decide)
  · exact i

theorem serveSoakClear_law (position : Byte) (i : TestLaw none s) : TestLaw none (serveSoakClear position s).1 := by
  unfold serveSoakClear
  repeat' split
  · exact (settle_tests (.refl _)).law none i.frame
  · exact i
  · exact i

theorem serveUnitClear_law (u : Word) (i : TestLaw none s) : TestLaw none (serveUnitClear u s).1 := by
  unfold serveUnitClear
  repeat' split
  · exact i
  · exact i
  · exact i
  · exact (settle_tests (.refl _)).law none i.frame

theorem serveHold_law (c : HoldCause) (i : TestLaw none s) : TestLaw none (serveHold c s).1 := by
  unfold serveHold; split
  · exact i
  · exact (holdWith_tests c s).law none i

theorem serveResume_law (i : TestLaw none s) : TestLaw none (serveResume s).1 := by
  unfold serveResume
  split_ifs
  iterate 4 exact i
  exact (resume_tests s).law none i

theorem serveRecover_law (mask lp up : Byte) (i : TestLaw none s) : TestLaw none (serveRecover mask lp up s).1 := by
  unfold serveRecover
  dsimp only
  repeat' split
  iterate 5 exact i
  exact (recovered_tests _ _ (.refl s)).law none i

theorem setRunMode_tests (m : RunMode) (s : State) : Tests s (setRunMode m s) := by
  unfold setRunMode
  split
  · have hcleared : Tests s (modHeads (fun h => { h with credit := false })
        (modRcu (fun r => { r with mode := .single }) s)) := .of_bench (modHeads_bench _ _)
    exact hcleared.onZones _
  · exact Tests.foldl (fun _ h => requestHead_tests h) _ _ (.of_bench rfl)
  · exact .refl s

theorem serveSetMode_law (mode : Byte) (timeout delay : Half) (i : TestLaw none s) :
    TestLaw none (serveSetMode mode timeout delay s).1 := by
  unfold serveSetMode
  repeat' split
  · exact TestLaw.close ((setRunMode_tests _ _).law none i.frame) s
  · exact i
  · exact i

theorem giveCredit_tests (mask : Byte) (h : HeadIx) (a : Tests r s) : Tests r (giveCredit mask s h) := by
  unfold giveCredit; split
  · exact requestHead_tests h (a.frame (modHead_bench h _ s))
  · exact a

theorem serveCycle_law (mask : Byte) (i : TestLaw none s) : TestLaw none (serveCycle mask s).1 := by
  unfold serveCycle
  repeat' split
  · exact i
  · exact i
  · exact ((Tests.foldl (fun _ h => giveCredit_tests mask h) _ _ (.refl s)).law none i).close s

theorem serveHeadQuery_law (head : Byte) (i : TestLaw none s) : TestLaw none (serveHeadQuery head s).1 := by
  unfold serveHeadQuery; split
  · dsimp only; split
    · exact i
    · exact i.of_bench (modHead_bench _ _ s)
  · exact i

theorem serveLogRead_law (count : Byte) (i : TestLaw none s) : TestLaw none (serveLogRead count s).1 := by
  unfold serveLogRead
  split
  · exact i
  · dsimp only; split
    · exact i
    · exact (settle_tests (.refl _)).law none i.frame

theorem TestLaw.stores (i : TestLaw x s) (h : StoresOnly s t) : TestLaw x t :=
  i.congr h.lines (fun k hk => (h.sockets k).trans hk) (by simp only [bench, h.heads]) (by simp only [bench, h.zones])

theorem serve_law (q : Request) (i : TestLaw none s) : TestLaw none (serve q s).1 := by
  cases q with
  | lotStart => exact serveLotStart_law i
  | lotPurge => exact serveLotPurge_law i
  | lotClose => exact serveLotClose_law i
  | armInput => exact serveArmInput_law _ _ _ _ _ i
  | armOutput => exact serveArmOutput_law _ _ _ i
  | socketEnable => exact serveSocketEnable_law _ i
  | socketDisable => exact serveSocketDisable_law _ i
  | socketClear => exact serveSocketClear_law _ i
  | soakClear => exact serveSoakClear_law _ i
  | unitClear => exact serveUnitClear_law _ i
  | hold => exact serveHold_law _ i
  | holdNow => exact serveHold_law _ i
  | resume => exact serveResume_law i
  | recover => exact serveRecover_law _ _ _ i
  | setMode => exact serveSetMode_law _ _ _ i
  | cycle => exact serveCycle_law _ i
  | status factor => exact (serveStatus_fst factor s).symm ▸ i
  | unitQuery u place => exact (serveUnitQuery_fst u place s).symm ▸ i
  | socketQuery socket => exact (serveSocketQuery_fst socket s).symm ▸ i
  | headQuery => exact serveHeadQuery_law _ i
  | stationQuery station => exact (serveStationQuery_fst station s).symm ▸ i
  | lotSummary => exact (serveLotSummary_fst s).symm ▸ i
  | logRead => exact serveLogRead_law _ i
  | _ => exact i.stores (serve_storesOnly _ rfl nofun nofun)

end Sys2Proof.Machine
end

section
/-! PROOF. The law of R126 and R128 through every command: the requests and events where RESET_N is high, the lines and
the reset where it is low (R175, R181). -/
namespace Sys2Proof.Machine

variable {s t : State}

/-! ### The cell link -/

theorem takeRequest_law (tag : Byte) (q : Request) (i : TestLaw none s) : TestLaw none (takeRequest tag q s) :=
  (serve_law q i).of_bench rfl

theorem takeFrame_law (f : Frame) (i : TestLaw none s) : TestLaw none (takeFrame f s) := by
  unfold takeFrame; split
  · exact i.frame
  · exact i.frame
  · exact takeRequest_law _ _ i

theorem pump_law (i : TestLaw none s) : TestLaw none (pump s) := by
  unfold pump; split
  · exact takeFrame_law _ i.frame
  · exact i

theorem receive_law (f : Frame) (i : TestLaw none s) : TestLaw none (receive s f) := by
  refine pump_law ?_
  unfold joinQueue; split
  · exact i.frame
  · exact i

theorem foldl_receive_law : ∀ (fs : List Frame) (s : State), TestLaw none s → TestLaw none (fs.foldl receive s)
  | [], _, i => i
  | f :: fs, s, i => foldl_receive_law fs (receive s f) (receive_law f i)

theorem cellBytes_law (bytes : List Byte) (i : TestLaw none s) : TestLaw none (cellBytes bytes s) :=
  foldl_receive_law _ _ i.frame

theorem submit_law (tag : Byte) (q : Request) (i : TestLaw none s) : TestLaw none (submit tag q s) := by
  unfold submit
  repeat' split
  · exact takeRequest_law _ _ i
  · exact i.frame
  · exact receive_law _ i

theorem startTx_law (i : TestLaw none s) : TestLaw none (startTx s) := by
  unfold startTx
  repeat' split
  · exact i
  · exact i.frame
  · exact i.frame
  · exact i

/-! ### Reset and the end of a reply -/

theorem resetValues_law (s : State) : TestLaw none (resetValues s) := ((sotInv_iff rfl).1 reset_SotInv).of_bench rfl

theorem endReset_law (rate : Bool) (s : State) : TestLaw none (endReset rate s) := by
  have hdoor : TestLaw none (readDoor (resetValues (modPins (fun p => { p with rate := rate }) s))) := by
    unfold readDoor; split
    · exact (resetValues_law _).frame
    · exact resetValues_law _
  rw [endReset, readLines_eq]; split
  · exact hdoor.enterEstop
  · exact hdoor

theorem replyDone_law (i : TestLaw none s) : TestLaw none (replyDone s) := by
  unfold replyDone
  repeat' split
  · exact i
  · exact endReset_law _ _
  · exact pump_law i.frame

theorem noticeDone_law (i : TestLaw none s) : TestLaw none (noticeDone s) := by
  unfold noticeDone; split
  · exact i
  · exact i.frame

theorem gapTimeout_law (l : Link) (i : TestLaw none s) : TestLaw none (gapTimeout l s) := by
  cases l with
  | cell => exact i.frame
  | drive g => exact i.of_bench (modGsq_bench ..)

/-- Every output falls with RESET_N, and what the law says of zones and requests stays. -/
theorem SotInv.holdReset (i : SotInv s) : SotInv (holdReset s) where
  sot h := by simp [Machine.holdReset, modPins, modClu]
  ld k hk := by simp [Machine.holdReset, modPins, modClu] at hk
  request := i.request
  zone := i.zone

/-- While RESET_N is low only the levels of DOOR and ESTOP change. -/
theorem SotInv.frame (i : SotInv s) (hl : (bench t).lines = (bench s).lines := by rfl)
    (hh : t.hsc = s.hsc := by rfl) (hz : t.zar = s.zar := by rfl) : SotInv t := by
  have hsot : t.pins.sot = s.pins.sot := congrArg Prod.fst hl
  have hld : t.pins.ld = s.pins.ld := congrArg (fun l => l.2.1) hl
  have hlow : t.pins.resetLow = s.pins.resetLow := congrArg (fun l => l.2.2) hl
  exact
    { sot := by rw [hsot, hlow, hh]; exact i.sot
      ld := by rw [hld, hh]; exact i.ld
      request := by rw [hz, hh]; exact i.request
      zone := by rw [hz, hh]; exact i.zone }

/-! ### Commands and steps -/

theorem TestLaw.sotInv (i : TestLaw none s) : SotInv s := (sotInv_iff i.high).2 i

theorem whenDue_law {b : Bool} {f : State → State} (hf : b = true → TestLaw none (f s)) (i : TestLaw none s) :
    TestLaw none (whenDue b f s) := by
  unfold whenDue; split
  · rename_i hb; exact hf hb
  · exact i

theorem testDue_test {h : HeadIx} (hd : testDue h s = true) : s.hsc.heads[h].state = .test := by
  simp only [testDue, Bool.and_eq_true, decide_eq_true_eq] at hd
  exact hd.1

theorem fillExpiry_tests (h : HeadIx) (s : State) : Tests s (fillExpiry h s) := by
  have hexpired : bench (modHead h (fun r => { r with fill := .stopped, fillExpired := true }) s) = bench s :=
    modHead_bench h _ s
  unfold fillExpiry
  refine settle_tests (headsFollow_tests s (.of_bench ?_))
  rw [checkEmpty_bench, cancelWhere_bench]
  exact hexpired

theorem soakExpiry_tests (u : UnitNo) (s : State) : Tests s (soakExpiry u s) :=
  settle_tests (headsFollow_tests s (.of_bench (becomeReady_bench u s)))

theorem stagingExpiry_tests (s : State) : Tests s (stagingExpiry s) := settle_tests (.of_bench (modXpl_bench _ s))

/-- What RESET_N lets through: an event whose operation keeps the law where RESET_N is high. -/
theorem live_law {f : State → State} (hf : TestLaw none s → TestLaw none (f s)) (i : SotInv s) : SotInv (live f s) := by
  unfold live
  cases hr : s.pins.resetLow with
  | true => exact i
  | false => exact (startTx_law (hf ((sotInv_iff hr).1 i))).sotInv

/-- An event on a line of the board (R181). -/
theorem line_law {low high : State} (hlow : SotInv low) (hhigh : TestLaw none s → TestLaw none high) (i : SotInv s) :
    SotInv (if s.pins.resetLow then low else startTx high) := by
  cases hr : s.pins.resetLow with
  | true => exact hlow
  | false => exact (startTx_law (hhigh ((sotInv_iff hr).1 i))).sotInv

/-- The commands that are no requests, one by one. -/
theorem event_law {c : Instr} (hc : requestOf c = none) (i : SotInv s) (e : exec c s = .next t) : SotInv t := by
  cases c with
  | cellFrameReceived bytes => cases e; exact live_law (cellBytes_law bytes) i
  | unknownKind => cases e; exact live_law (receive_law _) i
  | replySent => cases e; exact live_law replyDone_law i
  | noticeSent => cases e; exact live_law noticeDone_law i
  | done g bytes => cases e; exact live_law ((driveBytes_tests g bytes s).law none) i
  | driveReplyTimerExpiry g =>
    cases e; exact live_law (fun i => whenDue_law (fun _ => (faultStep_tests g .noReply (.refl s)).law none i) i) i
  | settleTimerExpiry =>
    cases e; exact live_law (fun i => whenDue_law (fun _ => (returnToRun_tests s).law none i) i) i
  | fillTimerExpiry h =>
    cases e; exact live_law (fun i => whenDue_law (fun _ => (fillExpiry_tests h s).law none i) i) i
  | testTimerExpiry h => cases e; exact live_law (fun i => whenDue_law (fun hd => i.testExpiry (testDue_test hd)) i) i
  | soakExpiry u => cases e; exact live_law (fun i => whenDue_law (fun _ => (soakExpiry_tests u s).law none i) i) i
  | stagingTimerExpiry =>
    cases e; exact live_law (fun i => whenDue_law (fun _ => (stagingExpiry_tests s).law none i) i) i
  | eot h lines => cases e; exact live_law (fun i => i.eotEdge h lines) i
  | doorActive => cases e; exact line_law i.frame (fun i => i.doorOpens) i
  | doorInactive => cases e; exact line_law i.frame (fun i => i.doorCloses) i
  | estopActive => cases e; exact line_law i.frame (fun i => i.estopOn) i
  | estopInactive => cases e; exact line_law i.frame (fun i => i.frame) i
  | resetNLow => cases e; exact i.holdReset
  | resetNRelease rate =>
    cases e; unfold releaseReset; split
    · exact (endReset_law rate s).sotInv
    · exact i
  | powerUp rate =>
    cases e; unfold completePowerUp; split
    · exact i
    · exact (endReset_law rate s).sotInv
  | byteGapTimeout l => cases e; exact live_law (fun i => whenDue_law (fun _ => gapTimeout_law l i) i) i
  | _ => cases hc

theorem exec_sotInv (c : Instr) (i : SotInv s) (e : exec c s = .next t) : SotInv t := by
  cases hc : requestOf c with
  | none => exact event_law hc i e
  | some x =>
    rw [exec_of_requestOf hc] at e
    cases e
    exact live_law (submit_law x.1 x.2) i

theorem idle_sotInv (i : SotInv s) : SotInv (idle s) := by
  cases hr : s.pins.resetLow with
  | true => rw [idle_of_reset_low hr]; exact i
  | false =>
    cases hd : dueEvents s with
    | nil => rw [idle_of_nothing_due hr hd]; exact i.frame
    | cons e es =>
      obtain ⟨c, -, n, hpick⟩ := pickEvent_spec e es s
      rw [idle_of_due hr hd, hpick]
      exact i.frame

/-- Settles O60: `TestLaw` through the blocks, the requests and the events where RESET_N is high, and the reset. -/
theorem stepKeepsSotAtTheTest : Obligations.StepKeepsSotAtTheTest := by
  intro s t i e
  cases hq : s.pending with
  | nil =>
    rw [step_of_no_command hq] at e
    cases e
    exact idle_sotInv i
  | cons c cs =>
    have hexec : step s = exec c { s with pending := cs } := by simp [step, hq]
    exact exec_sotInv c (s := { s with pending := cs }) i.frame (hexec ▸ e)

end Sys2Proof.Machine
end

section
/-! PROOF. The requests that read and consume (R134, R157, R170) and the requests to a socket (R117, R118, R120), each
taken at once. -/
namespace Sys2Proof.Machine

variable {s : State} {tag : Byte} {h : HeadIx} {k : SocketIx}

/-! ### HEAD_QUERY and LOG_READ (R134, R157) -/

theorem protection_iff : protection s = true ↔ s.rcu.causes.holdPoint = true ∧ s.rcu.clearInHold = false := by
  simp [protection]

theorem serveHeadQuery_of_ge {head : Byte} (hh : 4 ≤ head.toNat) : serveHeadQuery head s = (s, [3]) := by
  rw [serveHeadQuery, index_of_ge hh]; rfl

theorem serveHeadQuery_head (h : HeadIx) (s : State) : serveHeadQuery (BitVec.ofNat 8 h.val) s =
    (if protection s = true then s else modHead h (fun r => { r with fresh := false }) s, 0 :: headFields h s) := by
  rw [serveHeadQuery, index_ofNat (by decide) h]; rfl

theorem serveLogRead_of_bad {count : Byte} (hc : count.toNat < 1 ∨ 4 < count.toNat) :
    serveLogRead count s = (s, [3]) := if_pos hc

theorem serveLogRead_of_protection {count : Byte} (hc : ¬(count.toNat < 1 ∨ 4 < count.toNat))
    (hp : protection s = true) : serveLogRead count s = (s, 0 :: (listField LogRec.bytes (s.srt.log.take count.toNat)
      ++ n8 s.srt.log.length ++ n8 s.srt.reservations.length)) := by
  simp only [serveLogRead, if_neg hc, if_pos hp]; rfl

/-- The records returned are as many as are asked for, or all of them. -/
theorem serveLogRead_of_free {count : Byte} (hc : ¬(count.toNat < 1 ∨ 4 < count.toNat))
    (hp : ¬protection s = true) : serveLogRead count s =
      (settle { s with srt := { s.srt with log := s.srt.log.drop count.toNat } },
        0 :: (listField LogRec.bytes (s.srt.log.take count.toNat)
          ++ n8 (s.srt.log.length - count.toNat) ++ n8 s.srt.reservations.length)) := by
  have hleft : s.srt.log.length - (s.srt.log.take count.toNat).length = s.srt.log.length - count.toNat := by
    rw [List.length_take]; omega
  have hrest : s.srt.log.drop (s.srt.log.take count.toNat).length = s.srt.log.drop count.toNat := by
    simp only [List.length_take]
    rcases Nat.le_total count.toNat s.srt.log.length with hle | hle
    · rw [min_eq_left hle]
    · rw [min_eq_right hle, List.drop_length, List.drop_eq_nil_of_le hle]
  simp only [serveLogRead, if_neg hc, if_neg hp, hleft, removeRecords, modSrt, hrest]
  rfl

/-- Settles O20: both requests are taken at once, and flag protection is the state that their branch asks for. -/
theorem readsThatConsumeFollowProtection : Obligations.ReadsThatConsumeFollowProtection := by
  intro tag s hs
  refine ⟨fun head hh => ?_, fun h => ?_, fun count hc => ?_, fun count h1 h4 => ⟨fun hp hf => ?_, fun hp => ?_⟩⟩
  · rw [exec_of_takesNow rfl hs rfl]
    change Host.Outcome.next (replied 0x23 tag (serveHeadQuery head s).2 (serveHeadQuery head s).1) = _
    rw [serveHeadQuery_of_ge hh]
  · rw [exec_of_takesNow rfl hs rfl]
    change Host.Outcome.next (replied 0x23 tag (serveHeadQuery _ s).2 (serveHeadQuery _ s).1) = _
    simp only [serveHeadQuery_head, protection_iff]
  · rw [exec_of_takesNow rfl hs rfl]
    change Host.Outcome.next (replied 0x26 tag (serveLogRead count s).2 (serveLogRead count s).1) = _
    rw [serveLogRead_of_bad hc]
  · rw [exec_of_takesNow rfl hs rfl]
    change Host.Outcome.next (replied 0x26 tag (serveLogRead count s).2 (serveLogRead count s).1) = _
    rw [serveLogRead_of_protection (by omega) (protection_iff.2 ⟨hp, hf⟩)]
  · have hfree : ¬protection s = true := by
      rw [protection_iff]
      rintro ⟨ha, hb⟩
      rcases hp with hp | hp <;> simp_all
    rw [exec_of_takesNow rfl hs rfl]
    change Host.Outcome.next (replied 0x26 tag (serveLogRead count s).2 (serveLogRead count s).1) = _
    rw [serveLogRead_of_free (by omega) hfree]

/-! ### SOCKET_ENABLE, SOCKET_DISABLE and SOCKET_CLEAR (R117, R118, R120) -/

theorem serveSocketRequests_of_ge {socket : Byte} (hk : 16 ≤ socket.toNat) : serveSocketEnable socket s = (s, [3])
    ∧ serveSocketDisable socket s = (s, [3]) ∧ serveSocketClear socket s = (s, [3]) := by
  simp only [serveSocketEnable, serveSocketDisable, serveSocketClear, index_of_ge hk]
  exact ⟨rfl, rfl, rfl⟩

theorem serveSocketEnable_socket (k : SocketIx) (s : State) : serveSocketEnable (BitVec.ofNat 8 k.val) s =
    if s.hsc.sockets[k].state ≠ .off then (s, [4])
    else if readyToEnable k s = false then (s, [5])
    else (settle (headsFollow s
      (modSocket k (fun r => { r with state := .empty, offPending := none, fails := 0 }) s)), [0]) := by
  simp only [serveSocketEnable, index_ofNat (by decide) k, Bool.not_eq_true']
  rfl

theorem serveSocketDisable_socket (k : SocketIx) (s : State) : serveSocketDisable (BitVec.ofNat 8 k.val) s =
    if s.hsc.sockets[k].state = .off then (s, [4])
    else (settle (headsFollow s (checkEmpty (disableSocket k s))), [0]) := by
  simp only [serveSocketDisable, index_ofNat (by decide) k]
  rfl

theorem serveSocketClear_socket (k : SocketIx) (s : State) : serveSocketClear (BitVec.ofNat 8 k.val) s =
    if s.hsc.sockets[k].state ≠ .jammed then (s, [4])
    else (settle (headsFollow s (modSocket k SocketRec.vacate s)), [0]) := by
  simp only [serveSocketClear, index_ofNat (by decide) k]
  rfl

theorem disableSocket_of_reserved (hk : s.hsc.sockets[k].state = .reserved) :
    disableSocket k s = cancelWhere .load (fun o => o.placeSocket = some k) (setOffPending k s) := by
  simp only [disableSocket, hk]

theorem disableSocket_of_loaded (hk : s.hsc.sockets[k].state = .loaded) :
    disableSocket k s = evict k (setOffPending k s) := by
  simp only [disableSocket, hk]

theorem disableSocket_of_busy (hk : s.hsc.sockets[k].state = .testing ∨ s.hsc.sockets[k].state = .done
    ∨ s.hsc.sockets[k].state = .jammed) : disableSocket k s = setOffPending k s := by
  rcases hk with hk | hk | hk <;> simp only [disableSocket, hk]

/-- Settles O40: each request is taken at once, and what it makes of the socket is the record that is put in its
place. -/
theorem socketRequestsActByTheSocketsState : Obligations.SocketRequestsActByTheSocketsState := by
  intro tag s hs
  refine ⟨fun socket hk => ?_, fun k put hput => ?_⟩
  · obtain ⟨henable, hdisable, hclear⟩ := serveSocketRequests_of_ge (s := s) hk
    refine ⟨?_, ?_, ?_⟩ <;> rw [exec_of_takesNow rfl hs rfl]
    · change Host.Outcome.next (replied 0x12 tag (serveSocketEnable socket s).2 (serveSocketEnable socket s).1) = _
      rw [henable]
    · change Host.Outcome.next (replied 0x13 tag (serveSocketDisable socket s).2 (serveSocketDisable socket s).1) = _
      rw [hdisable]
    · change Host.Outcome.next (replied 0x14 tag (serveSocketClear socket s).2 (serveSocketClear socket s).1) = _
      rw [hclear]
  · have hmod : ∀ f : SocketRec → SocketRec, modSocket k f s = put (f s.hsc.sockets[k]) := fun f => (hput _).symm
    have hset : setOffPending k s = put { s.hsc.sockets[k] with offPending := some .host } := hmod _
    refine ⟨?enable, ?disable, fun hk => ?empty, fun hk => ?reserved, fun hk => ?loaded, fun hk => ?busy, ?clear⟩
    case enable =>
      rw [exec_of_takesNow rfl hs rfl]
      change Host.Outcome.next (replied 0x12 tag (serveSocketEnable _ s).2 (serveSocketEnable _ s).1) = _
      rw [serveSocketEnable_socket, hmod]
      split_ifs <;> rfl
    case disable =>
      rw [exec_of_takesNow rfl hs rfl]
      change Host.Outcome.next (replied 0x13 tag (serveSocketDisable _ s).2 (serveSocketDisable _ s).1) = _
      rw [serveSocketDisable_socket]
      split_ifs <;> rfl
    case empty => simp only [disableSocket, hk]; exact hmod _
    case reserved => rw [disableSocket_of_reserved hk, hset]
    case loaded => rw [disableSocket_of_loaded hk, hset]
    case busy => rw [disableSocket_of_busy hk, hset]
    case clear =>
      rw [exec_of_takesNow rfl hs rfl]
      change Host.Outcome.next (replied 0x14 tag (serveSocketClear _ s).2 (serveSocketClear _ s).1) = _
      rw [serveSocketClear_socket, hmod]
      by_cases hj : s.hsc.sockets[k].state ≠ .jammed
      · rw [if_pos hj, if_pos hj]
      · rw [if_neg hj, if_neg hj]; rfl

end Sys2Proof.Machine
end

section
/-! PROOF. The requests that set run mode, credits, hold points and flag protection (R171, R127, R168, R170). -/
namespace Sys2Proof.Machine

variable {s t w : State} {tag : Byte} {h j : HeadIx}

/-! ### SET_MODE (R171) -/

theorem runModeOf_of_lt {mode : Byte} (hm : mode.toNat < 2) :
    runModeOf mode = some (if mode = 0 then .continuous else .single) := by
  by_cases h0 : mode = 0
  · rw [if_pos h0, h0]; rfl
  · have h1 : mode.toNat = 1 := by
      have hne : mode.toNat ≠ 0 := fun e => h0 (BitVec.eq_of_toNat_eq e)
      omega
    simp only [if_neg h0, runModeOf, h1]

theorem runModeOf_of_ge {mode : Byte} (hm : ¬mode.toNat < 2) : runModeOf mode = none := by
  unfold runModeOf
  split
  · omega
  · omega
  · rfl

theorem serveSetMode_eq (mode : Byte) (timeout delay : Half) (s : State) : serveSetMode mode timeout delay s =
    if mode.toNat < 2 ∧ 50 ≤ timeout.toNat ∧ timeout.toNat ≤ 30000 ∧ delay.toNat ≤ 5000 then
      (settle (headsFollow s (setRunMode (if mode = 0 then .continuous else .single)
        { s with rcu := { s.rcu with driveTimeout := timeout.toNat, settleDelay := delay.toNat } })), [0])
    else (s, [3]) := by
  by_cases hm : mode.toNat < 2
  · simp only [serveSetMode, runModeOf_of_lt hm, hm, true_and]
    rfl
  · simp only [serveSetMode, runModeOf_of_ge hm, hm, false_and, if_false]
    rfl

theorem setRunMode_of_same {m : RunMode} (hm : s.rcu.mode = m) : setRunMode m s = s := by
  subst hm
  unfold setRunMode
  cases s.rcu.mode <;> rfl

theorem setRunMode_single (hm : s.rcu.mode = .continuous) :
    setRunMode .single s = clearCredits (modRcu (fun r => { r with mode := .single }) s) := by
  simp only [setRunMode, hm]

theorem setRunMode_continuous (hm : s.rcu.mode = .single) : setRunMode .continuous s =
    allHeads.foldl (fun s h => requestHead h s) (modRcu (fun r => { r with mode := .continuous }) s) := by
  simp only [setRunMode, hm]

theorem setRunMode_rcu (m : RunMode) (s : State) : (setRunMode m s).rcu = { s.rcu with mode := m } := by
  cases hs : s.rcu.mode <;> cases m
  · rw [setRunMode_of_same hs, ← hs]
  · rw [setRunMode_single hs]; rfl
  · rw [setRunMode_continuous hs, foldl_requestHead_rcu]; rfl
  · rw [setRunMode_of_same hs, ← hs]

/-- In CONTINUOUS a start consumes no credit. -/
theorem requestHead_credit (hm : s.rcu.mode = .continuous) :
    (requestHead h s).hsc.heads[h].credit = s.hsc.heads[h].credit := by
  refine requestHead_induct (motive := fun t => t.hsc.heads[h].credit = s.hsc.heads[h].credit) rfl (fun _ => ?_) rfl
  rw [grantHead_heads, if_pos rfl, if_neg (by rw [hm]; decide)]

/-- A change to CONTINUOUS, head by head: what the head asked for as it was in SINGLE. -/
theorem setRunMode_continuous_at (hm : s.rcu.mode = .single) (h : HeadIx) :
    ∃ w, w.hsc.heads[h] = s.hsc.heads[h] ∧ w.zar[h] = s.zar[h] ∧ w.rcu = { s.rcu with mode := .continuous }
      ∧ Besides h (requestHead h w) (setRunMode .continuous s) := by
  obtain ⟨w, hw, ht⟩ := foldl_requestHead_at h (modRcu (fun r => { r with mode := .continuous }) s)
  exact ⟨w, hw.head, hw.zone, hw.rcu, setRunMode_continuous hm ▸ ht⟩

/-! ### CYCLE (R127) -/

theorem serveCycle_eq (mask : Byte) (s : State) : serveCycle mask s =
    if mask = 0 ∨ 16 ≤ mask.toNat then (s, [3])
    else if s.rcu.mode ≠ .single then (s, [4])
    else (settle (headsFollow s (allHeads.foldl (giveCredit mask) s)), [0]) := rfl

theorem giveCredit_of_named {mask : Byte} (hb : mask.getLsbD h.val = true) :
    giveCredit mask s h = requestHead h (modHead h (fun r => { r with credit := true }) s) := by
  simp only [giveCredit, hb, if_true]

theorem giveCredit_of_other {mask : Byte} (hb : mask.getLsbD h.val = false) : giveCredit mask s h = s := by
  simp only [giveCredit, hb, Bool.false_eq_true, if_false]

theorem giveCredit_besides (mask : Byte) (hj : j ≠ h) (s : State) :
    (giveCredit mask s h).hsc.heads[j] = s.hsc.heads[j] ∧ (giveCredit mask s h).zar[j] = s.zar[j] := by
  cases hb : mask.getLsbD h.val with
  | false => rw [giveCredit_of_other hb]; exact ⟨rfl, rfl⟩
  | true =>
    obtain ⟨hhead, hzone⟩ := requestHead_other hj (modHead h (fun r => { r with credit := true }) s)
    rw [giveCredit_of_named hb, hhead, hzone, modHead_other _ _ _ _ hj]
    exact ⟨rfl, rfl⟩

/-- A head with a credit given asks for its zone where it waits in START_WAIT in RUN. -/
theorem asksForZone_credited (h : HeadIx) (s : State) : asksForZone h (modHead h (fun r => { r with credit := true }) s) ↔
    s.hsc.heads[h].state = .startWait ∧ s.rcu.run = .run := by
  have hcredit : creditPresent h (modHead h (fun r => { r with credit := true }) s) = true := by
    simp [creditPresent]
  simp only [asksForZone, hcredit, and_true, modHead_same]
  rfl

/-! ### SET_HOLDPOINT and SET_PROTECT (R168, R170) -/

theorem serveSetHoldpoint_of_refused {i kind enabled : Byte} {value : Word}
    (hr : index 4 i.toNat = none ∨ holdMatchOf kind value enabled = none ∨ ¬(enabled = 0 ∨ enabled = 1)) :
    serveSetHoldpoint i kind value enabled s = (s, [3]) := by
  unfold serveSetHoldpoint
  split
  · rename_i j m hi hm
    rw [hi, hm] at hr
    have he : ¬(enabled = 0 ∨ enabled = 1) := hr.resolve_left nofun |>.resolve_left nofun
    rw [if_neg he]; rfl
  · rfl

theorem serveSetHoldpoint_of_stored {kind enabled : Byte} {value : Word} {m : HoldMatch} (i : Fin 4)
    (hm : holdMatchOf kind value enabled = some m) (he : enabled = 0 ∨ enabled = 1) :
    serveSetHoldpoint (BitVec.ofNat 8 i.val) kind value enabled s =
      ({ s with rcu := { s.rcu with
        holdPoints := s.rcu.holdPoints.set i.val { what := m, enabled := decide (enabled = 1) } } }, [0]) := by
  simp only [serveSetHoldpoint, index_ofNat (by decide) i, hm, if_pos he]
  rfl

theorem holdMatchOf_of_ge {kind enabled : Byte} {value : Word} (hk : 3 ≤ kind.toNat) :
    holdMatchOf kind value enabled = none := by
  unfold holdMatchOf
  split
  · omega
  · omega
  · omega
  · rfl

theorem holdMatchOf_place (value : Word) (enabled : Byte) : holdMatchOf 1 value enabled =
    if value.toNat < 65536 then (Place.ofCode (value.setWidth 16)).map (fun p => .place p.code) else none := rfl

theorem holdMatchOf_unit (value : Word) (enabled : Byte) :
    holdMatchOf 2 value enabled = if value = 0 then none else some (.unit value) := rfl

/-- The match that SET_HOLDPOINT stores. -/
theorem holdMatchOf_of_valid {kind : Byte} {value : Word} {enabled : Bool} {m : HoldMatch}
    (hv : (kind = 0 ∧ enabled = false ∧ m = .none)
      ∨ (kind = 1 ∧ value.toNat < 65536 ∧ (Place.ofCode (value.setWidth 16)).isSome ∧ m = .place (value.setWidth 16))
      ∨ (kind = 2 ∧ value ≠ 0 ∧ m = .unit value)) :
    holdMatchOf kind value (if enabled then 1 else 0) = some m := by
  rcases hv with ⟨rfl, rfl, rfl⟩ | ⟨rfl, hlt, hplace, rfl⟩ | ⟨rfl, hne, rfl⟩
  · rfl
  · obtain ⟨p, hp⟩ := Option.isSome_iff_exists.1 hplace
    rw [holdMatchOf_place, if_pos hlt, hp, Option.map_some, Place.code_of_ofCode hp]
  · rw [holdMatchOf_unit, if_neg hne]

theorem serveSetProtect_eq (v : Byte) (s : State) : serveSetProtect v s =
    if v.toNat < 2 then ({ s with rcu := { s.rcu with clearInHold := decide (v = 1) } }, [0]) else (s, [3]) := by
  have hv : (v = 0 ∨ v = 1) ↔ v.toNat < 2 := by bv_omega
  simp only [serveSetProtect, hv]
  rfl

/-! ### The requests together -/

theorem setMode_taken (hs : takesNow s) (mode : Byte) (timeout delay : Half) :
    exec (.setMode tag mode timeout delay) s = .next (
      replied 0x1C tag (serveSetMode mode timeout delay s).2 (serveSetMode mode timeout delay s).1) :=
  exec_of_takesNow (q := .setMode mode timeout delay) rfl hs rfl

theorem cycle_taken (hs : takesNow s) (mask : Byte) :
    exec (.cycle tag mask) s = .next (replied 0x1D tag (serveCycle mask s).2 (serveCycle mask s).1) :=
  exec_of_takesNow (q := .cycle mask) rfl hs rfl

theorem setHoldpoint_taken (hs : takesNow s) (i kind enabled : Byte) (value : Word) :
    exec (.setHoldpoint tag i kind value enabled) s = .next (
      replied 0x1E tag (serveSetHoldpoint i kind value enabled s).2 (serveSetHoldpoint i kind value enabled s).1) :=
  exec_of_takesNow (q := .setHoldpoint i kind value enabled) rfl hs rfl

theorem setProtect_taken (hs : takesNow s) (v : Byte) :
    exec (.setProtect tag v) s = .next (replied 0x1F tag (serveSetProtect v s).2 (serveSetProtect v s).1) :=
  exec_of_takesNow (q := .setProtect v) rfl hs rfl

/-- The change to CONTINUOUS for one head (R171, R126). -/
theorem setRunMode_continuous_head (hm : s.rcu.mode = .single) (h : HeadIx) :
    (setRunMode .continuous s).hsc.heads[h].credit = s.hsc.heads[h].credit
    ∧ (s.hsc.heads[h].state ≠ .startWait ∨ s.rcu.run ≠ .run →
      (setRunMode .continuous s).hsc.heads[h] = s.hsc.heads[h] ∧ (setRunMode .continuous s).zar[h] = s.zar[h])
    ∧ (s.hsc.heads[h].state = .startWait → s.rcu.run = .run → s.zar[h].holder = .none →
      (setRunMode .continuous s).hsc.heads[h].state = .test ∧ (setRunMode .continuous s).zar[h].holder = .head)
    ∧ (s.hsc.heads[h].state = .startWait → s.rcu.run = .run → s.zar[h].holder = .load ∨ s.zar[h].holder = .unload →
      (setRunMode .continuous s).hsc.heads[h] = s.hsc.heads[h]
        ∧ (setRunMode .continuous s).zar[h] = { s.zar[h] with head := true }) := by
  obtain ⟨w, hhead, hzone, hrcu, ht⟩ := setRunMode_continuous_at hm h
  have hmode : w.rcu.mode = .continuous := by rw [hrcu]
  have hasks : asksForZone h w ↔ s.hsc.heads[h].state = .startWait ∧ s.rcu.run = .run := by
    simp [asksForZone, creditPresent, hhead, hrcu]
  rw [ht.head, ht.zone, ← hhead, ← hzone]
  rw [← hhead] at hasks
  refine ⟨requestHead_credit hmode, fun hn => ?_, fun hwait hrun hfree => ?_, fun hwait hrun hheld => ?_⟩
  · rw [requestHead_of_not_asking (hasks.not.2 (not_and_or.2 hn))]
    exact ⟨rfl, rfl⟩
  · rw [requestHead_of_free (hasks.2 ⟨hwait, hrun⟩) hfree, grantHead_heads, grantHead_zar, if_pos rfl, if_pos rfl]
    exact ⟨rfl, rfl⟩
  · rw [requestHead_of_held (hasks.2 ⟨hwait, hrun⟩) hheld, modZone_at, if_pos rfl]
    exact ⟨rfl, rfl⟩

/-- Settles O52: each request is taken at once; a change of mode and a credit act head by head. -/
theorem modeAndHoldPointRequestsStoreTheirValues : Obligations.ModeAndHoldPointRequestsStoreTheirValues := by
  intro tag s hs
  refine ⟨fun mode timeout delay => ?setMode, fun mask => ?cycle, fun m => ⟨setRunMode_rcu m s, setRunMode_of_same,
    fun hc hm => ?single, fun hc hm h => ?continuous⟩, fun mask h t ht => ?credit, fun i kind enabled value hr => ?refused,
    fun i enabled m kind value hv => ?stored, fun v => ?protect⟩
  case setMode =>
    rw [setMode_taken hs, serveSetMode_eq]
    split <;> rfl
  case cycle =>
    rw [cycle_taken hs, serveCycle_eq]
    split_ifs <;> rfl
  case single => subst hm; rw [setRunMode_single hc]; rfl
  case continuous => subst hm; exact setRunMode_continuous_head hc h
  case credit =>
    subst ht
    have hasks := asksForZone_credited h s
    refine ⟨giveCredit_of_other, fun j hj => giveCredit_besides mask hj s, fun hb hn => ?_, fun hb hw hrun =>
      ⟨fun hz => ?_, fun hz => ?_⟩⟩
    · rw [giveCredit_of_named hb, requestHead_of_not_asking (hasks.not.2 (not_and_or.2 hn))]
      rfl
    · rw [giveCredit_of_named hb, requestHead_of_free (hasks.2 ⟨hw, hrun⟩) hz, grantHead_heads, grantHead_zar, if_pos rfl,
        if_pos rfl]
      exact ⟨rfl, rfl, fun hm => if_pos hm⟩
    · rw [giveCredit_of_named hb, requestHead_of_held (hasks.2 ⟨hw, hrun⟩) hz, modZone_at, if_pos rfl]
      exact ⟨modHead_same s h (fun r => { r with credit := true }), rfl⟩
  case refused =>
    rw [setHoldpoint_taken hs, serveSetHoldpoint_of_refused]
    rcases hr with hi | hk | he | ⟨rfl, hp⟩ | ⟨rfl, rfl⟩ | ⟨rfl, rfl⟩
    · exact .inl (index_of_ge hi)
    · exact .inr (.inl (holdMatchOf_of_ge hk))
    · exact .inr (.inr (by rintro (rfl | rfl) <;> simp at he))
    · refine .inr (.inl ?_)
      rw [holdMatchOf_place]
      rcases hp with hp | hp
      · rw [if_neg (by omega)]
      · rw [hp]; exact ite_self _
    · exact .inr (.inl rfl)
    · exact .inr (.inl rfl)
  case stored =>
    rw [setHoldpoint_taken hs, serveSetHoldpoint_of_stored i (holdMatchOf_of_valid hv) (by cases enabled <;> simp)]
    cases enabled <;> rfl
  case protect =>
    rw [setProtect_taken hs, serveSetProtect_eq]
    split <;> rfl

end Sys2Proof.Machine
end

section
/-! PROOF. The zones: requests and releases (R137, R138), and the heads that ask for them: the start of a test (R126) and
the review of a head (R123 to R125). -/
namespace Sys2Proof.Machine

variable {s t : State} {z h : HeadIx} {k : SocketIx} {g : Gantry} {o : Order} {u : UnitNo} {r : UnitRec}

/-! ### Requests and releases of a zone (R137, R138) -/

theorem requestZone_granted (hz : s.zar[z].holder = .none ∨ s.zar[z].holder = gantryHolder g) :
    requestZone g z s = (true, modZone z (Zone.grant g) s) := if_pos hz

theorem requestZone_waits (hz : ¬(s.zar[z].holder = .none ∨ s.zar[z].holder = gantryHolder g)) :
    requestZone g z s = (false, modZone z (Zone.wait g) s) := if_neg hz

theorem modZone_modZone (z : HeadIx) (e f : Zone → Zone) (s : State) :
    modZone z e (modZone z f s) = modZone z (fun r => e (f r)) s := by
  simp [modZone]

theorem releaseZone_other {x : Holder} (hx : s.zar[z].holder ≠ x) : releaseZone x z s = s := if_pos hx

theorem releaseZone_first (hw : s.zar[z].head = true ∨ s.zar[z].unload = true) :
    releaseZone s.zar[z].holder z s = releaseFirst z s := by
  rw [releaseZone, if_neg (not_not.2 rfl), if_pos hw]

theorem releaseZone_last (hh : s.zar[z].head = false) (hu : s.zar[z].unload = false) :
    releaseZone s.zar[z].holder z s = if s.zar[z].load then grantLoad z (freed z s) else freed z s := by
  have hload : (freed z s).zar[z].load = s.zar[z].load := by rw [freed, modZone_same]
  rw [releaseZone, if_neg (not_not.2 rfl), if_neg (by simp only [hh, hu]; decide), ← hload]
  rfl

/-- A waiting head comes first. -/
theorem releaseFirst_head (hw : s.zar[z].head = true) :
    releaseFirst z s = startTest z (modZone z (fun r => { r with holder := .head, head := false }) s) := by
  have hask : (modZone z (fun r => { r with holder := .none }) s).zar[z].head = true := by rw [modZone_same]; exact hw
  unfold releaseFirst
  dsimp only
  rw [if_pos hask, grantHead, modZone_modZone]

/-- The unload gantry comes next, and sends its order. -/
theorem releaseFirst_unload (hh : s.zar[z].head = false) (hw : s.zar[z].unload = true) : ∃ w,
    w = modZone z (fun r => { r with holder := .unload, unload := false }) s
    ∧ releaseFirst z s = (match headOrder .unload s with
      | some o => sendPlain .unload o w
      | none => w) := by
  have hask : ¬(modZone z (fun r => { r with holder := .none }) s).zar[z].head = true := by
    rw [modZone_same]; exact Bool.eq_false_iff.1 hh
  have hunload : (modZone z (fun r => { r with holder := .none }) s).zar[z].unload = true := by
    rw [modZone_same]; exact hw
  refine ⟨_, rfl, ?_⟩
  unfold releaseFirst
  dsimp only
  rw [if_neg hask, if_pos hunload, modZone_modZone]
  rfl

theorem headOrder_sendOrder (h : headOrder g s = some o) (c : Int × Int) :
    headOrder g (sendOrder g o c s) = some { o with status := .issued } := by
  rw [headOrder, queue_sendOrder, List.head?_map]
  simp only [headOrder] at h
  rw [h, Option.map_some, if_pos rfl]

theorem releaseFirst_unload_zone (hh : s.zar[z].head = false) (hw : s.zar[z].unload = true) :
    (releaseFirst z s).zar[z] = { s.zar[z] with holder := .unload, unload := false } := by
  obtain ⟨w, rfl, heq⟩ := releaseFirst_unload hh hw
  rw [heq]
  split
  · simp only [sendPlain, sendOrder_zar]; exact modZone_same ..
  · exact modZone_same ..

theorem releaseFirst_unload_send (hh : s.zar[z].head = false) (hw : s.zar[z].unload = true)
    (ho : headOrder .unload s = some o) : (gsq .unload (releaseFirst z s)).state = .inFlight
      ∧ headOrder .unload (releaseFirst z s) = some { o with status := .issued } := by
  obtain ⟨w, rfl, heq⟩ := releaseFirst_unload hh hw
  have hqueue : headOrder .unload (modZone z (fun r => { r with holder := .unload, unload := false }) s) = some o := ho
  simp only [heq, ho, sendPlain]
  exact ⟨by rw [gsq_sendOrder]; rfl, headOrder_sendOrder hqueue _⟩

theorem applyFlags_queue (u : UnitNo) (k : SocketIx) (c v : Bool) (s : State) :
    headOrder g (applyFlags u k c v s) = headOrder g s ∧ (applyFlags u k c v s).zar = s.zar := by
  unfold applyFlags
  dsimp only
  split_ifs <;> cases g <;> exact ⟨rfl, rfl⟩

/-- The load gantry comes last, and sends the corrected placement that waits for the zone. -/
theorem releaseZone_load {cx cy : Int} {c v : Bool} (hh : s.zar[z].head = false) (hu : s.zar[z].unload = false)
    (hw : s.zar[z].load = true) (ho : headOrder .load s = some o) (hk : o.placeSocket = some k)
    (hc : correction o.unitNo k o.nozzle s = .coordinates cx cy c v) : ∃ w counts,
    headOrder .load w = headOrder .load s ∧ w.zar[z] = { s.zar[z] with holder := .load, load := false }
    ∧ releaseZone s.zar[z].holder z s = sendOrder .load o counts w := by
  have hgrant : modZone z (Zone.grant .load) (freed z s)
      = modZone z (fun r => { r with holder := .load, load := false }) s := modZone_modZone ..
  obtain ⟨w, hw'⟩ : ∃ w, w = modZone z (fun r => { r with holder := .load, load := false }) s := ⟨_, rfl⟩
  have hhead : headOrder .load w = some o := by rw [hw']; exact ho
  have hcorrect : correction o.unitNo k o.nozzle w = .coordinates cx cy c v := by rw [hw']; exact hc
  have hzone : w.zar[z] = { s.zar[z] with holder := .load, load := false } := by
    simp only [hw']; exact modZone_same ..
  obtain ⟨hqueue, hzar⟩ := applyFlags_queue (g := .load) o.unitNo k c v w
  refine ⟨applyFlags o.unitNo k c v w, correctedCounts k cx cy (applyFlags o.unitNo k c v w),
    hqueue.trans (hhead.trans ho.symm), by simp only [hzar]; exact hzone, ?_⟩
  rw [releaseZone_last hh hu, if_pos hw]
  simp only [grantLoad, hgrant, ← hw', hhead, coordinateLoad, hk, hcorrect]

/-! ### The start of a test (R126) -/

theorem testSocket_units (hr : findUnit u s = some r) (k : SocketIx) : findUnit u (testSocket s k) =
    some (if s.hsc.sockets[k].unit = u then { r with state := .testing } else r) := by
  have hunits : findUnit u (testSocket s k)
      = findUnit u (modUnit s.hsc.sockets[k].unit (fun r => { r with state := .testing }) s) := rfl
  rw [hunits]
  split <;> rename_i hu
  · rw [hu]; exact findUnit_modUnit_same hr
  · rw [findUnit_modUnit_other fun e => hu e.symm]; exact hr

/-- The unit of a socket that begins its test, whichever of the sockets it is. -/
theorem foldl_testSocket_unit : ∀ (ks : List SocketIx) (s : State) (r : UnitRec), findUnit u s = some r →
    (∃ k ∈ ks, s.hsc.sockets[k].unit = u) ∨ r.state = .testing →
    findUnit u (ks.foldl testSocket s) = some { r with state := .testing }
  | [], s, r, hr, hk => by
    have hstate : r.state = .testing := hk.resolve_left fun ⟨k, hm, _⟩ => nomatch hm
    rw [← hstate]; exact hr
  | k :: ks, s, r, hr, hk => by
    have hfirst := testSocket_units hr k
    have hunit : ∀ j : SocketIx, (testSocket s k).hsc.sockets[j].unit = s.hsc.sockets[j].unit := fun j => by
      rw [testSocket_sockets]; split <;> rfl
    rw [List.foldl_cons]
    split at hfirst <;> rename_i hu
    · exact foldl_testSocket_unit ks _ { r with state := .testing } hfirst (.inr rfl)
    · refine foldl_testSocket_unit ks _ r hfirst (hk.imp_left fun ⟨j, hm, hj⟩ => ⟨j, ?_, (hunit j).trans hj⟩)
      exact (List.mem_cons.1 hm).resolve_left fun e => hu (e ▸ hj)

theorem startTest_unit (hk : headOf k = h) (hl : s.hsc.sockets[k].state = .loaded)
    (hr : findUnit s.hsc.sockets[k].unit s = some r) :
    findUnit s.hsc.sockets[k].unit (startTest h s) = some { r with state := .testing } :=
  foldl_testSocket_unit _ (modHead h (fun r => { r with cycle := r.cycle + 1, sot := some s.now }) s) r hr
    (.inl ⟨k, mem_loadedSockets.2 ⟨hk, hl⟩, rfl⟩)

/-! ### What the review of a head asks (R123 to R125) -/

theorem anySocket_iff {v : SocketState} :
    anySocket h v s = true ↔ ∃ k : SocketIx, headOf k = h ∧ s.hsc.sockets[k].state = v := by
  simp [anySocket, mem_socketsOf]

theorem SocketRec.active_iff {x : SocketRec} :
    x.active = true ↔ x.state ≠ .off ∧ x.state ≠ .jammed ∧ x.offPending = none := by
  simp [SocketRec.active, and_assoc]

theorem anyActive_iff : anyActive h s = true ↔ ∃ k : SocketIx, headOf k = h ∧ s.hsc.sockets[k].active = true := by
  simp [anyActive, mem_socketsOf]

theorem activeLoaded_iff : activeLoaded h s = true ↔
    ∃ k : SocketIx, headOf k = h ∧ s.hsc.sockets[k].active = true ∧ s.hsc.sockets[k].state = .loaded := by
  simp [activeLoaded, mem_socketsOf]

theorem headFull_iff : headFull h s = true ↔
    ∀ k : SocketIx, headOf k = h → s.hsc.sockets[k].active = true → s.hsc.sockets[k].state = .loaded := by
  simp [headFull, mem_socketsOf, or_iff_not_imp_left]

theorem drainClear_iff : drainClear s = true ↔ s.upt.pendingCreations = 0 ∧ ∀ r ∈ s.upt.units, r.state ≠ .soaking
    ∧ r.state ≠ .ready ∧ r.state ≠ .staged ∧ r.state ≠ .onLoad ∧ r.state ≠ .returnWait := by
  simp [drainClear, and_assoc]

theorem startCondition_iff : startCondition h s = true ↔ s.hsc.heads[h].state = .fill ∧ lotTesting s = true
    ∧ activeLoaded h s = true ∧ ¬anySocket h .reserved s = true ∧ ¬anySocket h .done s = true
    ∧ (headFull h s = true ∨ s.hsc.heads[h].fillExpired = true ∨ (s.ltc.state = .draining ∧ drainClear s = true)) := by
  simp only [startCondition, Bool.and_eq_true, Bool.or_eq_true, decide_eq_true_eq, Bool.not_eq_true', and_assoc, or_assoc,
    Bool.not_eq_true]

/-- The start condition with what it reads told in the terms of R125. -/
theorem startCondition_spec {active : SocketIx → Prop} {has : SocketState → Prop}
    (hactive : ∀ k, active k ↔ s.hsc.sockets[k].state ≠ .off ∧ s.hsc.sockets[k].state ≠ .jammed
      ∧ s.hsc.sockets[k].offPending = none)
    (hhas : ∀ v, has v ↔ ∃ k : SocketIx, headOf k = z ∧ s.hsc.sockets[k].state = v) :
    startCondition z s = true ↔ s.hsc.heads[z].state = .fill
      ∧ (s.ltc.state = .running ∨ s.ltc.state = .draining)
      ∧ (∃ k : SocketIx, headOf k = z ∧ active k ∧ s.hsc.sockets[k].state = .loaded) ∧ ¬has .reserved ∧ ¬has .done
      ∧ ((∀ k : SocketIx, headOf k = z → active k → s.hsc.sockets[k].state = .loaded)
        ∨ s.hsc.heads[z].fillExpired = true
        ∨ (s.ltc.state = .draining ∧ s.upt.pendingCreations = 0 ∧ ∀ r ∈ s.upt.units, r.state ≠ .soaking
          ∧ r.state ≠ .ready ∧ r.state ≠ .staged ∧ r.state ≠ .onLoad ∧ r.state ≠ .returnWait)) := by
  have hsocket : ∀ k : SocketIx, active k ↔ s.hsc.sockets[k].active = true := fun k =>
    (hactive k).trans SocketRec.active_iff.symm
  simp only [startCondition_iff, lotTesting_iff, activeLoaded_iff, headFull_iff, drainClear_iff, anySocket_iff, hsocket,
    hhas]

/-- A head that goes back from START_WAIT to FILL (R126, R124). -/
theorem startWaitBack_of_done (hw : s.hsc.heads[z].state = .startWait ∧ anySocket z .done s = true) :
    startWaitBack z s = enterFill z (withdrawHead z s) := if_pos hw

theorem enterFill_unloaded (hl : ¬anySocket h .loaded s = true) :
    enterFill h s = modHead h (fun r => { r with state := .fill }) s := if_neg hl

theorem enterFill_loaded (hl : anySocket h .loaded s = true) : enterFill h s = modHead h (fun r => { r with
    state := .fill, fillExpired := false
    fill := if s.ltc.params.fillTimeout = 0 then .stopped else startTimer s.ltc.params.fillTimeout s }) s :=
  (if_pos hl).trans (modHead_modHead h (fun r => { r with
    fill := if s.ltc.params.fillTimeout = 0 then .stopped else startTimer s.ltc.params.fillTimeout s
    fillExpired := false }) (fun r => { r with state := .fill }) s)

theorem asksForZone_iff : asksForZone h s ↔ s.hsc.heads[h].state = .startWait ∧ s.rcu.run = .run
    ∧ (s.rcu.mode = .continuous ∨ s.hsc.heads[h].credit = true) := by
  simp [asksForZone, creditPresent]

/-- Settles O54: requests and releases by who waits, the start of a test by `startTest_eq`, and each part of the review by
the condition of its rule. -/
theorem zonesAreGrantedInOrder : Obligations.ZonesAreGrantedInOrder := by
  intro z s put hput
  have hmod : ∀ f, modZone z f s = put (f s.zar[z]) := fun f => (hput _).symm
  have hgrant : startTest z (put { s.zar[z] with holder := .head, head := false }) = grantHead z s :=
    congrArg (startTest z) (hmod fun r => { r with holder := .head, head := false }).symm
  refine ⟨fun hz => ⟨?load, ?unload⟩, fun hn hl => ?waitLoad, fun hn hu => ?waitUnload, fun h => releaseZone_other,
    fun hh hu hl => ?free, fun hh => ?head, fun hh hu => ?zone, fun o t hh hu ho ht => ?sends,
    fun o k cx cy clamped voided t hh hu hl ho hk hc ht => ?places, fun hn => ?silent, fun hw hr hm =>
    ⟨fun hz => ?asksFree, fun hz => ?asksOwn, fun hz => ?asksHeld⟩, fun t ht => ?test,
    fun active has putHead hactive hhas hputHead => ?review, fun before => rfl⟩
  case load => rw [requestZone_granted (.inl hz), hmod]; rfl
  case unload => rw [requestZone_granted (.inl hz), hmod]; rfl
  case waitLoad => rw [requestZone_waits (g := .load) (not_or.2 ⟨hn, hl⟩), hmod]; rfl
  case waitUnload => rw [requestZone_waits (g := .unload) (not_or.2 ⟨hn, hu⟩), hmod]; rfl
  case free => rw [releaseZone_last hh hu, if_neg (by rw [hl]; decide), freed, hmod]
  case head => rw [releaseZone_first (.inl hh), releaseFirst_head hh, hmod]
  case zone => rw [releaseZone_first (.inr hu)]; exact releaseFirst_unload_zone hh hu
  case sends => rw [ht, releaseZone_first (.inr hu)]; exact releaseFirst_unload_send hh hu ho
  case places =>
    obtain ⟨w, counts, hqueue, hzone, heq⟩ := releaseZone_load hh hu hl ho hk hc
    rw [ht, heq]
    exact ⟨by simp only [sendOrder_zar]; exact hzone, by rw [gsq_sendOrder]; rfl,
      headOrder_sendOrder (hqueue.trans ho) counts⟩
  case silent =>
    refine requestHead_of_not_asking fun ha => ?_
    obtain ⟨hw, hr, hm⟩ := asksForZone_iff.1 ha
    rcases hn with hn | hn | ⟨hmode, hcredit⟩
    · exact hn hw
    · exact hn hr
    · rw [hmode, hcredit] at hm; simp at hm
  case asksFree => rw [hgrant]; exact requestHead_of_free (asksForZone_iff.2 ⟨hw, hr, hm⟩) hz
  case asksOwn => exact requestHead_of_own hz
  case asksHeld => rw [requestHead_of_held (asksForZone_iff.2 ⟨hw, hr, hm⟩) hz, hmod]
  case test =>
    have hheads := fun j => startTest_heads z j s
    have hsot := fun j => startTest_sot z j s
    have hunits := fun k r => startTest_unit (s := s) (h := z) (k := k) (r := r)
    obtain ⟨us, v, l, heq, hsockets, hld⟩ := startTest_eq z s
    have hv : t.hsc.sockets = v := by rw [ht, heq]
    have hl : t.pins.ld = l := by rw [ht, heq]
    rw [← ht] at hheads hsot hunits
    refine ⟨(hheads z).trans (if_pos rfl), (hsot z).trans (if_pos rfl), fun j hj => ⟨(hheads j).trans (if_neg hj),
      (hsot j).trans (if_neg hj)⟩, fun k hk hloaded => ⟨?_, ?_, fun r hr => hunits k r hk hloaded hr⟩,
      fun k hk => ⟨?_, ?_⟩, by rw [ht, heq], by rw [ht, heq], by rw [ht, heq], by rw [ht, heq], by rw [ht, heq],
      by rw [ht, heq]⟩
    · rw [hv, hsockets, if_pos ⟨hk, hloaded⟩]
    · rw [hl, hld, if_pos ⟨hk, hloaded⟩]
    · rw [hv, hsockets, if_neg (not_and_or.2 hk)]
    · rw [hl, hld, if_neg (not_and_or.2 hk)]
  case review =>
    have hsocket : ∀ k : SocketIx, active k ↔ s.hsc.sockets[k].active = true := fun k =>
      (hactive k).trans SocketRec.active_iff.symm
    have hany : ∀ v, anySocket z v s = true ↔ has v := fun v => anySocket_iff.trans (hhas v).symm
    have hnot : ∀ v, anySocket z v s = false ↔ ¬has v := fun v => by rw [← hany, Bool.not_eq_true]
    have hmodHead : ∀ f, modHead z f s = putHead (f s.hsc.heads[z]) := fun f => (hputHead _).symm
    refine ⟨startCondition_spec hactive hhas, fun hc => ?start, fun hc => if_neg (by rw [hc]; decide), fun go hgo => ?idle,
      fun go hgo => ?leave, fun go hgo => ?unloaded, fun go hgo => ?back, rfl⟩
    case start => rw [startIfReady, if_pos hc, hmodHead]
    case idle =>
      have hcond : go ↔ s.hsc.heads[z].state = .idle ∧ lotActive s = true ∧ anyActive z s = true := by
        simp only [hgo, lotActive_iff, anyActive_iff, hsocket]
      exact ⟨fun h => (if_pos (hcond.1 h)).trans (hmodHead _), fun h => if_neg fun hc => h (hcond.2 hc)⟩
    case leave =>
      have hcond : go ↔ s.hsc.heads[z].state = .fill ∧ (s.ltc.state = .drained ∨ (anyActive z s = false
          ∧ anySocket z .reserved s = false ∧ anySocket z .loaded s = false ∧ anySocket z .done s = false)) := by
        have hidle : anyActive z s = false ↔ ∀ k : SocketIx, headOf k = z → ¬active k := by
          rw [← Bool.not_eq_true, anyActive_iff]; simp only [hsocket, not_exists, not_and]
        rw [hgo]; simp only [hnot, hidle]
      refine ⟨fun h => (if_pos (hcond.1 h)).trans ?_, fun h => if_neg fun hc => h (hcond.2 hc)⟩
      exact (modHead_modHead ..).trans (hmodHead _)
    case unloaded =>
      have hcond : go ↔ s.hsc.heads[z].state = .fill ∧ anySocket z .loaded s = false := by rw [hgo, hnot]
      exact ⟨fun h => (if_pos (hcond.1 h)).trans (hmodHead _), fun h => if_neg fun hc => h (hcond.2 hc)⟩
    case back =>
      have hcond : go ↔ s.hsc.heads[z].state = .startWait ∧ anySocket z .done s = true := by rw [hgo, hany]
      refine ⟨fun t h ht => ?_, fun h => if_neg fun hc => h (hcond.2 hc)⟩
      have hback := ht.trans (startWaitBack_of_done (hcond.1 h))
      have hloaded : anySocket z .loaded (withdrawHead z s) = anySocket z .loaded s := rfl
      by_cases hl : has .loaded
      · rw [enterFill_loaded (hloaded.trans ((hany _).2 hl))] at hback
        rw [hback]
        exact ⟨by rw [hput]; rfl, fun hn => absurd hl hn, fun _ => by rw [hputHead]; rfl, rfl⟩
      · rw [enterFill_unloaded (by rw [hloaded, hany]; exact hl)] at hback
        rw [hback]
        exact ⟨by rw [hput]; rfl, fun _ => by rw [hputHead]; rfl, fun hn => absurd hn hl, rfl⟩

end Sys2Proof.Machine
end

section
/-! PROOF. The end of a test: what the edge on EOT samples, what a capture records, and what its release of the zone and
its entry to FILL leave (R129, R130, R131, R32, R61, R134). -/
namespace Sys2Proof.Machine

variable {s t : State} {h j : HeadIx} {k : SocketIx} {bin : SocketIx → BinCode} {timeout : Bool}

/-! ### The bins sampled at the edge (R129) -/

theorem placeInHead_headSocket (h : HeadIx) (j : Fin 4) : placeInHead (headSocket h j) = j := by revert h j; decide

theorem headSocket_mem (h : HeadIx) (j : Fin 4) : headSocket h j ∈ socketsOf h := by revert h j; decide

theorem headOf_headSocket (h : HeadIx) (j : Fin 4) : headOf (headSocket h j) = h := mem_socketsOf.1 (headSocket_mem h j)

/-- Sampling raises factors and does nothing else. -/
theorem foldl_sampleFactor_frame (h : HeadIx) (lines : Vector BinLine 4) : ∀ (ks : List SocketIx) (s : State),
    ∃ c p, ks.foldl (sampleFactor h lines) s = { s with clu := c, pins := p }
  | [], s => ⟨_, _, rfl⟩
  | k :: ks, s => by
    obtain ⟨c, p, hrest⟩ := foldl_sampleFactor_frame h lines ks (sampleFactor h lines s k)
    obtain ⟨c', p', hfirst⟩ : ∃ c' p', sampleFactor h lines s k = { s with clu := c', pins := p' } := by
      unfold sampleFactor
      dsimp only
      split_ifs <;> exact ⟨_, _, rfl⟩
    exact ⟨c, p, by rw [List.foldl_cons, hrest, hfirst]⟩

theorem sampleFactor_hsc (h : HeadIx) (lines : Vector BinLine 4) (s : State) (k : SocketIx) :
    (sampleFactor h lines s k).hsc = s.hsc := by
  obtain ⟨c, p, heq⟩ := foldl_sampleFactor_frame h lines [k] s
  rw [List.foldl_cons, List.foldl_nil] at heq
  rw [heq]

/-- A factor raised at one socket is still raised after the others. -/
theorem foldl_sampleFactor_raised {lines : Vector BinLine 4} {i : Nat} {x : SocketRec}
    (hx : ∀ s : State, s.hsc.sockets[k] = x → (sampleFactor h lines s k).clu.raised.getLsbD i = true)
    {ks : List SocketIx} (hk : k ∈ ks) (hs : s.hsc.sockets[k] = x) :
    (ks.foldl (sampleFactor h lines) s).clu.raised.getLsbD i = true := by
  induction ks generalizing s with
  | nil => cases hk
  | cons j ks ih =>
    rw [List.foldl_cons]
    rcases List.mem_cons.1 hk with rfl | hk
    · have hkeeps : Keeps (sampleFactor h lines s k) (ks.foldl (sampleFactor h lines) (sampleFactor h lines s k)) :=
        Keeps.foldl (fun _ j => sampleFactor_keeps h lines j) _ _ (.refl _)
      exact hkeeps.raised i (hx s hs)
    · exact ih hk (by simp only [sampleFactor_hsc]; exact hs)

theorem sampleFactor_noBin {lines : Vector BinLine 4} {p : Fin 4} (hp : placeInHead k = p)
    (hv : lines[p].valid = false) (ht : s.hsc.sockets[k].state = .testing) :
    (sampleFactor h lines s k).clu.raised.getLsbD 15 = true := by
  subst hp
  simp only [sampleFactor, ht, hv, and_self, if_true]
  exact raise_raised .noBin _ _

theorem sampleFactor_binIgnored {lines : Vector BinLine 4} {p : Fin 4} (hp : placeInHead k = p)
    (hv : lines[p].valid = true) (ht : s.hsc.sockets[k].state ≠ .testing) :
    (sampleFactor h lines s k).clu.raised.getLsbD 14 = true := by
  subst hp
  rw [sampleFactor, if_neg fun hc => ht hc.1, if_pos ⟨ht, hv⟩]
  exact raise_raised .binIgnored _ _

theorem sampledBin_at {lines : Vector BinLine 4} {p : Fin 4} (hp : placeInHead k = p) :
    (sampledBin lines k).val = if lines[p].valid then lines[p].code.toNat else 33 := by
  subst hp
  rw [sampledBin]
  split <;> rfl

/-- What comes before the capture at the edge: the bins sampled, the test timer stopped, the estimate updated. -/
def edgeTaken (h : HeadIx) (lines : Vector BinLine 4) (s : State) : State :=
  (socketsOf h).foldl (sampleFactor h lines) s |> stopTest h |> updateEstimate h (testDuration h s).toNat

theorem endOfTest_eq (h : HeadIx) (lines : Vector BinLine 4) (s : State) : endOfTest h lines s =
    enterFill h (releaseZone .head h (captureUnits h false (sampledBin lines) (edgeTaken h lines s))) := rfl

theorem timeoutCapture_eq (h : HeadIx) (s : State) : timeoutCapture h s =
    raise .headTimeout (headArg h ++ be16 s.hsc.heads[h].cycle)
      (enterFill h (releaseZone .head h (captureUnits h true (fun _ => 32) (stopTest h s)))) := rfl

theorem edgeTaken_frame (h : HeadIx) (lines : Vector BinLine 4) (s : State) : ∃ c p, edgeTaken h lines s =
    updateEstimate h (testDuration h s).toNat (stopTest h { s with clu := c, pins := p }) := by
  obtain ⟨c, p, heq⟩ := foldl_sampleFactor_frame h lines (socketsOf h) s
  exact ⟨c, p, by rw [edgeTaken, heq]⟩

theorem edgeTaken_clu (h : HeadIx) (lines : Vector BinLine 4) (s : State) :
    (edgeTaken h lines s).clu = ((socketsOf h).foldl (sampleFactor h lines) s).clu := by
  unfold edgeTaken
  generalize (socketsOf h).foldl (sampleFactor h lines) s = w
  rfl

theorem edgeTaken_noBin {lines : Vector BinLine 4} {p : Fin 4} (ht : s.hsc.sockets[headSocket h p].state = .testing)
    (hv : lines[p].valid = false) : (edgeTaken h lines s).clu.raised.getLsbD 15 = true := by
  rw [edgeTaken_clu]
  refine foldl_sampleFactor_raised (fun w hw => ?_) (headSocket_mem h p) rfl
  exact sampleFactor_noBin (placeInHead_headSocket h p) hv (by rw [hw]; exact ht)

theorem edgeTaken_binIgnored {lines : Vector BinLine 4} {p : Fin 4}
    (ht : s.hsc.sockets[headSocket h p].state ≠ .testing) (hv : lines[p].valid = true) :
    (edgeTaken h lines s).clu.raised.getLsbD 14 = true := by
  rw [edgeTaken_clu]
  refine foldl_sampleFactor_raised (fun w hw => ?_) (headSocket_mem h p) rfl
  exact sampleFactor_binIgnored (placeInHead_headSocket h p) hv (by rw [hw]; exact ht)

/-! ### The zone and FILL (R129, steps 6 and 7) -/

/-- The release of the zone and the entry to FILL leave the estimates and the capture counters. -/
theorem leaveTest_counts (h : HeadIx) (s : State) :
    (enterFill h (releaseZone .head h s)).xpl.estimates = s.xpl.estimates
    ∧ (enterFill h (releaseZone .head h s)).ltc.captures = s.ltc.captures := by
  have hcounts : (bench (enterFill h (releaseZone .head h s))).counts = (bench s).counts :=
    (congrArg Bench.counts (enterFill_bench h _)).trans (releaseZone_counts .head h s)
  exact ⟨congrArg Prod.fst hcounts, congrArg Prod.snd hcounts⟩

theorem enterFill_state (h : HeadIx) (s : State) : (enterFill h s).hsc.heads[h].state = .fill := by
  obtain ⟨f, heq, hf⟩ := enterFill_frame h s
  simp only [heq, modHead_same]
  exact (hf _).1

theorem exec_eot (hr : s.pins.resetLow = false) (lines : Vector BinLine 4) :
    exec (.eot h lines) s = .next (startTx (eotEdge h lines s)) := next_live hr

/-! ### The statement's parts -/

/-- A socket after its capture (R121, R129). -/
theorem captureUnits_socket {e : BinEntry} (hk : headOf k = h) (ht : s.hsc.sockets[k].state = .testing)
    (he : s.srt.binMap[bin k] = some e) {n q : Nat}
    (hn : n = if e.fail then (if s.hsc.sockets[k].fails < 15 then s.hsc.sockets[k].fails + 1 else 15) else 0)
    (hq : q = s.ltc.params.quarantineThreshold) :
    (captureUnits h timeout bin s).hsc.sockets[k] = { s.hsc.sockets[k] with
      state := .done, tests := satInc s.hsc.sockets[k].tests
      passes := if e.pass then satInc s.hsc.sockets[k].passes else s.hsc.sockets[k].passes
      fails := n
      offPending := if 0 < q ∧ q ≤ n ∧ s.hsc.sockets[k].offPending = none then some .quarantine
        else s.hsc.sockets[k].offPending } := by
  simp only [captureUnits_sockets, (passes_at hk ht he).1, SocketRec.captured]
  have hcount : s.hsc.sockets[k].count e.fail e.pass = { s.hsc.sockets[k] with
      tests := satInc s.hsc.sockets[k].tests
      passes := if e.pass then satInc s.hsc.sockets[k].passes else s.hsc.sockets[k].passes, fails := n } := by
    rw [hn]; rfl
  rw [hcount, ← hq]
  by_cases hreached : 0 < q ∧ q ≤ n ∧ s.hsc.sockets[k].offPending = none
  · rw [if_pos hreached, if_pos hreached]
  · rw [if_neg hreached, if_neg hreached]

/-- A unit after its capture (R13, R147). -/
theorem captureUnits_record {e : BinEntry} {r : UnitRec} (hk : headOf k = h) (ht : s.hsc.sockets[k].state = .testing)
    (he : s.srt.binMap[bin k] = some e) (hr : findUnit s.hsc.sockets[k].unit s = some r)
    (hother : ∀ j : SocketIx, j ≠ k → headOf j = h → s.hsc.sockets[j].state = .testing →
      s.hsc.sockets[j].unit ≠ s.hsc.sockets[k].unit) :
    findUnit s.hsc.sockets[k].unit (captureUnits h timeout bin s) = some
      { ({ r with attempts := r.attempts ++ [attemptAt k s.hsc.heads[h].cycle (bin k) (testDuration h s)] } : UnitRec).routed
          (decide (s.ltc.state = .purging)) s.ltc.params.maxAttempts e k with state := .tested } := by
  rw [captureUnits_unit]
  refine (passes_at hk ht he).2 r hr fun j hj hne => ?_
  obtain ⟨hhead, htest⟩ := mem_testingSockets.1 hj
  exact hother j hne hhead htest

theorem testDuration_of_sot {sot : Time} (hsot : s.hsc.heads[h].sot = some sot) : testDuration h s = s.now - sot := by
  rw [testDuration, hsot]; rfl

theorem summaryBins_get (h : HeadIx) (bin : SocketIx → BinCode) (s : State) (j : Fin 4) :
    (summaryBins h (testingSockets h s) bin)[j] =
      if s.hsc.sockets[headSocket h j].state = .testing then some (bin (headSocket h j)) else none := by
  simp [summaryBins, mem_testingSockets, headOf_headSocket]

/-- Settles O59: the edge by `edgeTaken`, a capture by its frame and its passes, and the counts through the release of the
zone. -/
theorem eotCapturesAHeadInTest : Obligations.EotCapturesAHeadInTest := by
  intro h s
  refine ⟨fun lines hr => ⟨fun ht => ?stray, fun ht => ?edge⟩, fun lines => ⟨?taken, fun j => sampledBin_at (placeInHead_headSocket h j)⟩,
    ⟨stopTest h s, rfl, rfl, rfl, rfl, rfl, modHead_same .., rfl, rfl⟩, fun timeout bin t ht => ?captured,
    fun lines sot hsot => ?counted, ?estimates, ?timeouts, raise_raised .headTimeout _ _⟩
  case stray => rw [exec_eot hr, eotEdge, if_neg ht]; rfl
  case edge => rw [exec_eot hr, eotEdge, if_pos ht]
  case taken =>
    have hnoBin := fun p => edgeTaken_noBin (s := s) (h := h) (lines := lines) (p := p)
    have hignored := fun p => edgeTaken_binIgnored (s := s) (h := h) (lines := lines) (p := p)
    obtain ⟨c, p, heq⟩ := edgeTaken_frame h lines s
    refine ⟨edgeTaken h lines s, ?_, ?_, ?_, ?_, ?_, ?_, hnoBin, hignored, endOfTest_eq h lines s⟩
    iterate 5 rw [heq]; rfl
    · simp only [heq]; exact modHead_same { s with clu := c, pins := p } h (fun r => { r with test := .stopped })
  case captured =>
    subst ht
    obtain ⟨p, heq, hsot, hld⟩ := captureUnits_frame h timeout bin s
    have hpins : (captureUnits h timeout bin s).pins = p := by rw [heq]; rfl
    refine ⟨by simp only [hpins]; exact (hsot h).trans (if_pos rfl), captureUnits_zar, fun i hi => ?_, fun sot hs => ?_,
      fun k => ⟨fun hk => by simp only [hpins]; exact (hld k).trans (if_pos hk), fun hk => ?_, fun e hk ht he =>
        ⟨fun n q hn hq => captureUnits_socket hk ht he hn hq, fun r sot hr hs hother => ?_⟩⟩⟩
    · rw [captureUnits_heads, if_neg hi]
    · refine ⟨_, (captureUnits_heads h h timeout bin s).trans (if_pos rfl), rfl, by rw [hs]; rfl, ?_, summaryBins_get h bin s⟩
      rw [testDuration_of_sot hs]
    · simp only [captureUnits_sockets]; exact passes_other hk
    · rw [captureUnits_record hk ht he hr hother, testDuration_of_sot hs]
      simp only [UnitRec.routed, decide_eq_false_iff_not, BinEntry.finalCategory, attemptAt, Bool.or_eq_true]
      split <;> rfl
  case counted =>
    obtain ⟨hestimates, hcaptures⟩ := leaveTest_counts h (captureUnits h false (sampledBin lines) (edgeTaken h lines s))
    obtain ⟨c, p, heq⟩ := edgeTaken_frame h lines s
    rw [endOfTest_eq]
    refine ⟨?_, ?_, enterFill_state h _⟩
    · rw [hestimates, captureUnits_xpl, heq, ← testDuration_of_sot hsot]
      rfl
    · rw [hcaptures, captureUnits_ltc, heq]
      rfl
  case estimates =>
    obtain ⟨hestimates, -⟩ := leaveTest_counts h (captureUnits h true (fun _ => 32) (stopTest h s))
    rw [timeoutCapture_eq, raise_xpl, hestimates, captureUnits_xpl]
    rfl
  case timeouts =>
    obtain ⟨-, hcaptures⟩ := leaveTest_counts h (captureUnits h true (fun _ => 32) (stopTest h s))
    rw [timeoutCapture_eq, raise_ltc, hcaptures, captureUnits_ltc]
    rfl

end Sys2Proof.Machine
end

section
/-! PROOF. The routes at a purge (R149): the record each unit comes out with, unit by unit and then over the table. -/
namespace Sys2Proof.Machine

variable {s t : State} {u : UnitNo} {r : UnitRec}

/-! ### One record -/

/-- A record with route RETEST after a reroute; without an attempt whose bin has an entry it stays (R148). -/
def UnitRec.rerouted (s : State) (r : UnitRec) : UnitRec :=
  match r.attempts.getLast?.bind (fun a => binEntry a.bin s) with
  | some e => { r with route := some (.final (e.finalCategory r.clamped r.voided r.attempts.length) false) }
  | none => r

/-- A record after the purge has routed its unit (R149). -/
def UnitRec.purgeRouted (s : State) (r : UnitRec) : UnitRec :=
  if r.state = .testing ∨ r.state = .lost then r
  else match r.route with
    | none => { r with route := some (purgeRoute s) }
    | some .retest => r.rerouted s
    | some _ => r

theorem UnitRec.rerouted_state (s : State) (r : UnitRec) : (r.rerouted s).state = r.state := by
  unfold UnitRec.rerouted; split <;> rfl

theorem UnitRec.rerouted_route (h : r.route ≠ none) : (r.rerouted s).route ≠ none := by
  unfold UnitRec.rerouted; split
  · exact Option.some_ne_none _
  · exact h

theorem UnitRec.purgeRouted_left (h : r.state = .testing ∨ r.state = .lost) : r.purgeRouted s = r := if_pos h

theorem UnitRec.purgeRouted_unrouted (h : ¬(r.state = .testing ∨ r.state = .lost)) (hroute : r.route = none) :
    r.purgeRouted s = { r with route := some (.final s.ltc.params.purgeCategory true) } := by
  rw [UnitRec.purgeRouted, if_neg h, hroute]; rfl

theorem UnitRec.purgeRouted_route (h : ¬(r.state = .testing ∨ r.state = .lost)) : (r.purgeRouted s).route ≠ none := by
  unfold UnitRec.purgeRouted
  rw [if_neg h]
  split
  next => exact Option.some_ne_none _
  next hr => exact UnitRec.rerouted_route (by simp [hr])
  next hr => simp [hr]

theorem UnitRec.purgeRouted_state (s : State) (r : UnitRec) : (r.purgeRouted s).state = r.state := by
  unfold UnitRec.purgeRouted
  split
  · rfl
  · split
    · rfl
    · exact UnitRec.rerouted_state s r
    · rfl

theorem UnitRec.purgeRouted_congr (hltc : t.ltc = s.ltc) (hsrt : t.srt = s.srt) (r : UnitRec) :
    r.purgeRouted t = r.purgeRouted s := by
  simp only [UnitRec.purgeRouted, UnitRec.rerouted, purgeRoute, binEntry, hltc, hsrt]

/-! ### The routing of one unit -/

theorem findUnit_reroute (h : findUnit u s = some r) (hr : r.route = some .retest) :
    findUnit u (reroute u s) = some (r.rerouted s) := by
  unfold reroute UnitRec.rerouted
  simp only [h, hr]
  cases r.attempts.getLast? with
  | none => exact h
  | some a =>
    dsimp only [Option.bind_some]
    cases binEntry a.bin s with
    | none => exact h
    | some e => exact findUnit_modUnit_same h

theorem findUnit_purgeUnitRoute (h : findUnit u s = some r) :
    findUnit u (purgeUnitRoute u s) = some (r.purgeRouted s) := by
  unfold purgeUnitRoute UnitRec.purgeRouted
  simp only [h]
  split
  · exact h
  · cases hroute : r.route with
    | none => exact findUnit_modUnit_same h
    | some x =>
      cases x with
      | retest => exact findUnit_reroute h hroute
      | final => exact h
      | realignReject => exact h

/-- What the routing of one unit keeps: the numbers of the table, the records of the others, and all that decides a
route. -/
structure RoutesOne (u : UnitNo) (s t : State) : Prop where
  numbers : t.upt.units.map UnitRec.no = s.upt.units.map UnitRec.no
  others : ∀ v, v ≠ u → findUnit v t = findUnit v s
  ltc : t.ltc = s.ltc
  srt : t.srt = s.srt

theorem RoutesOne.refl (u : UnitNo) (s : State) : RoutesOne u s s := ⟨rfl, fun _ _ => rfl, rfl, rfl⟩

theorem RoutesOne.route (u : UnitNo) (x : Route) (s : State) :
    RoutesOne u s (unready u (modUnit u (fun r => { r with route := some x }) s)) where
  numbers := by
    have hno (a : UnitRec) : (if a.no = u then { a with route := some x } else a).no = a.no := by split <;> rfl
    simp [unready, Function.comp_def, hno]
  others _ hv := findUnit_modUnit_other hv
  ltc := rfl
  srt := rfl

theorem reroute_routesOne (u : UnitNo) (s : State) : RoutesOne u s (reroute u s) := by
  unfold reroute
  repeat' split
  · exact .route u _ s
  all_goals exact .refl u s

theorem purgeUnitRoute_routesOne (u : UnitNo) (s : State) : RoutesOne u s (purgeUnitRoute u s) := by
  unfold purgeUnitRoute
  repeat' split
  · exact .refl u s
  · exact .route u _ s
  · exact reroute_routesOne u s
  all_goals exact .refl u s

/-! ### The whole table -/

theorem foldl_purgeUnitRoute_numbers : ∀ (us : List UnitNo) (s : State),
    (us.foldl (fun s u => purgeUnitRoute u s) s).upt.units.map UnitRec.no = s.upt.units.map UnitRec.no
  | [], _ => rfl
  | u :: us, s => (foldl_purgeUnitRoute_numbers us _).trans (purgeUnitRoute_routesOne u s).numbers

theorem foldl_purgeUnitRoute_apart : ∀ (us : List UnitNo) (s : State), u ∉ us →
    findUnit u (us.foldl (fun s u => purgeUnitRoute u s) s) = findUnit u s
  | [], _, _ => rfl
  | v :: us, s, hu => by
    obtain ⟨hne, hus⟩ := not_or.1 (mt List.mem_cons.2 hu)
    exact (foldl_purgeUnitRoute_apart us _ hus).trans ((purgeUnitRoute_routesOne v s).others u hne)

theorem foldl_purgeUnitRoute_at (us : List UnitNo) (s : State) (hnodup : us.Nodup) (hu : u ∈ us)
    (h : findUnit u s = some r) :
    findUnit u (us.foldl (fun s u => purgeUnitRoute u s) s) = some (r.purgeRouted s) := by
  induction us generalizing s with
  | nil => exact absurd hu List.not_mem_nil
  | cons v us ih =>
    obtain ⟨hv, hus⟩ := List.nodup_cons.1 hnodup
    have hone := purgeUnitRoute_routesOne v s
    rw [List.foldl_cons]
    by_cases hne : u = v
    · subst hne
      rw [foldl_purgeUnitRoute_apart us _ hv, findUnit_purgeUnitRoute h]
    · rw [ih _ hus (List.mem_of_ne_of_mem hne hu) ((hone.others u hne).trans h),
        UnitRec.purgeRouted_congr hone.ltc hone.srt]

/-- A table that holds each number once gives back each of its records. -/
theorem findUnit_of_mem (hnodup : (s.upt.units.map UnitRec.no).Nodup) (hr : r ∈ s.upt.units) :
    findUnit r.no s = some r := by
  cases h : findUnit r.no s with
  | none => exact absurd rfl (findUnit_eq_none_iff.1 h r hr)
  | some x => rw [List.inj_on_of_nodup_map hnodup (List.mem_of_find?_eq_some h) hr (findUnit_no h)]

theorem findUnit_purgeRoutes (hnodup : (s.upt.units.map UnitRec.no).Nodup) (hr : r ∈ s.upt.units) :
    findUnit r.no (purgeRoutes s) = some (r.purgeRouted s) :=
  foldl_purgeUnitRoute_at _ s hnodup (List.mem_map_of_mem hr) (findUnit_of_mem hnodup hr)

/-- Every record after the purge is the purge's route given to a record from before it. -/
theorem mem_purgeRoutes (hnodup : (s.upt.units.map UnitRec.no).Nodup) (hr : r ∈ (purgeRoutes s).upt.units) :
    ∃ x ∈ s.upt.units, r = x.purgeRouted s := by
  have hnumbers : (purgeRoutes s).upt.units.map UnitRec.no = s.upt.units.map UnitRec.no :=
    foldl_purgeUnitRoute_numbers _ s
  obtain ⟨x, hx, hno⟩ := List.mem_map.1 (hnumbers ▸ List.mem_map_of_mem (f := UnitRec.no) hr)
  have hafter : findUnit r.no (purgeRoutes s) = some r := findUnit_of_mem (hnumbers ▸ hnodup) hr
  rw [← hno, findUnit_purgeRoutes hnodup hx] at hafter
  exact ⟨x, hx, (Option.some.inj hafter).symm⟩

/-- Settles O34: each record after the purge is `purgeRouted` of the one before, which has a route unless its unit is
TESTING or LOST. -/
theorem purgeRoutesEveryUnit : Obligations.PurgeRoutesEveryUnit := by
  intro s hnodup
  refine ⟨fun r hr htesting hlost => ?_, fun r hr htesting hlost hroute => ?_, fun r hr hstate => ?_⟩
  · obtain ⟨x, -, rfl⟩ := mem_purgeRoutes hnodup hr
    rw [UnitRec.purgeRouted_state] at htesting hlost
    exact UnitRec.purgeRouted_route (not_or.2 ⟨htesting, hlost⟩)
  · rw [findUnit_purgeRoutes hnodup hr, UnitRec.purgeRouted_unrouted (not_or.2 ⟨htesting, hlost⟩) hroute]
  · rw [findUnit_purgeRoutes hnodup hr, UnitRec.purgeRouted_left hstate]

end Sys2Proof.Machine
end

section
/-! PROOF. The end of reset (R160, R172, R181): the lines that RCU reads there are all that it adds to the values after
reset, since an emergency stop finds nothing to stop. -/
namespace Sys2Proof.Machine

variable {s : State} {g : Gantry} {c : Clu}

/-! ### A factor that is not enabled (R178) -/

theorem Clu.attention_of_disabled (h : c.enabled = 0) : c.attention = false := by
  simp [Clu.attention, Clu.summary, h]

/-- No notice is sent and ATTN stays low where no factor is enabled; pending and argument are kept all the same. -/
theorem raise_of_disabled (f : Factor) (arg : List Byte) (h : s.clu.enabled = 0) : raise f arg s =
    { s with
      clu := { s.clu with raised := s.clu.raised ||| f.bit, args := s.clu.args.set f.number.val arg }
      pins := { s.pins with attn := false } } := by
  have hattn : (s.clu.raise f s.now arg).attention = false := Clu.attention_of_disabled h
  simp only [raise, setAttn, hattn]
  simp [Clu.raise, h]

/-! ### An emergency stop that finds nothing to stop -/

theorem stopGantry_of_idle (h : (gsq g s).state = .idle) : stopGantry g s = s := by
  unfold stopGantry
  split
  · rename_i hwait; cases h.symm.trans hwait
  · rename_i hfly _; cases h.symm.trans hfly
  · rfl

theorem foldl_voidHead_of_untested : ∀ l : List HeadIx, (∀ h ∈ l, s.hsc.heads[h].state ≠ .test) →
    l.foldl voidHead s = s
  | [], _ => rfl
  | h :: l, ht => by
    rw [List.foldl_cons, voidHead, if_neg (ht h List.mem_cons_self)]
    exact foldl_voidHead_of_untested l fun j hj => ht j (List.mem_cons_of_mem h hj)

/-- An emergency stop finds no order under way, no zone asked for, no timer counting and no test. -/
structure Standstill (s : State) : Prop where
  load : (gsq .load s).state = .idle
  unload : (gsq .unload s).state = .idle
  heads : ∀ h : HeadIx, s.hsc.heads[h].state ≠ .test
  zones : s.zar.map Zone.quiet = s.zar
  timers : s.hsc.heads.map (HeadRec.pauseAt s.now) = s.hsc.heads

theorem Standstill.onRcu (a : Standstill s) (r : Rcu) : Standstill { s with rcu := r } :=
  ⟨a.load, a.unload, a.heads, a.zones, a.timers⟩

/-- At a standstill the entry to ESTOP concerns RCU and the link alone (R165). -/
theorem enterEstop_of_standstill (a : Standstill s) : enterEstop s =
    { raise .estop [BitVec.ofNat 8 s.rcu.run.code] s with
      rcu := { s.rcu with run := .estop, causes := .none, settle := none } } := by
  have hload : stopGantry .load (estopEntered s) = estopEntered s := stopGantry_of_idle a.load
  have hunload : stopGantry .unload (estopEntered s) = estopEntered s := stopGantry_of_idle a.unload
  have huntested : ∀ h ∈ allHeads, (estopBegun s).hsc.heads[h].state ≠ .test := fun h _ => by
    rw [estopBegun_heads]; exact a.heads h
  have hquiet : estopBegun s = { estopEntered s with
      zar := s.zar.map Zone.quiet, hsc := { s.hsc with heads := s.hsc.heads.map (HeadRec.pauseAt s.now) } } := by
    rw [estopBegun, hload, hunload]; rfl
  rw [enterEstop_eq, foldl_voidHead_of_untested allHeads huntested, hquiet, a.zones, a.timers]
  rfl

/-! ### The end of reset -/

theorem resetValues_standstill (s : State) : Standstill (resetValues s) where
  load := rfl
  unload := rfl
  heads h := by simp [resetValues, State.reset, Hsc.reset, HeadRec.reset]
  zones := Vector.map_replicate
  timers := Vector.map_replicate

/-- RCU with the level of DOOR read at the end of reset (R160). -/
def rcuOf (door : Bool) : Rcu := { Rcu.reset with causes := { HoldCauses.none with door := door } }

theorem readDoor_resetValues (s : State) :
    readDoor (resetValues s) = { resetValues s with rcu := rcuOf s.pins.door } := by
  cases hdoor : s.pins.door
  · exact if_neg (ne_true_of_eq_false hdoor)
  · exact if_pos hdoor

/-- ESTOP read at the end of reset: RCU leaves HOLD for ESTOP and raises the factor, which is not enabled (R160, R165). -/
theorem enterEstop_readDoor_resetValues (s : State) : enterEstop (readDoor (resetValues s)) =
    { resetValues s with
      rcu := { Rcu.reset with run := .estop }
      clu := { (resetValues s).clu with
        raised := Factor.estop.bit, args := (resetValues s).clu.args.set 21 [1] } } := by
  have hbit : (resetValues s).clu.raised ||| Factor.estop.bit = Factor.estop.bit := BitVec.zero_or
  rw [readDoor_resetValues, enterEstop_of_standstill ((resetValues_standstill s).onRcu _),
    raise_of_disabled .estop _ rfl]
  dsimp only
  rw [hbit]
  rfl

theorem readDoor_pins (s : State) : (readDoor s).pins = s.pins := by unfold readDoor; split <;> rfl

/-- The step that ends reset leaves the values after reset with both lines read (R160, R172, R181). -/
theorem endReset_eq (rate : Bool) (s : State) : endReset rate s = afterReset s.pins.door s.pins.estop rate s := by
  rw [endReset, readLines_eq, readDoor_pins, enterEstop_readDoor_resetValues]
  rfl

/-- Settles O12: each way out of reset is `endReset`, and a power-up while RESET_N is low is none. -/
theorem endOfResetGivesResetValues : Obligations.EndOfResetGivesResetValues := by
  intro rate s
  refine ⟨fun hlow => ?_, fun hhigh => ?_, fun hlow => ?_⟩
  · rw [← endReset_eq]
    exact congrArg Host.Outcome.next (if_pos hlow)
  · rw [← endReset_eq]
    exact congrArg Host.Outcome.next (if_neg (ne_true_of_eq_false hhigh))
  · exact congrArg Host.Outcome.next (if_pos hlow)

end Sys2Proof.Machine
end

section
/-! PROOF. RESUME (R164): its checks, the pass grants and the settle timer. -/
namespace Sys2Proof.Machine

variable {s : State}

/-- RESUME has passed its checks: the grants are made, the causes cleared, and the settle timer runs (R164). -/
def resuming (s : State) : State :=
  { s with rcu := { s.rcu with
    run := .resuming, causes := .none, settle := some (s.now + BitVec.ofNat 32 s.rcu.settleDelay)
    grantLoad := s.rcu.heldLoad.or s.rcu.grantLoad, grantUnload := s.rcu.heldUnload.or s.rcu.grantUnload
    heldLoad := none, heldUnload := none } }

theorem resume_eq (s : State) :
    resume s = if s.rcu.settleDelay = 0 then returnToRun (resuming s) else resuming s := rfl

theorem not_lotActive_iff :
    (!lotActive s) = true ↔ s.ltc.state ≠ .running ∧ s.ltc.state ≠ .draining ∧ s.ltc.state ≠ .purging := by
  rw [Bool.not_eq_true', Bool.eq_false_iff, ne_eq, lotActive_iff, not_or, not_or]

theorem exec_resume_of_takesNow {tag : Byte} (h : takesNow s) :
    exec (.resume tag) s = .next (replied 0x19 tag (serveResume s).2 (serveResume s).1) :=
  exec_of_takesNow (q := .resume) rfl h rfl

/-- Settles O48: the checks of `serveResume` in their order, and then the two cases of `resume_eq`. -/
theorem resumeStartsTheSettleTimer : Obligations.ResumeStartsTheSettleTimer := by
  rintro tag s r h rfl
  rw [exec_resume_of_takesNow h, serveResume, resume_eq]
  simp only [not_lotActive_iff]
  split_ifs <;> rfl

end Sys2Proof.Machine
end

section
/-! PROOF. The law of the cell link (R175, R177, R178, R181): the bounds that every operation of the blocks keeps, what
the reply slot says of the transmitter and of RESET, and that no frame waits for a free slot; the transmitter then starts
what a free line has to send. -/
namespace Sys2Proof.Machine

variable {r s t : State}

/-! ### The law inside a step -/

/-- What the cell link keeps at every point inside a step that is taken with RESET_N high. -/
structure LinkBounds (s : State) : Prop where
  high : s.pins.resetLow = false
  queue : s.clu.rxQueue.length ≤ 4
  notices : s.clu.notices.length ≤ 16
  raised : s.clu.raised.toNat < 2 ^ 26
  enabled : s.clu.enabled.toNat < 2 ^ 26
  notice : s.clu.tx = .notice → s.clu.notices ≠ []
  attn : s.pins.attn = s.clu.attention

/-- With the slot empty no reply is being sent and no RESET waits for its reply. -/
structure LinkOpen (s : State) : Prop extends LinkBounds s where
  empty : s.clu.replySlot = none → s.clu.tx ≠ .reply ∧ s.clu.resetRequested = false

/-- With the slot empty no frame waits either: the law but for a line that may start to send. -/
structure LinkReady (s : State) : Prop extends LinkOpen s where
  waits : s.clu.replySlot = none → s.clu.rxQueue = []

theorem LinkInv.ready (i : LinkInv s) (h : s.pins.resetLow = false) : LinkReady s where
  high := h
  queue := i.queue
  notices := i.notices
  raised := i.raised
  enabled := i.enabled
  notice := i.notice
  attn := by simpa [h] using i.attn
  empty hslot := by
    have hreply := i.reply
    have hreset := i.reset
    simp_all
  waits hslot := by
    have hwaits := i.waits
    simp_all

/-- The law holds where the line, once free, has nothing to send. -/
theorem LinkReady.linkInv (i : LinkReady s)
    (hfree : s.clu.tx = .idle → s.clu.replySlot = none ∧ s.clu.notices = []) : LinkInv s where
  queue := i.queue
  notices := i.notices
  raised := i.raised
  enabled := i.enabled
  notice := i.notice
  free _ := hfree
  attn := by simpa [i.high] using i.attn
  waits hq := by
    rw [← Option.ne_none_iff_isSome]
    exact fun hslot => hq (i.waits hslot)
  reply htx := by
    rw [← Option.ne_none_iff_isSome]
    exact fun hslot => (i.empty hslot).1 htx
  reset hreset := by
    rw [← Option.ne_none_iff_isSome]
    intro hslot
    cases (i.empty hslot).2.symm.trans hreset

/-- The law reads the cell link, ATTN and the level of RESET_N alone. -/
theorem LinkInv.congr (i : LinkInv s) (hc : t.clu = s.clu := by rfl)
    (ha : t.pins.attn = s.pins.attn := by rfl) (hr : t.pins.resetLow = s.pins.resetLow := by rfl) : LinkInv t where
  queue := hc ▸ i.queue
  notices := hc ▸ i.notices
  raised := hc ▸ i.raised
  enabled := hc ▸ i.enabled
  waits := hc ▸ i.waits
  reply := hc ▸ i.reply
  notice := hc ▸ i.notice
  reset := hc ▸ i.reset
  free := by rw [hc, hr]; exact i.free
  attn := by rw [hc, ha, hr]; exact i.attn

theorem LinkBounds.congr (i : LinkBounds s) (hc : t.clu = s.clu := by rfl) (hp : t.pins = s.pins := by rfl) :
    LinkBounds t where
  high := hp ▸ i.high
  queue := hc ▸ i.queue
  notices := hc ▸ i.notices
  raised := hc ▸ i.raised
  enabled := hc ▸ i.enabled
  notice := hc ▸ i.notice
  attn := by rw [hc, hp]; exact i.attn

theorem Keeps.linkBounds (k : Keeps r s) (i : LinkBounds r) : LinkBounds s := by
  obtain ⟨-, hqueue, -, -, htx, henabled, -⟩ := k.link
  exact
    { high := k.lines.2.2.2 ▸ i.high
      queue := hqueue ▸ i.queue
      notices := k.noticeRoom i.notices
      raised := k.raisedRoom i.raised
      enabled := henabled ▸ i.enabled
      notice := fun h hnil => i.notice (htx ▸ h) (List.prefix_nil.1 (hnil ▸ k.notices))
      attn := k.attn i.attn }

theorem Keeps.linkReady (k : Keeps r s) (i : LinkReady r) : LinkReady s := by
  obtain ⟨-, hqueue, hslot, hreset, htx, -, -⟩ := k.link
  exact
    { k.linkBounds i.toLinkBounds with
      empty := by rw [hslot, htx, hreset]; exact i.empty
      waits := by rw [hslot, hqueue]; exact i.waits }

/-- A level of DOOR or ESTOP is no part of the law. -/
theorem LinkReady.onLine (i : LinkReady s) {p : Pins} (hr : p.resetLow = s.pins.resetLow := by rfl)
    (ha : p.attn = s.pins.attn := by rfl) : LinkReady { s with pins := p } :=
  { i with high := hr.trans i.high, attn := ha.trans i.attn }

/-! ### Requests -/

theorem teach_linkBounds {ranges prerequisites : Bool} {reach : List (Half × Bool)} {store : State → State}
    (i : LinkBounds s) (hc : (store s).clu = s.clu := by rfl) (hp : (store s).pins = s.pins := by rfl) :
    LinkBounds (teach ranges prerequisites reach store s).1 :=
  teach_induct i (i.congr hc hp)

theorem serveSetupAxis_linkBounds (axis : Byte) (k : Half) (lmax park : Word) (i : LinkBounds s) :
    LinkBounds (serveSetupAxis axis k lmax park s).1 := by
  unfold serveSetupAxis; split <;> exact teach_linkBounds i

theorem serveSetupSocket_linkBounds (socket : Byte) (lx ly ux uy : Word) (tx ty w : Half) (policy : Byte)
    (i : LinkBounds s) : LinkBounds (serveSetupSocket socket lx ly ux uy tx ty w policy s).1 := by
  unfold serveSetupSocket; split <;> exact teach_linkBounds i

theorem serveSetupStation_linkBounds (station : Byte) (part : StationPart) (i : LinkBounds s) :
    LinkBounds (serveSetupStation station part s).1 := by
  unfold serveSetupStation serveSetupTray serveSetupNest
  split <;> split <;> exact teach_linkBounds i

theorem serveLotOpen_linkBounds (lot : Half) (i : LinkBounds s) : LinkBounds (serveLotOpen lot s).1 := by
  unfold serveLotOpen; split <;> exact i.congr

theorem serveSetLot_linkBounds (es : List ParamArg) (i : LinkBounds s) : LinkBounds (serveSetLot es s).1 := by
  unfold serveSetLot; split_ifs <;> exact i.congr

theorem serveSetBin_linkBounds (es : List BinArg) (i : LinkBounds s) : LinkBounds (serveSetBin es s).1 := by
  unfold serveSetBin; split_ifs <;> exact i.congr

theorem serveSetCategory_linkBounds (es : List CategoryArg) (i : LinkBounds s) :
    LinkBounds (serveSetCategory es s).1 := by
  unfold serveSetCategory; split_ifs <;> exact i.congr

theorem serveLotStart_linkBounds (i : LinkBounds s) : LinkBounds (serveLotStart s).1 := by
  have hstart : LinkBounds (startLot s) := i.congr
  unfold serveLotStart
  repeat' split
  · exact i
  · exact i
  · exact (settle_keeps (headsFollow_keeps _ (.refl _))).linkBounds hstart

theorem setRunMode_linkBounds (m : RunMode) (i : LinkBounds s) : LinkBounds (setRunMode m s) := by
  have hmode : ∀ m, LinkBounds (modRcu (fun r => { r with mode := m }) s) := fun m => i.congr
  unfold setRunMode; split
  · exact (clearCredits_keeps (.refl _)).linkBounds (hmode .single)
  · exact (Keeps.foldl (fun _ _ => requestHead_keeps _) _ _ (.refl _)).linkBounds (hmode .continuous)
  · exact i

theorem serveSetMode_linkBounds (mode : Byte) (timeout delay : Half) (i : LinkBounds s) :
    LinkBounds (serveSetMode mode timeout delay s).1 := by
  have hset : LinkBounds (modRcu (fun r => { r with driveTimeout := timeout.toNat, settleDelay := delay.toNat }) s) :=
    i.congr
  unfold serveSetMode
  repeat' split
  · exact (settle_keeps (headsFollow_keeps _ (.refl _))).linkBounds (setRunMode_linkBounds _ hset)
  · exact i
  · exact i

theorem serveSetHoldpoint_linkBounds (x kind : Byte) (value : Word) (enabled : Byte) (i : LinkBounds s) :
    LinkBounds (serveSetHoldpoint x kind value enabled s).1 := by
  unfold serveSetHoldpoint
  repeat' split
  all_goals exact i.congr

theorem serveSetProtect_linkBounds (v : Byte) (i : LinkBounds s) : LinkBounds (serveSetProtect v s).1 := by
  unfold serveSetProtect; split <;> exact i.congr

/-! ### Masks of factors (R177, R179) -/

/-- The bits of a mask that name no factor are those from 26 on. -/
theorem foreignBits_getLsbD : ∀ i : Fin 32, (0xFC000000 : Word).getLsbD i.val = decide (26 ≤ i.val) := by decide

/-- A mask that names factors only lies below bit 26 (R179). -/
theorem maskOk_iff {m : Word} : maskOk m = true ↔ m.toNat < 2 ^ 26 := by
  simp only [maskOk, decide_eq_true_eq]
  constructor
  · intro h
    refine Nat.lt_pow_two_of_testBit _ fun i hi => ?_
    by_cases hlt : i < 32
    · have hbit : (m &&& 0xFC000000).getLsbD i = false := by rw [h]; simp
      rw [BitVec.getLsbD_and, foreignBits_getLsbD ⟨i, hlt⟩, decide_eq_true hi, Bool.and_true] at hbit
      exact hbit
    · exact BitVec.getLsbD_of_ge m i (not_lt.1 hlt)
  · intro h
    refine BitVec.eq_of_getLsbD_eq fun i hi => ?_
    rw [BitVec.getLsbD_and, foreignBits_getLsbD ⟨i, hi⟩]
    by_cases hle : 26 ≤ i
    · have hbit : m.getLsbD i = false :=
        Nat.testBit_lt_two_pow (lt_of_lt_of_le h (Nat.pow_le_pow_right (by decide) hle))
      simp [hbit]
    · simp [hle]

theorem maskOk_eq_false_iff {m : Word} : maskOk m = false ↔ 2 ^ 26 ≤ m.toNat := by
  rw [← Bool.not_eq_true, maskOk_iff, not_lt]

theorem clearedSet_lt (m : Word) (h : s.clu.raised.toNat < 2 ^ 26) : (clearedSet m s).toNat < 2 ^ 26 := by
  rw [clearedSet, BitVec.toNat_and]
  exact lt_of_le_of_lt Nat.and_le_left h

theorem serveNoticeEnable_linkBounds (m : Word) (i : LinkBounds s) : LinkBounds (serveNoticeEnable m s).1 := by
  unfold serveNoticeEnable; split
  · rename_i hm; exact { i with enabled := maskOk_iff.1 hm, attn := rfl }
  · exact i

theorem serveNoticeClear_linkBounds (m : Word) (i : LinkBounds s) : LinkBounds (serveNoticeClear m s).1 := by
  unfold serveNoticeClear; split_ifs
  · exact i
  · exact i
  · exact { i with raised := clearedSet_lt m i.raised, attn := rfl }

/-- Every request keeps the bounds; the mark of a RESET is set before its reply is in the slot (R182). -/
theorem serve_linkBounds (q : Request) (i : LinkBounds s) : LinkBounds (serve q s).1 := by
  cases q with
  | setupAxis => exact serveSetupAxis_linkBounds _ _ _ _ i
  | setupCamera => exact teach_linkBounds i
  | setupSocket => exact serveSetupSocket_linkBounds _ _ _ _ _ _ _ _ _ i
  | setupSoak => exact teach_linkBounds i
  | setupStation => exact serveSetupStation_linkBounds _ _ i
  | setupChute => exact teach_linkBounds i
  | lotOpen => exact serveLotOpen_linkBounds _ i
  | setLot => exact serveSetLot_linkBounds _ i
  | setBin => exact serveSetBin_linkBounds _ i
  | setCategory => exact serveSetCategory_linkBounds _ i
  | lotStart => exact serveLotStart_linkBounds i
  | setMode => exact serveSetMode_linkBounds _ _ _ i
  | setHoldpoint => exact serveSetHoldpoint_linkBounds _ _ _ _ i
  | setProtect => exact serveSetProtect_linkBounds _ i
  | noticeEnable => exact serveNoticeEnable_linkBounds _ i
  | noticeClear => exact serveNoticeClear_linkBounds _ i
  | reset => exact { i with }
  | _ => exact (serve_keeps _ rfl (.refl s)).linkBounds i

/-! ### Receive queue and reply slot (R175) -/

/-- A reply in the slot makes good what the slot says of the transmitter, of RESET and of the frames that wait. -/
theorem putReply_linkReady (kind tag : Byte) (p : List Byte) (i : LinkBounds s) : LinkReady (putReply kind tag p s) :=
  { i with empty := nofun, waits := nofun }

theorem takeRequest_linkReady (tag : Byte) (q : Request) (i : LinkBounds s) : LinkReady (takeRequest tag q s) :=
  putReply_linkReady _ _ _ (serve_linkBounds q i)

theorem takeFrame_linkReady (f : Frame) (i : LinkBounds s) : LinkReady (takeFrame f s) := by
  unfold takeFrame; split
  · exact putReply_linkReady _ _ _ i
  · exact putReply_linkReady _ _ _ i
  · exact takeRequest_linkReady _ _ i

theorem pump_linkReady (i : LinkOpen s) : LinkReady (pump s) := by
  unfold pump
  split
  · rename_i f fs hslot hqueue
    have hlength : fs.length ≤ 4 := by have := i.queue; rw [hqueue, List.length_cons] at this; omega
    exact takeFrame_linkReady f { i.toLinkBounds with queue := hlength }
  · rename_i hnone
    refine { i with waits := fun hslot => ?_ }
    by_contra hne
    obtain ⟨f, fs, hqueue⟩ := List.exists_cons_of_ne_nil hne
    exact hnone f fs hslot hqueue

/-- The queue takes a frame where fewer than 4 wait. -/
theorem joinQueue_linkOpen (f : Frame) (i : LinkOpen s) : LinkOpen (joinQueue f s) := by
  unfold joinQueue; split
  · rename_i hroom
    exact { i with queue := by rw [modClu_clu, List.length_append, List.length_singleton]; omega }
  · exact i

theorem receive_linkReady (f : Frame) (i : LinkReady s) : LinkReady (receive s f) :=
  pump_linkReady (joinQueue_linkOpen f i.toLinkOpen)

theorem foldl_receive_linkReady : ∀ (fs : List Frame) (s : State), LinkReady s → LinkReady (fs.foldl receive s)
  | [], _, i => i
  | f :: fs, s, i => foldl_receive_linkReady fs (receive s f) (receive_linkReady f i)

theorem cellBytes_linkReady (bytes : List Byte) (i : LinkReady s) : LinkReady (cellBytes bytes s) :=
  foldl_receive_linkReady _ _ { i with }

theorem submit_linkReady (tag : Byte) (q : Request) (i : LinkReady s) : LinkReady (submit tag q s) := by
  unfold submit; split_ifs
  · exact takeRequest_linkReady _ _ i.toLinkBounds
  · exact putReply_linkReady _ _ _ i.toLinkBounds
  · exact receive_linkReady _ i

/-! ### The transmitter (R175, R178, R182) -/

/-- The transmitter leaves no free line with something to send. -/
theorem startTx_linkInv (i : LinkReady s) : LinkInv (startTx s) := by
  unfold startTx; split_ifs with hbusy hslot hnotice
  · exact i.linkInv fun hidle => absurd hidle hbusy
  · refine LinkReady.linkInv { i with notice := nofun, empty := fun hnone => ?_ } nofun
    rw [modClu_clu] at hnone
    cases (Option.isSome_iff_ne_none.1 hslot) hnone
  · exact LinkReady.linkInv { i with
      notice := fun _ => hnotice.1, empty := fun hnone => ⟨nofun, (i.empty hnone).2⟩ } nofun
  · have hnone : s.clu.replySlot = none := Option.not_isSome_iff_eq_none.1 hslot
    refine i.linkInv fun _ => ⟨hnone, ?_⟩
    by_contra hne
    exact hnotice ⟨hne, (i.empty hnone).2⟩

theorem noticeDone_linkReady (i : LinkReady s) : LinkReady (noticeDone s) := by
  unfold noticeDone; split
  · exact i
  · have hlength : (s.clu.notices.drop 1).length ≤ 16 := by
      have := i.notices; rw [List.length_drop]; omega
    exact { i with
      notices := hlength, notice := nofun, empty := fun hnone => ⟨nofun, (i.empty hnone).2⟩ }

/-! ### Reset (R160, R181, R182) -/

/-- A link with no frame in it, no RESET and no factor enabled meets the law. -/
theorem linkInv_of_quiet (hqueue : s.clu.rxQueue = []) (hslot : s.clu.replySlot = none)
    (hreset : s.clu.resetRequested = false) (htx : s.clu.tx = .idle) (hnotices : s.clu.notices = [])
    (henabled : s.clu.enabled = 0) (hraised : s.clu.raised.toNat < 2 ^ 26) (hattn : s.pins.attn = false) :
    LinkInv s where
  queue := by simp [hqueue]
  notices := by simp [hnotices]
  raised := hraised
  enabled := by simp [henabled]
  waits h := absurd hqueue h
  reply h := nomatch htx.symm.trans h
  notice h := nomatch htx.symm.trans h
  reset h := nomatch hreset.symm.trans h
  free _ _ := ⟨hslot, hnotices⟩
  attn := by rw [hattn, Clu.attention_of_disabled henabled, Bool.and_false]

/-- After reset no frame is there, and at most ESTOP is pending, which is not enabled. -/
theorem afterReset_linkInv (door estop rate : Bool) (s : State) : LinkInv (afterReset door estop rate s) := by
  cases estop with
  | true => exact linkInv_of_quiet rfl rfl rfl rfl rfl rfl Factor.estop.bit_lt rfl
  | false =>
    have hclear : (0 : BitVec 32).toNat < 2 ^ 26 := by decide
    cases door <;> exact linkInv_of_quiet rfl rfl rfl rfl rfl rfl hclear rfl

theorem endReset_linkInv (rate : Bool) (s : State) : LinkInv (endReset rate s) := by
  rw [endReset_eq]; exact afterReset_linkInv _ _ _ _

theorem endReset_resetLow (rate : Bool) (s : State) : (endReset rate s).pins.resetLow = false :=
  (readLines_keeps rfl).lines.2.2.2

/-- While RESET_N is low every output is low and nothing is being sent. -/
theorem LinkInv.holdReset (i : LinkInv s) : LinkInv (holdReset s) :=
  { i with reply := nofun, notice := nofun, free := nofun, attn := rfl }

theorem replyDone_linkReady (i : LinkReady s) : LinkReady (replyDone s) := by
  unfold replyDone; split_ifs with hbusy hreset
  · exact i
  · exact (endReset_linkInv _ _).ready (endReset_resetLow _ _)
  · exact pump_linkReady { i with
      notice := nofun, empty := fun _ => ⟨nofun, Bool.eq_false_of_not_eq_true hreset⟩ }

/-! ### Lines and expiries -/

theorem gapTimeout_linkReady (l : Link) (i : LinkReady s) : LinkReady (gapTimeout l s) := by
  cases l with
  | cell => exact { i with }
  | drive g => exact (modGsq_keeps g (fun q => { q with rx := q.rx.gap s.now }) (.refl s)).linkReady i

theorem doorOpens_linkReady (i : LinkReady s) : LinkReady (doorOpens s) := by
  unfold doorOpens; split
  · exact i
  · exact (holdWith_keeps _ (.refl _)).linkReady i.onLine

theorem doorCloses_linkReady (i : LinkReady s) : LinkReady (doorCloses s) := by
  unfold doorCloses; dsimp only; split
  · rename_i hrun; exact (Keeps.onCauses _ hrun).linkReady i.onLine
  · exact i.onLine

theorem estopOn_linkReady (i : LinkReady s) : LinkReady (estopOn s) := by
  unfold estopOn; dsimp only; split_ifs
  · exact i
  · exact (raise_keeps _ _ (.refl _)).linkReady i.onLine
  · exact (enterEstop_keeps (.refl _)).linkReady i.onLine

/-! ### Commands and steps -/

/-- What RESET_N lets through: an operation after which the transmitter follows. -/
theorem live_linkInv {f : State → State} (hf : LinkReady s → LinkReady (f s)) (i : LinkInv s) : LinkInv (live f s) := by
  unfold live
  cases hr : s.pins.resetLow with
  | true => exact i
  | false => exact startTx_linkInv (hf (i.ready hr))

/-- An operation of the blocks is one that RESET_N may let through. -/
theorem live_linkInv_of_keeps {f : State → State} (hf : Keeps s (f s)) (i : LinkInv s) : LinkInv (live f s) :=
  live_linkInv hf.linkReady i

/-- An event on a line of the board: its level is followed while RESET_N is low (R181). -/
theorem line_linkInv {low high : State} (hlow : LinkInv low) (hhigh : LinkReady s → LinkReady high) (i : LinkInv s) :
    LinkInv (if s.pins.resetLow then low else startTx high) := by
  cases hr : s.pins.resetLow with
  | true => exact hlow
  | false => exact startTx_linkInv (hhigh (i.ready hr))

/-- The commands that are no requests, one by one. -/
theorem event_linkInv {c : Instr} (hc : requestOf c = none) (i : LinkInv s) (e : exec c s = .next t) : LinkInv t := by
  cases c with
  | cellFrameReceived bytes => cases e; exact live_linkInv (cellBytes_linkReady bytes) i
  | unknownKind => cases e; exact live_linkInv (receive_linkReady _) i
  | replySent => cases e; exact live_linkInv replyDone_linkReady i
  | noticeSent => cases e; exact live_linkInv noticeDone_linkReady i
  | done g bytes => cases e; exact live_linkInv_of_keeps (driveBytes_keeps g bytes (.refl s)) i
  | driveReplyTimerExpiry g =>
    cases e; exact live_linkInv_of_keeps (whenDue_keeps fun _ => driveTimeout_keeps g (.refl s)) i
  | settleTimerExpiry => cases e; exact live_linkInv_of_keeps (settleEvent_keeps s) i
  | fillTimerExpiry h => cases e; exact live_linkInv_of_keeps (whenDue_keeps fun _ => fillExpiry_keeps h (.refl s)) i
  | testTimerExpiry h => cases e; exact live_linkInv_of_keeps (whenDue_keeps fun _ => testExpiry_keeps h (.refl s)) i
  | soakExpiry u => cases e; exact live_linkInv_of_keeps (whenDue_keeps fun _ => soakExpiry_keeps u (.refl s)) i
  | stagingTimerExpiry => cases e; exact live_linkInv_of_keeps (whenDue_keeps fun _ => stagingExpiry_keeps (.refl s)) i
  | eot h lines => cases e; exact live_linkInv_of_keeps (eotEdge_keeps h lines (.refl s)) i
  | doorActive => cases e; exact line_linkInv i.congr doorOpens_linkReady i
  | doorInactive => cases e; exact line_linkInv i.congr doorCloses_linkReady i
  | estopActive => cases e; exact line_linkInv i.congr estopOn_linkReady i
  | estopInactive => cases e; exact line_linkInv i.congr (fun i => i.onLine) i
  | resetNLow => cases e; exact i.holdReset
  | resetNRelease rate =>
    cases e; unfold releaseReset; split
    · exact endReset_linkInv rate s
    · exact i
  | powerUp rate =>
    cases e; unfold completePowerUp; split
    · exact i
    · exact endReset_linkInv rate s
  | byteGapTimeout l =>
    cases e
    refine live_linkInv (fun i => ?_) i
    unfold whenDue; split
    · exact gapTimeout_linkReady l i
    · exact i
  | _ => cases hc

theorem exec_linkInv (c : Instr) (i : LinkInv s) (e : exec c s = .next t) : LinkInv t := by
  cases hc : requestOf c with
  | none => exact event_linkInv hc i e
  | some x =>
    rw [exec_of_requestOf hc] at e
    cases e
    exact live_linkInv (submit_linkReady x.1 x.2) i

theorem idle_linkInv (i : LinkInv s) : LinkInv (idle s) := by
  cases hr : s.pins.resetLow with
  | true => rw [idle_of_reset_low hr]; exact i
  | false =>
    cases hd : dueEvents s with
    | nil => rw [idle_of_nothing_due hr hd]; exact i.congr
    | cons e es =>
      obtain ⟨c, -, n, hpick⟩ := pickEvent_spec e es s
      rw [idle_of_due hr hd, hpick]
      exact i.congr

/-- Settles O10: `LinkReady` through the blocks, the requests and the events where RESET_N is high, to which the
transmitter adds what a free line says, and the reset. -/
theorem stepKeepsTheCellLink : Obligations.StepKeepsTheCellLink := by
  intro s t i e
  cases hq : s.pending with
  | nil =>
    rw [step_of_no_command hq] at e
    cases e
    exact idle_linkInv i
  | cons c cs =>
    have hexec : step s = exec c { s with pending := cs } := by simp [step, hq]
    exact exec_linkInv c (s := { s with pending := cs }) i.congr (hexec ▸ e)

end Sys2Proof.Machine
end

section
/-! PROOF. Requests and bytes: every payload of Table 11-6 is read back as its request, field by field (R173, R175,
R176), and the kinds that a frame may carry (Table 11-3). -/
namespace Sys2Proof.Machine

/-! ### Fields of a payload (R172, R176) -/

section Fields
variable (a b : Byte) (p : List Byte) (n : Nat)

@[simp] theorem rd8_cons_zero : rd8 (b :: p) 0 = b := rfl

@[simp] theorem rd8_cons_succ : rd8 (b :: p) (n + 1) = rd8 p n := rfl

@[simp] theorem rd16_cons_succ : rd16 (b :: p) (n + 1) = rd16 p n := rfl

@[simp] theorem rd32_cons_succ : rd32 (b :: p) (n + 1) = rd32 p n := rfl

@[simp] theorem rd16_be16 (w : Half) : rd16 (be16 w ++ p) 0 = w := be16_join w

@[simp] theorem rd32_be32 (w : Word) : rd32 (be32 w ++ p) 0 = w := by
  change (w.extractLsb' 24 8 ++ w.extractLsb' 16 8) ++ (w.extractLsb' 8 8 ++ w.extractLsb' 0 8) = w
  rw [BitVec.extractLsb'_append_extractLsb'_eq_extractLsb' (by decide),
    BitVec.extractLsb'_append_extractLsb'_eq_extractLsb' (by decide),
    BitVec.extractLsb'_append_extractLsb'_eq_extractLsb' (by decide)]
  simp

@[simp] theorem rd8_be16_append (w : Half) : rd8 (be16 w ++ p) (n + 2) = rd8 p n := rfl

@[simp] theorem rd16_be16_append (w : Half) : rd16 (be16 w ++ p) (n + 2) = rd16 p n := rfl

@[simp] theorem rd32_be16_append (w : Half) : rd32 (be16 w ++ p) (n + 2) = rd32 p n := rfl

@[simp] theorem rd8_be32_append (w : Word) : rd8 (be32 w ++ p) (n + 4) = rd8 p n := rfl

@[simp] theorem rd16_be32_append (w : Word) : rd16 (be32 w ++ p) (n + 4) = rd16 p n := rfl

@[simp] theorem rd32_be32_append (w : Word) : rd32 (be32 w ++ p) (n + 4) = rd32 p n := rfl

@[simp] theorem be16_length (w : Half) : (be16 w).length = 2 := rfl

@[simp] theorem be32_length (w : Word) : (be32 w).length = 4 := rfl

end Fields

/-- A field at the end of a payload. -/
theorem rd16_be16_end (w : Half) : rd16 (be16 w) 0 = w := be16_join w

theorem rd32_be32_end (w : Word) : rd32 (be32 w) 0 = w := by simpa using rd32_be32 [] w

/-- A number below 256 is the value of its byte. -/
theorem toNat_byte {n : Nat} (h : n < 256) : (BitVec.ofNat 8 n).toNat = n := by
  rw [BitVec.toNat_ofNat]; exact Nat.mod_eq_of_lt h

/-! ### Lists of entries (Table 11-6) -/

theorem rdParams_flatMap : ∀ es : List ParamArg, rdParams es.length (es.flatMap ParamArg.bytes) = es
  | [] => rfl
  | e :: es => by
    have hrest : (e.bytes ++ es.flatMap ParamArg.bytes).drop 5 = es.flatMap ParamArg.bytes := rfl
    rw [List.flatMap_cons, List.length_cons, rdParams, hrest, rdParams_flatMap es]
    simp [ParamArg.bytes]

theorem rdBins_flatMap : ∀ es : List BinArg, rdBins es.length (es.flatMap BinArg.bytes) = es
  | [] => rfl
  | e :: es => by
    have hrest : (e.bytes ++ es.flatMap BinArg.bytes).drop 5 = es.flatMap BinArg.bytes := rfl
    rw [List.flatMap_cons, List.length_cons, rdBins, hrest, rdBins_flatMap es]
    rfl

theorem rdCategories_flatMap : ∀ es : List CategoryArg,
    rdCategories es.length (es.flatMap CategoryArg.bytes) = es
  | [] => rfl
  | e :: es => by
    have hrest : (e.bytes ++ es.flatMap CategoryArg.bytes).drop 2 = es.flatMap CategoryArg.bytes := rfl
    rw [List.flatMap_cons, List.length_cons, rdCategories, hrest, rdCategories_flatMap es]
    rfl

theorem length_flatMap_of_const {α : Type} {f : α → List Byte} {n : Nat} (hf : ∀ e, (f e).length = n) (es : List α) :
    (es.flatMap f).length = n * es.length := by
  simp [List.length_flatMap, hf, Nat.mul_comm]

/-- A list of one to 255 entries has the length that its count byte gives. -/
theorem ofList_of_entries {α : Type} {f : α → List Byte} {n : Nat} {es : List α} {r : Request}
    (hf : ∀ e, (f e).length = n) (hlow : 1 ≤ es.length) (hhigh : es.length ≤ 255) :
    ofList n (BitVec.ofNat 8 es.length :: es.flatMap f) r = .request r := by
  have hcount : (BitVec.ofNat 8 es.length).toNat = es.length := toNat_byte (by omega)
  refine if_pos ⟨fun hzero => ?_, ?_⟩
  · rw [rd8_cons_zero] at hzero
    rw [hzero] at hcount
    simp at hcount
    omega
  · rw [rd8_cons_zero, hcount, List.length_cons, length_flatMap_of_const hf, Nat.add_comm]

/-! ### Requests read back -/

theorem vector_of_four {α : Type} (v : Vector α 4) : #v[v[0], v[1], v[2], v[3]] = v := by
  ext i hi
  interval_cases i <;> rfl

theorem judgeStation_payload (station : Byte) {part : StationPart} (h : part.wf = true) :
    judgeStation (station :: part.bytes) = .request (.setupStation station part) := by
  cases part with
  | tray rows columns grid => simp [judgeStation, StationPart.bytes, GridArg.bytes, ofLength, rdGrid, rd32_be32_end]
  | other part x y =>
    have hpart : rd8 (station :: part :: (be32 x ++ be32 y)) 1 ≠ 0 := by simpa [StationPart.wf] using h
    rw [judgeStation, StationPart.bytes, if_neg (by simp), if_neg hpart]
    simp [ofLength, rd32_be32_end]

theorem judge_payload {r : Request} (h : r.wf = true) : judge r.kind r.payload = .request r := by
  cases r with
  | setLot es =>
    obtain ⟨hlow, hhigh⟩ : 1 ≤ es.length ∧ es.length ≤ 47 := by simpa [Request.wf] using h
    have hcount : (BitVec.ofNat 8 es.length).toNat = es.length := toNat_byte (by omega)
    have hread := ofList_of_entries (f := ParamArg.bytes) (n := 5) (r := .setLot es) (fun _ => rfl) hlow (by omega)
    simpa [judge, Request.kind, Request.payload, hcount, rdParams_flatMap] using hread
  | setBin es =>
    obtain ⟨hlow, hhigh⟩ : 1 ≤ es.length ∧ es.length ≤ 47 := by simpa [Request.wf] using h
    have hcount : (BitVec.ofNat 8 es.length).toNat = es.length := toNat_byte (by omega)
    have hread := ofList_of_entries (f := BinArg.bytes) (n := 5) (r := .setBin es) (fun _ => rfl) hlow (by omega)
    simpa [judge, Request.kind, Request.payload, hcount, rdBins_flatMap] using hread
  | setCategory es =>
    obtain ⟨hlow, hhigh⟩ : 1 ≤ es.length ∧ es.length ≤ 119 := by simpa [Request.wf] using h
    have hcount : (BitVec.ofNat 8 es.length).toNat = es.length := toNat_byte (by omega)
    have hread := ofList_of_entries (f := CategoryArg.bytes) (n := 2) (r := .setCategory es) (fun _ => rfl) hlow
      (by omega)
    simpa [judge, Request.kind, Request.payload, hcount, rdCategories_flatMap] using hread
  | setupStation station part => exact judgeStation_payload station h
  | setupCamera scale x y trims =>
    simp only [judge, Request.kind, Request.payload, ofLength, TrimArg.bytes, rdTrims]
    simp [rd16_be16_end]
    exact congrArg Vector.toArray (vector_of_four trims)
  | _ => simp [judge, Request.kind, Request.payload, ofLength, GridArg.bytes, rdGrid, rd16_be16_end, rd32_be32_end]

theorem stationPart_bytes_length_le (part : StationPart) : part.bytes.length ≤ 19 := by
  cases part <;> simp [StationPart.bytes, GridArg.bytes]

theorem payload_length_le {r : Request} (h : r.wf = true) : r.payload.length ≤ 240 := by
  cases r with
  | setLot es =>
    have hes : es.length ≤ 47 := (show 1 ≤ es.length ∧ es.length ≤ 47 by simpa [Request.wf] using h).2
    rw [Request.payload, List.length_cons, length_flatMap_of_const (n := 5) fun _ => rfl]
    omega
  | setBin es =>
    have hes : es.length ≤ 47 := (show 1 ≤ es.length ∧ es.length ≤ 47 by simpa [Request.wf] using h).2
    rw [Request.payload, List.length_cons, length_flatMap_of_const (n := 5) fun _ => rfl]
    omega
  | setCategory es =>
    have hes : es.length ≤ 119 := (show 1 ≤ es.length ∧ es.length ≤ 119 by simpa [Request.wf] using h).2
    rw [Request.payload, List.length_cons, length_flatMap_of_const (n := 2) fun _ => rfl]
    omega
  | setupStation station part =>
    have hpart := stationPart_bytes_length_le part
    rw [Request.payload, List.length_cons]
    omega
  | _ => simp [Request.payload, GridArg.bytes, TrimArg.bytes]

/-- Settles O4: the fields are read back one by one, and the lists entry by entry. -/
theorem requestPayloadsAreReadBack : Obligations.RequestPayloadsAreReadBack :=
  fun _ h => ⟨judge_payload h, payload_length_le h⟩

end Sys2Proof.Machine
end

section
/-! PROOF. The receiver of the cell link, byte by byte (R173). -/
namespace Sys2Proof.Machine

variable {f : Frame} {buf : List Byte}

/-- Bytes that complete no frame leave the rest to the receiver as they left it. -/
theorem rxBytes_append : ∀ {buf buf' : List Byte} (a b : List Byte), rxBytes buf a = (buf', []) →
    rxBytes buf (a ++ b) = rxBytes buf' b
  | _, _, [], _, h => by cases h; rfl
  | buf, buf', x :: a, b, h => by
    rw [List.cons_append, rxBytes]
    rw [rxBytes] at h
    split at h
    · exact rxBytes_append a b h
    · cases congrArg Prod.snd h

/-- Inside a frame each byte joins the frame as data. -/
theorem rxByte_of_ne_nil (h : buf ≠ []) (b : Byte) : rxByte buf b = closeFrame (buf ++ [b]) := by
  obtain ⟨c, cs, rfl⟩ := List.exists_cons_of_ne_nil h; rfl

/-- Bytes inside a frame, short of its end, are kept as they come. -/
theorem rxBytes_of_open (hf : f.payload.length ≤ 240) : ∀ (bytes buf : List Byte), buf ≠ [] →
    buf ++ bytes <+: f.bytes → (buf ++ bytes).length < f.bytes.length → rxBytes buf bytes = (buf ++ bytes, [])
  | [], buf, _, _, _ => by rw [List.append_nil]; rfl
  | b :: bytes, buf, hne, hpre, hlt => by
    rw [List.append_cons] at hpre hlt ⊢
    have hopen : closeFrame (buf ++ [b]) = (buf ++ [b], none) :=
      closeFrame_of_prefix hf ((List.prefix_append _ _).trans hpre)
        (lt_of_le_of_lt (List.prefix_append _ _).length_le hlt)
    rw [rxBytes, rxByte_of_ne_nil hne, hopen]
    exact rxBytes_of_open hf bytes (buf ++ [b]) (by simp) hpre hlt

/-- A hunting receiver keeps the front part of a frame. -/
theorem rxBytes_of_prefix (hf : f.payload.length ≤ 240) {bytes : List Byte} (hpre : bytes <+: f.bytes)
    (hlt : bytes.length < f.bytes.length) : rxBytes [] bytes = (bytes, []) := by
  cases bytes with
  | nil => rfl
  | cons b bytes =>
    obtain rfl : b = 0xA5 := (List.cons_prefix_cons.1 hpre).1
    exact rxBytes_of_open hf bytes [0xA5] (by simp) hpre hlt

/-! ### A wrong check -/

/-- The frame with another check in place of its own (Table 11-1). -/
def Frame.bytesWith (f : Frame) (check : Half) : List Byte := 0xA5 :: (f.body ++ be16 check)

theorem Frame.head_prefix (f : Frame) : 0xA5 :: f.body <+: f.bytes := List.prefix_append (0xA5 :: f.body) _

theorem Frame.bytesWith_length (f : Frame) (check : Half) : (f.bytesWith check).length = f.payload.length + 7 := by
  simp [Frame.bytesWith, Frame.body_length]

/-- The stated length is read from the front part that the frame's head makes. -/
theorem statedLength_of_head (hf : f.payload.length ≤ 240) (hpre : 0xA5 :: f.body <+: buf) :
    statedLength buf = f.payload.length := by
  have hhead : statedLength (0xA5 :: f.body) = f.payload.length :=
    statedLength_of_prefix hf f.head_prefix (by rw [List.length_cons, f.body_length]; omega)
  have hlen : 4 < (0xA5 :: f.body).length := by rw [List.length_cons, f.body_length]; omega
  rw [← hhead, statedLength, statedLength, rd16, rd16, rd8_of_prefix hpre (by omega), rd8_of_prefix hpre (by omega)]

theorem rd16_append_be16 : ∀ (p : List Byte) (w : Half), rd16 (p ++ be16 w) p.length = w
  | [], w => rd16_be16_end w
  | b :: p, w => by rw [List.cons_append, List.length_cons, rd16_cons_succ, rd16_append_be16 p w]

/-- The last byte of a frame with a wrong check discards it. -/
theorem closeFrame_of_wrong_check (hf : f.payload.length ≤ 240) {check : Half} (hc : check ≠ crc16 f.body) :
    closeFrame (f.bytesWith check) = ([], none) := by
  have hlength := f.bytesWith_length check
  have hstated : statedLength (f.bytesWith check) = f.payload.length :=
    statedLength_of_head hf (List.prefix_append (0xA5 :: f.body) _)
  have hbody : ((f.bytesWith check).drop 1).take (f.payload.length + 4) = f.body := by
    rw [← f.body_length]; exact List.take_left
  have hcheck : rd16 (f.bytesWith check) (f.payload.length + 5) = check := by
    have := rd16_append_be16 (0xA5 :: f.body) check
    rwa [List.length_cons, f.body_length] at this
  rw [closeFrame, if_neg (by omega), if_pos (by omega), hstated]
  simp only [hbody, hcheck, if_neg hc]

theorem rxBytes_of_wrong_check (hf : f.payload.length ≤ 240) {check : Half} (hc : check ≠ crc16 f.body) :
    rxBytes [] (f.bytesWith check) = ([], []) := by
  have hhead : rxBytes [] (0xA5 :: f.body) = (0xA5 :: f.body, []) :=
    rxBytes_of_prefix hf f.head_prefix (by rw [f.bytes_length, List.length_cons, f.body_length]; omega)
  have hopen : closeFrame (0xA5 :: f.body ++ [check.extractLsb' 8 8])
      = (0xA5 :: f.body ++ [check.extractLsb' 8 8], none) := by
    have hstated := statedLength_of_head hf (List.prefix_append (0xA5 :: f.body) [check.extractLsb' 8 8])
    have hlength : (0xA5 :: f.body ++ [check.extractLsb' 8 8]).length = f.payload.length + 6 := by
      simp [f.body_length]
    rw [closeFrame, if_neg (by omega), if_neg (by omega)]
  have hlast : 0xA5 :: f.body ++ [check.extractLsb' 8 8] ++ [check.extractLsb' 0 8] = f.bytesWith check := by
    simp [Frame.bytesWith, be16]
  rw [Frame.bytesWith, ← List.cons_append, rxBytes_append _ _ hhead, be16, rxBytes, rxByte_of_ne_nil (by simp), hopen]
  simp only [rxBytes]
  rw [rxByte_of_ne_nil (by simp), hlast, closeFrame_of_wrong_check hf hc]

/-- Settles O5, clause by clause: hunting, the stated length, the whole frame, its check, its front part and the byte
gap. -/
theorem receiverFollowsTheFrameRule : Obligations.ReceiverFollowsTheFrameRule := by
  refine ⟨fun b => rfl, fun l m h => ?_, fun f hf => rxBytes_frame hf,
    fun f check hf hc => rxBytes_of_wrong_check hf hc, fun f n hf hn => ?_, fun rx now bytes hne => ?_⟩
  · have hclose : closeFrame [0xA5, l, m] = ([], none) := if_pos ⟨rfl, h⟩
    have hbyte : rxByte [0xA5, l] m = ([], none) := hclose
    rw [rxBytes, hbyte]
    rfl
  · exact rxBytes_of_prefix hf (List.take_prefix n _) (by rw [List.length_take]; omega)
  · simp only [LinkRx.take, LinkRx.gapPassed, decide_eq_true_eq, if_neg hne]
    split <;> rfl

end Sys2Proof.Machine
end

section
/-! PROOF. Complete frames at the cell link: the queue, the taking of a frame, what is refused by kind and length, and
the end of sending (R173, R175, R178). -/
namespace Sys2Proof.Machine

variable {s : State} {tag : Byte} {r : Request} {f : Frame}

/-! ### Judgement by kind and length (R175) -/

theorem ofLength_ne_unknownKind (n : Nat) (p : List Byte) (r : Request) : ofLength n p r ≠ .unknownKind := by
  unfold ofLength; split <;> nofun

theorem ofList_ne_unknownKind (n : Nat) (p : List Byte) (r : Request) : ofList n p r ≠ .unknownKind := by
  unfold ofList; split <;> nofun

theorem judgeStation_ne_unknownKind (p : List Byte) : judgeStation p ≠ .unknownKind := by
  unfold judgeStation
  repeat' split
  · nofun
  · exact ofLength_ne_unknownKind _ _ _
  · exact ofLength_ne_unknownKind _ _ _

/-- Every kind of Table 11-3 is judged by its length, and no other kind is known. -/
theorem judge_eq_unknownKind_iff (kind : Byte) (p : List Byte) : judge kind p = .unknownKind ↔
    kind.toNat ∉ [1, 2, 3, 4, 5, 6, 8, 9, 10, 11, 12, 13, 14, 16, 17, 18, 19, 20, 21, 22, 24, 25, 26, 27, 28, 29, 30,
      31, 32, 33, 34, 35, 36, 37, 38, 40, 41, 47] := by
  unfold judge
  split
  case h_39 => simp_all
  all_goals
    rename_i hkind
    simp [hkind, ofLength_ne_unknownKind, ofList_ne_unknownKind, judgeStation_ne_unknownKind]

/-! ### The queue and the slot (R175) -/

/-- The cell link with other frames waiting. -/
def withQueue (fs : List Frame) (s : State) : State := { s with clu := { s.clu with rxQueue := fs } }

theorem withQueue_self {fs : List Frame} (h : s.clu.rxQueue = fs) : withQueue fs s = s := by subst h; rfl

theorem joinQueue_eq (f : Frame) (s : State) :
    joinQueue f s = if s.clu.rxQueue.length < 4 then withQueue (s.clu.rxQueue ++ [f]) s else s := rfl

theorem pump_of_reply (h : s.clu.replySlot ≠ none) : pump s = s := by
  unfold pump; split
  · contradiction
  · rfl

theorem pump_of_waiting {fs : List Frame} (hslot : s.clu.replySlot = none) (hqueue : s.clu.rxQueue = f :: fs) :
    pump s = takeFrame f (withQueue fs s) := by
  rw [pump, hslot, hqueue]; rfl

theorem pump_of_nothing_waiting (hqueue : s.clu.rxQueue = []) : pump s = s := by
  unfold pump; split
  · rename_i hcons; cases hqueue.symm.trans hcons
  · rfl

/-- While a reply stands in the slot a frame joins the queue or is discarded. -/
theorem receive_of_reply (h : s.clu.replySlot ≠ none) (f : Frame) :
    receive s f = if s.clu.rxQueue.length < 4 then withQueue (s.clu.rxQueue ++ [f]) s else s := by
  have hslot : (joinQueue f s).clu.replySlot ≠ none := by rw [joinQueue_eq]; split <;> exact h
  exact (pump_of_reply hslot).trans (joinQueue_eq f s)

/-- With the slot empty and no frame waiting a frame is taken at once. -/
theorem receive_of_empty (hslot : s.clu.replySlot = none) (hqueue : s.clu.rxQueue = []) (f : Frame) :
    receive s f = takeFrame f s := by
  have hjoined : joinQueue f s = withQueue [f] s := by rw [joinQueue_eq, hqueue]; rfl
  calc receive s f = pump (withQueue [f] s) := congrArg pump hjoined
    _ = takeFrame f (withQueue [] s) := pump_of_waiting (s := withQueue [f] s) hslot rfl
    _ = takeFrame f s := congrArg (takeFrame f) (withQueue_self hqueue)

theorem takeFrame_of_request (h : judge f.kind f.payload = .request r) : takeFrame f s = takeRequest f.tag r s := by
  simp only [takeFrame, h]

theorem takeFrame_of_unknownKind (h : judge f.kind f.payload = .unknownKind) :
    takeFrame f s = putReply f.kind f.tag [1] s := by
  simp only [takeFrame, h]; rfl

theorem takeFrame_of_badLength (h : judge f.kind f.payload = .badLength) :
    takeFrame f s = putReply f.kind f.tag [2] s := by
  simp only [takeFrame, h]; rfl

/-- A request joins the queue while a reply stands in the slot. -/
theorem submit_of_reply (h : s.clu.replySlot ≠ none) :
    submit tag r s = receive s { kind := r.kind, tag := tag, payload := r.payload } := if_neg fun h' => h h'.1

theorem submit_of_empty (hslot : s.clu.replySlot = none) (hqueue : s.clu.rxQueue = []) (hw : r.wf = true) :
    submit tag r s = takeRequest tag r s := by rw [submit, if_pos ⟨hslot, hqueue⟩, if_pos hw]

/-- A list without an entry is refused (R175). -/
theorem submit_of_ill_formed (hslot : s.clu.replySlot = none) (hqueue : s.clu.rxQueue = []) (hw : r.wf = false) :
    submit tag r s = putReply r.kind tag [2] s := by
  rw [submit, if_pos ⟨hslot, hqueue⟩, if_neg (by simp [hw])]; rfl

/-! ### The bytes of a frame (R173) -/

theorem requestOf_rowOf (tag : Byte) (r : Request) : requestOf (rowOf tag r) = some (tag, r) := by cases r <;> rfl

theorem exec_rowOf (h : s.pins.resetLow = false) (tag : Byte) (r : Request) :
    exec (rowOf tag r) s = .next (startTx (submit tag r s)) := by
  rw [exec_of_requestOf (requestOf_rowOf tag r), next_live h]

/-- A hunting receiver takes the bytes of a frame as that frame. -/
theorem exec_cellFrame (h : s.pins.resetLow = false) (hrx : s.clu.rx.buf = []) (hf : f.payload.length ≤ 240) :
    exec (.cellFrameReceived f.bytes) s = .next (startTx (receive (hunted s) f)) := by
  have hbytes : cellBytes f.bytes s = receive (hunted s) f := by
    simp only [cellBytes, LinkRx.take_frame s.now hrx hf, List.foldl_cons, List.foldl_nil]; rfl
  have hexec : exec (.cellFrameReceived f.bytes) s = .next (live (cellBytes f.bytes) s) := rfl
  rw [hexec, next_live h, hbytes]

theorem exec_unknownKind (h : s.pins.resetLow = false) (tag kind : Byte) (payload : List Byte) :
    exec (.unknownKind tag kind payload) s
      = .next (startTx (receive s { kind := kind, tag := tag, payload := payload })) := next_live h

/-- Settles O6: the frame is read back (`rxBytes_frame`), its payload too (`judge_payload`), and it is then queued or
taken as the row is. -/
theorem frameOfARequestActsAsItsRow : Obligations.FrameOfARequestActsAsItsRow := by
  intro r tag s hw hhigh hrx hqueue
  have hbytes := exec_cellFrame (f := { kind := r.kind, tag := tag, payload := r.payload }) hhigh hrx
    (payload_length_le hw)
  have htaken (hslot : s.clu.replySlot = none) : receive (hunted s) { kind := r.kind, tag := tag, payload := r.payload }
      = takeRequest tag r (hunted s) := by
    have hempty : s.clu.rxQueue = [] := hqueue.resolve_left (by simp [hslot])
    rw [receive_of_empty (s := hunted s) hslot hempty]
    exact takeFrame_of_request (f := { kind := r.kind, tag := tag, payload := r.payload }) (judge_payload hw)
  refine ⟨?_, fun hslot => by rw [hbytes, htaken hslot]⟩
  rw [hbytes, exec_rowOf (s := hunted s) hhigh]
  cases hslot : s.clu.replySlot with
  | none =>
    have hempty : s.clu.rxQueue = [] := hqueue.resolve_left (by simp [hslot])
    rw [htaken hslot, submit_of_empty (s := hunted s) hslot hempty hw]
  | some x => rw [submit_of_reply (s := hunted s) (hslot ▸ nofun)]

/-- Settles O7 by `receive_of_reply`. -/
theorem busyReplySlotQueuesFrames : Obligations.BusyReplySlotQueuesFrames := by
  refine fun s hhigh hslot => ⟨fun r tag => ?_, fun tag kind payload => ?_⟩
  · rw [exec_rowOf hhigh, submit_of_reply hslot, receive_of_reply hslot]; rfl
  · rw [exec_unknownKind hhigh, receive_of_reply hslot]; rfl

/-- Settles O8: the kinds by `judge_eq_unknownKind_iff`, and each refusal by the frame that is taken at once. -/
theorem unknownKindsAndLengthsAreRefused : Obligations.UnknownKindsAndLengthsAreRefused := by
  refine ⟨judge_eq_unknownKind_iff, fun tag kind payload s h hkind => ?_, fun f s h hrx hf hlength => ?_,
    fun tag s h => ?_⟩
  all_goals obtain ⟨hhigh, hslot, hqueue⟩ := h
  · rw [exec_unknownKind hhigh, receive_of_empty hslot hqueue, takeFrame_of_unknownKind hkind]; rfl
  · rw [exec_cellFrame hhigh hrx hf, receive_of_empty (s := hunted s) hslot hqueue, takeFrame_of_badLength hlength]; rfl
  · have hrefused : ∀ r : Request, r.wf = false → exec (rowOf tag r) s = .next (replied r.kind tag [2] s) := by
      intro r hw
      rw [exec_rowOf hhigh, submit_of_ill_formed hslot hqueue hw]; rfl
    exact ⟨hrefused (.setLot []) rfl, hrefused (.setBin []) rfl, hrefused (.setCategory []) rfl⟩

/-! ### The end of sending (R175, R178) -/

theorem startTx_of_busy (h : s.clu.tx ≠ .idle) : startTx s = s := if_pos h

theorem startTx_of_reply (h : s.clu.tx = .idle) (hslot : s.clu.replySlot.isSome) :
    startTx s = modClu (fun c => { c with tx := .reply }) s := by
  rw [startTx, if_neg (not_not.2 h), if_pos hslot]

theorem startTx_of_notice (h : s.clu.tx = .idle) (hslot : s.clu.replySlot = none)
    (hreset : s.clu.resetRequested = false) (hnotices : s.clu.notices ≠ []) : startTx s = modClu (fun c => { c with tx := .notice }) s := by
  rw [startTx, if_neg (not_not.2 h), if_neg (by simp [hslot]), if_pos ⟨hnotices, hreset⟩]

/-- The state in which the reply that was being sent has left the slot. -/
def replyGone (s : State) : State := { s with clu := { s.clu with tx := .idle, replySlot := none } }

theorem replyDone_of_reply (h : s.clu.tx = .reply) (hreset : s.clu.resetRequested = false) :
    replyDone s = pump (replyGone s) := by
  rw [replyDone, if_neg (not_not.2 h), if_neg (by simp [hreset])]; rfl

theorem noticeDone_of_notice (h : s.clu.tx = .notice) :
    noticeDone s = { s with clu := { s.clu with tx := .idle, notices := s.clu.notices.drop 1 } } :=
  if_neg (not_not.2 h)

theorem exec_replySent (h : s.pins.resetLow = false) : exec .replySent s = .next (startTx (replyDone s)) := next_live h

/-- Settles O9: each end of sending, then what a free line begins. -/
theorem endOfSendingFreesTheLine : Obligations.EndOfSendingFreesTheLine := by
  intro s hhigh
  refine ⟨fun htx hreset hqueue => ?_, fun f fs r htx hreset hqueue hjudge => ?_, fun htx => ?_, fun htx hslot => ?_,
    fun htx hslot hreset hnotices => ?_, startTx_of_busy⟩
  · rw [exec_replySent hhigh, replyDone_of_reply htx hreset, pump_of_nothing_waiting (s := replyGone s) hqueue]
    rfl
  · rw [exec_replySent hhigh, replyDone_of_reply htx hreset, pump_of_waiting (s := replyGone s) rfl hqueue,
      takeFrame_of_request hjudge]
    rfl
  · rw [← noticeDone_of_notice htx]
    exact next_live hhigh
  · rw [startTx_of_reply htx hslot]; rfl
  · rw [startTx_of_notice htx hslot hreset hnotices]; rfl

end Sys2Proof.Machine
end

section
/-! PROOF. RESET_N low and the end of a RESET reply (R181, R182). -/
namespace Sys2Proof.Machine

variable {s : State} {i : Instr}

theorem live_of_low {f : State → State} (h : s.pins.resetLow = true) : live f s = s := if_pos h

/-- While RESET_N is low a command that is no line of the board is not taken. -/
theorem exec_of_low (h : s.pins.resetLow = true) (hi : lineEvent i = false) : exec i s = .next s := by
  cases hr : requestOf i with
  | some x => rw [exec_of_requestOf hr, live_of_low h]
  | none =>
    cases i with
    | doorActive | doorInactive | estopActive | estopInactive | resetNLow | resetNRelease => cases hi
    | powerUp => exact congrArg Host.Outcome.next (if_pos h)
    | cellFrameReceived | unknownKind | replySent | noticeSent | done | driveReplyTimerExpiry | settleTimerExpiry
    | fillTimerExpiry | testTimerExpiry | soakExpiry | stagingTimerExpiry | eot | byteGapTimeout =>
      exact congrArg Host.Outcome.next (live_of_low h)
    | _ => cases hr

/-- Settles O11: the fall of RESET_N, the commands that are no lines (`exec_of_low`), and the levels that are
followed. -/
theorem nothingIsTakenWhileResetIsLow : Obligations.NothingIsTakenWhileResetIsLow := by
  refine ⟨fun s => rfl, fun c s h hc => exec_of_low h hc, fun s h => ⟨?_, ?_, ?_, ?_⟩⟩
  all_goals exact congrArg Host.Outcome.next (if_pos h)

/-- After reset there is nothing to send. -/
theorem startTx_afterReset (door estop rate : Bool) (s : State) :
    startTx (afterReset door estop rate s) = afterReset door estop rate s := by
  cases estop <;> cases door <;> rfl

/-- The end of a RESET reply draws the level of RATE and ends reset. -/
theorem replyDone_of_reset (h : s.clu.tx = .reply) (hreset : s.clu.resetRequested = true) :
    replyDone s = endReset (drawBool s).1 { s with free := s.free + 1 } := by
  rw [replyDone, if_neg (not_not.2 h), if_pos hreset]; rfl

/-- Settles O13: RESET is taken at once, and the end of its reply is `endReset` with a drawn level. -/
theorem resetTakesEffectAfterItsReply : Obligations.ResetTakesEffectAfterItsReply := by
  refine fun tag s => ⟨fun h => exec_of_takesNow (q := .reset) rfl h rfl, fun hhigh htx hreset => ?_⟩
  have hsent : exec .replySent s = .next (startTx (replyDone s)) := next_live hhigh
  rw [hsent, replyDone_of_reset htx hreset, endReset_eq, startTx_afterReset]

end Sys2Proof.Machine
end

section
/-! PROOF. Factors, their groups and ATTN, and the requests that set and clear them (R177, R178, R179). -/
namespace Sys2Proof.Machine

variable {s : State} {tag : Byte} {m x : Word} {f : Factor}

/-! ### Groups of factors (R177, Table 11-4) -/

/-- The bits of a group's mask are those of its factors. -/
theorem groupMask_getLsbD : ∀ (g : Fin 7) (i : Fin 32),
    (groupMask g.val).getLsbD i.val = decide (groupFirst g.val ≤ i.val ∧ i.val < groupFirst (g.val + 1)) := by decide

/-- Every factor is in a group, and no group has another. -/
theorem factorMask_getLsbD : ∀ i : Fin 32,
    (0x03FFFFFF : Word).getLsbD i.val = decide (∃ g : Fin 7, (groupMask g.val).getLsbD i.val = true) := by decide

theorem ne_zero_iff_getLsbD {w : Nat} {x : BitVec w} : x ≠ 0 ↔ ∃ i : Fin w, x.getLsbD i.val = true := by
  constructor
  · intro h
    by_contra hnone
    refine h (BitVec.eq_of_getLsbD_eq fun i hi => ?_)
    simpa using fun hbit => hnone ⟨⟨i, hi⟩, hbit⟩
  · rintro ⟨i, hi⟩ rfl
    simp at hi

/-- A group summary is set where a factor of the group is both pending and enabled (R178). -/
theorem summary_iff (c : Clu) (g : Fin 7) : c.summary g.val = true ↔ ∃ f : Fin 26, groupFirst g.val ≤ f.val
    ∧ f.val < groupFirst (g.val + 1) ∧ c.raised.getLsbD f.val = true ∧ c.enabled.getLsbD f.val = true := by
  have hlast : ∀ g : Fin 7, groupFirst (g.val + 1) ≤ 26 := by decide
  simp only [Clu.summary, decide_eq_true_eq, ne_zero_iff_getLsbD, BitVec.getLsbD_and, groupMask_getLsbD,
    Bool.and_eq_true]
  constructor
  · rintro ⟨i, ⟨hraised, henabled⟩, hlow, hhigh⟩
    exact ⟨⟨i.val, lt_of_lt_of_le hhigh (hlast g)⟩, hlow, hhigh, hraised, henabled⟩
  · rintro ⟨f, hlow, hhigh, hraised, henabled⟩
    exact ⟨⟨f.val, by omega⟩, ⟨hraised, henabled⟩, hlow, hhigh⟩

/-- ATTN shows whether some factor is both pending and enabled (R178). -/
theorem attention_iff (c : Clu) : c.attention = true ↔ c.raised &&& c.enabled &&& 0x03FFFFFF ≠ 0 := by
  have hgroups : c.attention = true ↔ ∃ g : Fin 7, c.raised &&& c.enabled &&& groupMask g.val ≠ 0 := by
    simp only [Clu.attention, List.any_eq_true, List.mem_range, Clu.summary, decide_eq_true_eq]
    exact ⟨fun ⟨g, hg, h⟩ => ⟨⟨g, hg⟩, h⟩, fun ⟨g, h⟩ => ⟨g.val, g.isLt, h⟩⟩
  rw [hgroups]
  simp only [ne_zero_iff_getLsbD, BitVec.getLsbD_and, Bool.and_eq_true, factorMask_getLsbD, decide_eq_true_eq]
  exact ⟨fun ⟨g, i, hi, hg⟩ => ⟨i, hi, g, hg⟩, fun ⟨i, hi, g, hg⟩ => ⟨g, i, hi, hg⟩⟩

theorem attention_eq (c : Clu) : c.attention = decide (c.raised &&& c.enabled &&& 0x03FFFFFF ≠ 0) := by
  rw [Bool.eq_iff_iff, attention_iff, decide_eq_true_eq]

/-! ### Raising (R178) -/

theorem and_bit_ne_zero_iff (f : Factor) : x &&& f.bit ≠ 0 ↔ x.getLsbD f.number.val = true := by
  have hbit : BitVec.twoPow 32 f.number.val ≠ 0 := by cases f <;> decide
  rw [Factor.bit, BitVec.and_twoPow]
  split
  · rename_i h; simpa [h] using hbit
  · rename_i h; simp [h]

/-- Settles O16: the fields of `Clu.raise`, and ATTN by `attention_eq`. -/
theorem raisingAFactorMakesItsNotice : Obligations.RaisingAFactorMakesItsNotice := by
  intro f arg s
  have hattn : (s.clu.raise f s.now arg).attention
      = decide ((s.clu.raised ||| f.bit) &&& s.clu.enabled &&& 0x03FFFFFF ≠ 0) := attention_eq _
  have hnotices : (s.clu.raise f s.now arg).notices =
      if s.clu.enabled.getLsbD f.number.val = true ∧ s.clu.notices.length < 16 then
        s.clu.notices ++ [noticeFrame f s.now arg] else s.clu.notices := by
    simp only [Clu.raise, and_bit_ne_zero_iff]
  have hclu : s.clu.raise f s.now arg = { s.clu with
      raised := s.clu.raised ||| f.bit, args := s.clu.args.set f.number.val arg,
      notices := (s.clu.raise f s.now arg).notices } := rfl
  rw [raise, setAttn, hattn, hclu, hnotices]
  rfl

/-! ### NOTICE_ENABLE and NOTICE_CLEAR (R179) -/

/-- The condition factors are LOG_NOT_EMPTY and LOG_FULL (R158). -/
theorem logConditions_getLsbD (srt : Srt) (i : Fin 32) : (logConditions srt).getLsbD i.val =
    ((i.val = 8 && srt.log.length ≠ 0) || (i.val = 9 && srt.log.length = 64)) := by
  have height : Factor.logNotEmpty.bit.getLsbD i.val = decide (i.val = 8) := by revert i; decide
  have hnine : Factor.logFull.bit.getLsbD i.val = decide (i.val = 9) := by revert i; decide
  have hlog : srt.log ≠ [] ↔ srt.log.length ≠ 0 := by simp
  rw [logConditions, BitVec.getLsbD_or]
  congr 1
  · simp only [hlog]
    split <;> simp_all
  · split <;> simp_all

theorem clearedSet_getLsbD (m : Word) (s : State) (i : Fin 32) : (clearedSet m s).getLsbD i.val =
    (s.clu.raised.getLsbD i.val && (!m.getLsbD i.val || (i.val = 8 && s.srt.log.length ≠ 0)
      || (i.val = 9 && s.srt.log.length = 64))) := by
  simp only [clearedSet, BitVec.getLsbD_and, BitVec.getLsbD_not, logConditions_getLsbD, i.isLt, decide_true,
    Bool.true_and, Bool.not_and, Bool.not_not, Bool.or_assoc]

theorem serveNoticeEnable_of_ok (h : m.toNat < 2 ^ 26) (s : State) :
    serveNoticeEnable m s = (setAttn { s with clu := { s.clu with enabled := m } }, 0 :: be32 m) :=
  if_pos (maskOk_iff.2 h)

theorem serveNoticeEnable_of_bad (h : 2 ^ 26 ≤ m.toNat) (s : State) : serveNoticeEnable m s = (s, [3]) :=
  if_neg (by simp [maskOk_eq_false_iff.2 h])

theorem serveNoticeClear_of_bad (h : 2 ^ 26 ≤ m.toNat) (s : State) : serveNoticeClear m s = (s, [3]) :=
  if_pos (by simp [maskOk_eq_false_iff.2 h])

theorem serveNoticeClear_of_ok (h : m.toNat < 2 ^ 26) (s : State) : serveNoticeClear m s =
    if protection s then (s, [6])
    else (setAttn { s with clu := { s.clu with raised := clearedSet m s } }, 0 :: be32 (clearedSet m s)) :=
  if_neg (by simp [maskOk_iff.2 h])

theorem exec_noticeEnable_of_takesNow (h : takesNow s) (tag : Byte) (m : Word) : exec (.noticeEnable tag m) s
    = .next (replied 0x28 tag (serveNoticeEnable m s).2 (serveNoticeEnable m s).1) :=
  exec_of_takesNow (q := .noticeEnable m) rfl h rfl

theorem exec_noticeClear_of_takesNow (h : takesNow s) (tag : Byte) (m : Word) : exec (.noticeClear tag m) s
    = .next (replied 0x29 tag (serveNoticeClear m s).2 (serveNoticeClear m s).1) :=
  exec_of_takesNow (q := .noticeClear m) rfl h rfl

/-- Settles O17: each request is taken at once, with the refusals of its owner in their order. -/
theorem noticeRequestsFollowTheirRule : Obligations.NoticeRequestsFollowTheirRule := by
  intro tag m s h
  rw [exec_noticeEnable_of_takesNow h, exec_noticeClear_of_takesNow h]
  refine ⟨fun hm => ?_, fun hm => ?_, fun hm => ?_, fun hm hheld hclear => ?_, fun hm hfree => ?_⟩
  · rw [serveNoticeEnable_of_ok hm]
  · rw [serveNoticeEnable_of_bad hm]
  · rw [serveNoticeClear_of_bad hm]
  · rw [serveNoticeClear_of_ok hm, if_pos (protection_iff.2 ⟨hheld, hclear⟩)]
  · have hunprotected : ¬protection s = true := by
      rw [protection_iff]
      rintro ⟨hheld, hclear⟩
      rcases hfree with hfree | hfree <;> simp_all
    rw [serveNoticeClear_of_ok hm, if_neg hunprotected]
    exact ⟨clearedSet m s, rfl, clearedSet_getLsbD m s⟩

end Sys2Proof.Machine
end

section
/-! PROOF. The requests that read and change nothing (R180, R21, R135, R52, R159, R33), and the places of a STATUS reply
(Table 11-5). -/
namespace Sys2Proof.Machine

variable {s : State} {tag : Byte}

/-! ### The status of each reply -/

/-- A request that is taken at once and leaves its state as it is changes nothing but the reply slot. -/
theorem exec_of_reading {i : Instr} {q : Request} (hi : requestOf i = some (tag, q)) (h : takesNow s)
    (hw : q.wf = true) (hread : (serve q s).1 = s) : exec i s = .next (replied q.kind tag (serve q s).2 s) := by
  rw [exec_of_takesNow hi h hw, hread]

theorem serveStatus_status (factor : Byte) (s : State) :
    (serveStatus factor s).2.head? = some (if factor = 0xFF ∨ factor.toNat < 26 then 0 else 3) := by
  unfold serveStatus
  split
  · rename_i hall; rw [if_pos (Or.inl hall)]; rfl
  · rename_i hone
    by_cases hf : factor.toNat < 26
    · have hi : index 26 factor.toNat = some ⟨factor.toNat, hf⟩ := dif_pos hf
      rw [hi, if_pos (Or.inr hf)]; rfl
    · rw [index_of_ge (not_lt.1 hf), if_neg (by tauto)]; rfl

theorem serveUnitQuery_status (u : Word) (place : Half) (s : State) : (serveUnitQuery u place s).2.head? =
    some (if u ≠ 0 then (if (findUnit u s).isSome then 0 else 5)
      else if (Place.ofCode place).isSome then 0 else 3) := by
  unfold serveUnitQuery
  split
  · cases findUnit u s <;> rfl
  · cases Place.ofCode place <;> rfl

theorem serveSocketQuery_status (socket : Byte) (s : State) :
    (serveSocketQuery socket s).2.head? = some (if socket.toNat < 16 then 0 else 3) := by
  unfold serveSocketQuery
  by_cases hk : socket.toNat < 16
  · have hi : index 16 socket.toNat = some ⟨socket.toNat, hk⟩ := dif_pos hk
    rw [hi, if_pos hk]; rfl
  · rw [index_of_ge (not_lt.1 hk), if_neg hk]; rfl

theorem inputSide_isSome_iff {b : Byte} : (inputSide b).isSome ↔ b.toNat < 2 := by
  by_cases h : b.toNat < 2
  · interval_cases hb : b.toNat <;> simp [inputSide, hb]
  · simp [inputSide_of_ge (not_lt.1 h), h]

theorem outputStation_isSome_iff {b : Byte} : (outputStation b).isSome ↔ 2 ≤ b.toNat ∧ b.toNat < 10 := by
  constructor
  · intro h
    by_contra hout
    rw [outputStation_of_other (by omega)] at h
    cases h
  · rintro ⟨hlow, hhigh⟩
    have hi : index 8 (b.toNat - 2) = some ⟨b.toNat - 2, by omega⟩ := dif_pos (by omega)
    rw [outputStation, if_pos hlow, hi]; rfl

theorem serveStationQuery_status (station : Byte) (s : State) :
    (serveStationQuery station s).2.head? = some (if station.toNat < 10 then 0 else 3) := by
  have hin := inputSide_isSome_iff (b := station)
  have hout := outputStation_isSome_iff (b := station)
  unfold serveStationQuery
  cases hi : inputSide station with
  | some st =>
    rw [hi] at hin
    rw [if_pos (by have := hin.1 rfl; omega)]; rfl
  | none =>
    cases ho : outputStation station with
    | some st =>
      rw [ho] at hout
      rw [if_pos (hout.1 rfl).2]; rfl
    | none =>
      rw [hi] at hin
      rw [ho] at hout
      rw [if_neg (by simp at hin hout; omega)]; rfl

theorem serveLotSummary_status (s : State) : (serveLotSummary s).2.head? =
    some (if s.ltc.state = .idle ∧ s.ltc.closed = none then 5 else 0) := by
  unfold serveLotSummary
  by_cases hidle : s.ltc.state = .idle
  · cases hclosed : s.ltc.closed <;> simp [hidle, answer, Status.code]
  · simp [hidle, answer, Status.code]

/-- Settles O18: each request is taken at once and leaves its state as it is. -/
theorem readingRequestsChangeNothing : Obligations.ReadingRequestsChangeNothing := by
  intro tag s h
  exact ⟨fun factor => ⟨_, exec_of_reading (q := .status factor) rfl h rfl (serveStatus_fst factor s),
      serveStatus_status factor s⟩,
    fun u place => ⟨_, exec_of_reading (q := .unitQuery u place) rfl h rfl (serveUnitQuery_fst u place s),
      serveUnitQuery_status u place s⟩,
    fun socket => ⟨_, exec_of_reading (q := .socketQuery socket) rfl h rfl (serveSocketQuery_fst socket s),
      serveSocketQuery_status socket s⟩,
    fun station => ⟨_, exec_of_reading (q := .stationQuery station) rfl h rfl (serveStationQuery_fst station s),
      serveStationQuery_status station s⟩,
    ⟨_, exec_of_reading (q := .lotSummary) rfl h rfl (serveLotSummary_fst s), serveLotSummary_status s⟩⟩

/-! ### The bytes of a STATUS reply (Table 11-5) -/

theorem maskOf_succ (n : Nat) (f : Nat → Bool) : maskOf (n + 1) f = maskOf n f + if f n then 2 ^ n else 0 := by
  simp only [maskOf, List.range_succ, List.foldl_append, List.foldl_cons, List.foldl_nil]
  split <;> rfl

theorem maskOf_lt : ∀ (n : Nat) (f : Nat → Bool), maskOf n f < 2 ^ n
  | 0, _ => Nat.one_pos
  | n + 1, f => by
    have hlow := maskOf_lt n f
    rw [maskOf_succ, Nat.pow_succ]
    split <;> omega

/-- Bit i of a mask is set by the predicate on i. -/
theorem maskOf_testBit : ∀ (n : Nat) (f : Nat → Bool) (i : Nat), (maskOf n f).testBit i = (decide (i < n) && f i)
  | 0, f, i => by simp [maskOf]
  | n + 1, f, i => by
    have ih := maskOf_testBit n f i
    rcases lt_trichotomy i n with hlt | rfl | hgt
    · have hrest : (maskOf (n + 1) f).testBit i = (maskOf n f).testBit i := by
        rw [maskOf_succ]
        split
        · rw [Nat.add_comm, Nat.testBit_two_pow_add_gt hlt]
        · rw [Nat.add_zero]
      rw [hrest, ih, decide_eq_true hlt, decide_eq_true (Nat.lt_succ_of_lt hlt)]
    · rw [maskOf_succ, decide_eq_true (Nat.lt_succ_self i), Bool.true_and]
      split
      · rename_i hf; rw [Nat.add_comm, Nat.testBit_two_pow_add_eq, ih, hf]; simp
      · rename_i hf; rw [Nat.add_zero, ih, Bool.eq_false_of_not_eq_true hf, Bool.and_false]
    · rw [Nat.testBit_lt_two_pow (lt_of_lt_of_le (maskOf_lt (n + 1) f) (Nat.pow_le_pow_right (by decide) hgt)),
        decide_eq_false (by omega), Bool.false_and]

theorem LotState.code_lt (x : LotState) : x.code < 6 := by cases x <;> decide

theorem RunState.code_lt (x : RunState) : x.code < 4 := by cases x <;> decide

theorem RunMode.code_lt (x : RunMode) : x.code < 2 := by cases x <;> decide

theorem GantryState.code_lt (x : GantryState) : x.code < 5 := by cases x <;> decide

theorem HeadState.code_lt (x : HeadState) : x.code < 4 := by cases x <;> decide

theorem Holder.code_lt (x : Holder) : x.code < 4 := by cases x <;> decide

theorem toNat_eq_ite (b : Bool) (n : Nat) : n * b.toNat = if b then n else 0 := by cases b <;> simp

theorem HoldCauses.code_lt (c : HoldCauses) : c.code < 8 := by
  have := c.host.toNat_le
  have := c.door.toNat_le
  have := c.holdPoint.toNat_le
  unfold HoldCauses.code
  omega

theorem headStates_lt (s : State) : headStates s < 256 := by
  have h0 := s.hsc.heads[0].state.code_lt
  have h1 := s.hsc.heads[1].state.code_lt
  have h2 := s.hsc.heads[2].state.code_lt
  have h3 := s.hsc.heads[3].state.code_lt
  unfold headStates
  omega

/-- Two bits of the head states byte are one head's state. -/
theorem headStates_digit (s : State) (h : HeadIx) : headStates s / 4 ^ h.val % 4 = s.hsc.heads[h].state.code := by
  have h0 := s.hsc.heads[0].state.code_lt
  have h1 := s.hsc.heads[1].state.code_lt
  have h2 := s.hsc.heads[2].state.code_lt
  have h3 := s.hsc.heads[3].state.code_lt
  unfold headStates
  fin_cases h <;> simp <;> omega

theorem feedByte_eq (s : State) : feedByte s =
    (if s.fsc.current = none then 0 else if s.fsc.current = some .a then 1 else 2)
      + (if s.fsc.starved then 4 else 0) := by
  rw [feedByte, toNat_eq_ite]
  rcases s.fsc.current with _ | (_ | _) <;> rfl

theorem feedByte_lt (s : State) : feedByte s < 256 := by
  rw [feedByte_eq]
  split_ifs <;> decide

theorem Zone.byte_eq (z : Zone) : z.byte = z.holder.code + (if z.head then 4 else 0) + (if z.unload then 8 else 0)
    + (if z.load then 16 else 0) := by
  rw [Zone.byte, toNat_eq_ite, toNat_eq_ite, toNat_eq_ite]

theorem Zone.byte_lt (z : Zone) : z.byte < 256 := by
  have := z.holder.code_lt
  rw [Zone.byte_eq]
  split_ifs <;> omega

/-- The bytes of a STATUS reply without a factor, one after another (Table 11-5). -/
theorem serveStatus_all (s : State) : (serveStatus 0xFF s).2 =
    0 :: BitVec.ofNat 8 (maskOf 7 s.clu.summary) :: (be32 s.clu.raised ++ (be32 s.clu.enabled ++
      BitVec.ofNat 8 s.ltc.state.code :: BitVec.ofNat 8 s.rcu.run.code :: BitVec.ofNat 8 s.rcu.causes.code
      :: BitVec.ofNat 8 s.rcu.mode.code :: BitVec.ofNat 8 (headStates s) :: BitVec.ofNat 8 s.gsqL.state.code
      :: BitVec.ofNat 8 s.gsqU.state.code :: BitVec.ofNat 8 (feedByte s) :: BitVec.ofNat 8 s.srt.log.length
      :: BitVec.ofNat 8 s.zar[0].byte :: BitVec.ofNat 8 s.zar[1].byte :: BitVec.ofNat 8 s.zar[2].byte
      :: BitVec.ofNat 8 s.zar[3].byte :: (be32 s.now ++ [0xFF]))) := by
  rw [serveStatus, if_pos rfl, statusFields]
  simp [answer, Status.code, n8]

/-- The summary byte has a bit for each of the seven groups. -/
theorem summaryByte_getLsbD (c : Clu) (g : Fin 7) :
    (BitVec.ofNat 8 (maskOf 7 c.summary)).getLsbD g.val = true ↔ c.summary g.val = true := by
  have hg : g.val < 8 := by omega
  rw [BitVec.getLsbD_ofNat, maskOf_testBit]
  simp [hg]

theorem rd8_zone (s : State) (p : List Byte) (z : HeadIx) :
    rd8 (BitVec.ofNat 8 s.zar[0].byte :: BitVec.ofNat 8 s.zar[1].byte :: BitVec.ofNat 8 s.zar[2].byte
      :: BitVec.ofNat 8 s.zar[3].byte :: p) z.val = BitVec.ofNat 8 s.zar[z].byte := by
  fin_cases z <;> rfl

/-- Settles O19: the reply's bytes one after another, each with the value of its field. -/
theorem statusReplyHasItsLayout : Obligations.StatusReplyHasItsLayout := by
  intro tag s h
  have hlot := s.ltc.state.code_lt
  have hrun := s.rcu.run.code_lt
  have hcauses := s.rcu.causes.code_lt
  have hmode := s.rcu.mode.code_lt
  have hload := s.gsqL.state.code_lt
  have hunload := s.gsqU.state.code_lt
  have hmask := maskOf_lt 7 s.clu.summary
  refine ⟨(serveStatus 0xFF s).2, exec_of_reading (q := .status 0xFF) rfl h rfl (serveStatus_fst 0xFF s), ?_⟩
  rw [serveStatus_all]
  refine ⟨by simp, by simp, fun g => ?_, ?_, by simp, by simp, ?_, ?_, ?_, ?_, fun h => ?_, ?_, ?_, ?_, fun hlog => ?_,
    fun z => ?_, by simp, by simp⟩
  · exact (summaryByte_getLsbD s.clu g).trans (summary_iff s.clu g)
  · exact (toNat_byte (by omega)).trans_lt hmask
  · exact toNat_byte (by omega)
  · exact toNat_byte (by omega)
  · exact toNat_byte (by omega)
  · exact toNat_byte (by omega)
  · rw [← headStates_digit]
    exact congrArg (fun n => n / 4 ^ h.val % 4) (toNat_byte (headStates_lt s))
  · exact toNat_byte (by omega)
  · exact toNat_byte (by omega)
  · rw [← feedByte_eq]
    exact toNat_byte (feedByte_lt s)
  · exact toNat_byte (by omega)
  · rw [← Zone.byte_eq, Nat.add_comm 19]
    exact (congrArg BitVec.toNat (rd8_zone s _ z)).trans (toNat_byte (Zone.byte_lt _))

end Sys2Proof.Machine
end

section
/-! PROOF. The queue of commands that wait: a step takes its front, and no command changes it (log entry 1). The
operations of the blocks keep it (`Keeps.pending`); what is shown here are the requests that store values, the cell link,
the lines and the reset. -/
namespace Sys2Proof.Machine

variable {s t : State}

/-- A step on a queue with a command at its front runs that command (log entry 1). -/
theorem step_of_command {c : Instr} {cs : List Instr} (h : s.pending = c :: cs) :
    step s = exec c { s with pending := cs } := by
  rw [step, h]

/-- Settles O1: the case of `step` for a queue that is not empty. -/
theorem stepRunsTheFrontCommand : Obligations.StepRunsTheFrontCommand := fun _ _ _ h => step_of_command h

/-! ### Requests that store values -/

theorem teach_pending {ranges prerequisites : Bool} {reach : List (Half × Bool)} {store : State → State}
    (hstore : (store s).pending = s.pending := by rfl) :
    (teach ranges prerequisites reach store s).1.pending = s.pending :=
  teach_induct (motive := fun t => t.pending = s.pending) rfl hstore

theorem serveSetupAxis_pending (axis : Byte) (k : Half) (lmax park : Word) (s : State) :
    (serveSetupAxis axis k lmax park s).1.pending = s.pending := by
  unfold serveSetupAxis; split <;> exact teach_pending

theorem serveSetupSocket_pending (socket : Byte) (lx ly ux uy : Word) (tx ty w : Half) (policy : Byte) (s : State) :
    (serveSetupSocket socket lx ly ux uy tx ty w policy s).1.pending = s.pending := by
  unfold serveSetupSocket; split <;> exact teach_pending

theorem serveSetupStation_pending (station : Byte) (part : StationPart) (s : State) :
    (serveSetupStation station part s).1.pending = s.pending := by
  unfold serveSetupStation serveSetupTray serveSetupNest
  split <;> split <;> exact teach_pending

theorem serveLotOpen_pending (lot : Half) (s : State) : (serveLotOpen lot s).1.pending = s.pending := by
  unfold serveLotOpen; split <;> rfl

theorem serveSetLot_pending (es : List ParamArg) (s : State) : (serveSetLot es s).1.pending = s.pending := by
  unfold serveSetLot; split_ifs <;> rfl

theorem serveSetBin_pending (es : List BinArg) (s : State) : (serveSetBin es s).1.pending = s.pending := by
  unfold serveSetBin; split_ifs <;> rfl

theorem serveSetCategory_pending (es : List CategoryArg) (s : State) :
    (serveSetCategory es s).1.pending = s.pending := by
  unfold serveSetCategory; split_ifs <;> rfl

theorem serveLotStart_pending (s : State) : (serveLotStart s).1.pending = s.pending := by
  have hstart : (startLot s).pending = s.pending := rfl
  unfold serveLotStart
  repeat' split
  · rfl
  · rfl
  · exact (settle_keeps (headsFollow_keeps _ (.refl (startLot s)))).pending.trans hstart

theorem setRunMode_pending (m : RunMode) (s : State) : (setRunMode m s).pending = s.pending := by
  unfold setRunMode; split
  · exact (clearCredits_keeps (.refl _)).pending
  · exact (Keeps.foldl (fun _ _ => requestHead_keeps _) _ _ (.refl _)).pending
  · rfl

theorem serveSetMode_pending (mode : Byte) (timeout delay : Half) (s : State) :
    (serveSetMode mode timeout delay s).1.pending = s.pending := by
  unfold serveSetMode
  repeat' split
  · exact (settle_keeps (headsFollow_keeps _ (.refl _))).pending.trans (setRunMode_pending _ _)
  · rfl
  · rfl

theorem serveSetHoldpoint_pending (x kind : Byte) (value : Word) (enabled : Byte) (s : State) :
    (serveSetHoldpoint x kind value enabled s).1.pending = s.pending := by
  unfold serveSetHoldpoint
  repeat' split
  all_goals rfl

theorem serveSetProtect_pending (v : Byte) (s : State) : (serveSetProtect v s).1.pending = s.pending := by
  unfold serveSetProtect; split <;> rfl

theorem serveNoticeEnable_pending (m : Word) (s : State) : (serveNoticeEnable m s).1.pending = s.pending := by
  unfold serveNoticeEnable; split <;> rfl

theorem serveNoticeClear_pending (m : Word) (s : State) : (serveNoticeClear m s).1.pending = s.pending := by
  unfold serveNoticeClear; split_ifs <;> rfl

/-- Every request: one that stores no value of its own is made of operations of the blocks. -/
theorem serve_pending (q : Request) (s : State) : (serve q s).1.pending = s.pending := by
  cases q with
  | setupAxis => exact serveSetupAxis_pending _ _ _ _ s
  | setupCamera => exact teach_pending
  | setupSocket => exact serveSetupSocket_pending _ _ _ _ _ _ _ _ _ s
  | setupSoak => exact teach_pending
  | setupStation => exact serveSetupStation_pending _ _ s
  | setupChute => exact teach_pending
  | lotOpen => exact serveLotOpen_pending _ s
  | setLot => exact serveSetLot_pending _ s
  | setBin => exact serveSetBin_pending _ s
  | setCategory => exact serveSetCategory_pending _ s
  | lotStart => exact serveLotStart_pending s
  | setMode => exact serveSetMode_pending _ _ _ s
  | setHoldpoint => exact serveSetHoldpoint_pending _ _ _ _ s
  | setProtect => exact serveSetProtect_pending _ s
  | noticeEnable => exact serveNoticeEnable_pending _ s
  | noticeClear => exact serveNoticeClear_pending _ s
  | reset => rfl
  | _ => exact (serve_keeps _ rfl (.refl s)).pending

/-! ### The cell link (R173, R175, R178) -/

theorem takeFrame_pending (f : Frame) (s : State) : (takeFrame f s).pending = s.pending := by
  unfold takeFrame; split
  · rfl
  · rfl
  · exact serve_pending _ s

theorem pump_pending (s : State) : (pump s).pending = s.pending := by
  unfold pump; split
  · exact takeFrame_pending _ _
  · rfl

theorem joinQueue_pending (f : Frame) (s : State) : (joinQueue f s).pending = s.pending := by
  unfold joinQueue; split <;> rfl

theorem receive_pending (s : State) (f : Frame) : (receive s f).pending = s.pending :=
  (pump_pending _).trans (joinQueue_pending f s)

theorem foldl_receive_pending : ∀ (fs : List Frame) (s : State), (fs.foldl receive s).pending = s.pending
  | [], _ => rfl
  | f :: fs, s => (foldl_receive_pending fs (receive s f)).trans (receive_pending s f)

theorem cellBytes_pending (bytes : List Byte) (s : State) : (cellBytes bytes s).pending = s.pending :=
  foldl_receive_pending _ _

theorem submit_pending (tag : Byte) (q : Request) (s : State) : (submit tag q s).pending = s.pending := by
  unfold submit; split_ifs
  · exact serve_pending q s
  · rfl
  · exact receive_pending s _

theorem startTx_pending (s : State) : (startTx s).pending = s.pending := by
  unfold startTx; split_ifs <;> rfl

theorem noticeDone_pending (s : State) : (noticeDone s).pending = s.pending := by
  unfold noticeDone; split <;> rfl

theorem gapTimeout_pending (l : Link) (s : State) : (gapTimeout l s).pending = s.pending := by
  cases l with
  | cell => rfl
  | drive g => exact modGsq_pending g _ s

/-! ### Reset and the lines (R160, R162, R165, R181, R182) -/

/-- The queue is no register of the part: a reset leaves it. -/
theorem endReset_pending (rate : Bool) (s : State) : (endReset rate s).pending = s.pending :=
  (readLines_keeps (s := resetValues (modPins (fun p => { p with rate := rate }) s)) rfl).pending

theorem replyDone_pending (s : State) : (replyDone s).pending = s.pending := by
  unfold replyDone; split_ifs
  · rfl
  · exact endReset_pending _ _
  · exact pump_pending _

theorem releaseReset_pending (rate : Bool) (s : State) : (releaseReset rate s).pending = s.pending := by
  unfold releaseReset; split
  · exact endReset_pending rate s
  · rfl

theorem completePowerUp_pending (rate : Bool) (s : State) : (completePowerUp rate s).pending = s.pending := by
  unfold completePowerUp; split
  · rfl
  · exact endReset_pending rate s

theorem doorOpens_pending (s : State) : (doorOpens s).pending = s.pending := by
  unfold doorOpens; split
  · rfl
  · exact (holdWith_keeps _ (.refl _)).pending

theorem doorCloses_pending (s : State) : (doorCloses s).pending = s.pending := by
  unfold doorCloses; dsimp only; split <;> rfl

theorem estopOn_pending (s : State) : (estopOn s).pending = s.pending := by
  unfold estopOn; dsimp only; split_ifs
  · rfl
  · rfl
  · exact (enterEstop_keeps (.refl _)).pending

/-! ### Commands -/

/-- An event that the part takes where RESET_N is high (R181). -/
theorem live_pending {f : State → State} (hf : (f s).pending = s.pending) : (live f s).pending = s.pending := by
  unfold live; split
  · rfl
  · exact (startTx_pending _).trans hf

/-- An event on a line of the board, whose level is followed while RESET_N is low (R181). -/
theorem line_pending {low high : State} (hlow : low.pending = s.pending) (hhigh : high.pending = s.pending) :
    (if s.pins.resetLow then low else startTx high).pending = s.pending := by
  split
  · exact hlow
  · exact (startTx_pending _).trans hhigh

theorem whenDue_pending {b : Bool} {f : State → State} (hf : (f s).pending = s.pending) :
    (whenDue b f s).pending = s.pending := by
  unfold whenDue; split
  · exact hf
  · rfl

/-- The commands that are no requests, one by one. -/
theorem event_pending {c : Instr} (hc : requestOf c = none) (e : exec c s = .next t) : t.pending = s.pending := by
  cases c with
  | cellFrameReceived bytes => cases e; exact live_pending (cellBytes_pending bytes s)
  | unknownKind => cases e; exact live_pending (receive_pending s _)
  | replySent => cases e; exact live_pending (replyDone_pending s)
  | noticeSent => cases e; exact live_pending (noticeDone_pending s)
  | done g bytes => cases e; exact live_pending (driveBytes_keeps g bytes (.refl s)).pending
  | driveReplyTimerExpiry g =>
    cases e; exact live_pending (whenDue_pending (driveTimeout_keeps g (.refl s)).pending)
  | settleTimerExpiry => cases e; exact live_pending (settleEvent_keeps s).pending
  | fillTimerExpiry h => cases e; exact live_pending (whenDue_pending (fillExpiry_keeps h (.refl s)).pending)
  | testTimerExpiry h => cases e; exact live_pending (whenDue_pending (testExpiry_keeps h (.refl s)).pending)
  | soakExpiry u => cases e; exact live_pending (whenDue_pending (soakExpiry_keeps u (.refl s)).pending)
  | stagingTimerExpiry => cases e; exact live_pending (whenDue_pending (stagingExpiry_keeps (.refl s)).pending)
  | eot h lines => cases e; exact live_pending (eotEdge_keeps h lines (.refl s)).pending
  | doorActive => cases e; exact line_pending rfl (doorOpens_pending s)
  | doorInactive => cases e; exact line_pending rfl (doorCloses_pending s)
  | estopActive => cases e; exact line_pending rfl (estopOn_pending s)
  | estopInactive => cases e; exact line_pending rfl rfl
  | resetNLow => cases e; rfl
  | resetNRelease rate => cases e; exact releaseReset_pending rate s
  | powerUp rate => cases e; exact completePowerUp_pending rate s
  | byteGapTimeout l => cases e; exact live_pending (whenDue_pending (gapTimeout_pending l s))
  | _ => cases hc

/-- Settles O3: a request is submitted to the cell link, and each event keeps the queue. -/
theorem commandsLeaveTheQueueAlone : Obligations.CommandsLeaveTheQueueAlone := by
  intro c s t e
  cases hc : requestOf c with
  | none => exact event_pending hc e
  | some x =>
    rw [exec_of_requestOf hc] at e
    cases e
    exact live_pending (submit_pending x.1 x.2 s)

end Sys2Proof.Machine
end
